-- ==== Sys2Proof/Word.lean ====
section
/-! DEFINITION. The word types: 32-bit words, 64-bit addresses and pairs, labels. -/

namespace Sys2Proof

/-- A register word, an instruction word (R8, R41). -/
abbrev Word := BitVec 32

/-- A pair, an address, a group register (R11, R41). -/
abbrev DWord := BitVec 64

/-- A byte of memory. -/
abbrev Byte := BitVec 8

/-- A label: the mask of principals (R54). -/
abbrev Label := BitVec 16

end Sys2Proof
end

