-- ==== Sys2Proof/Config.lean ====
section
/-! DEFINITION. What an implementation fixes and the spec does not say: constants and free values with no body, so that
no proof can see what they are (each names its log entry). -/

namespace Sys2Proof.Config

/-- Which of the two FP32 values that bracket the exact result EX2, LG2, SIN and COS (functions 3 to 6) return:
the one farther from zero, or not. R103 does not specify it. Free value, log entry 8. -/
opaque farther : Nat → BitVec 32 → Bool

/-- A byte that a tile region holds before the first work of its tile, where a load field leaves its contents undefined (R370): pass,
tile, offset in the region. Free value, log entry 79. -/
opaque tileByte : Nat → Nat → Nat → BitVec 8

/-- The device's index in the pod (R53): fixed, not stated. Free value, log entry 5. -/
opaque devIndex : BitVec 6

/-- The frames of a partition's pool on another device of the pod, and in the CXL (2) and host-backed (3) tiers (R354, R400, R450: set
with its composition, and not stated). Free values, log entry 17. -/
opaque peerFrames : Nat → Nat → Nat
opaque tierFrames : Nat → Nat → Nat

/-- A partition spans a device of the pod (R399 gives the number of devices alone): pid, device. Free value, log entry 5. -/
opaque spans : Nat → Nat → Bool

/-- The numbers of devices and cores of a partition on the run that recorded a transcript (R344 compares them and does not say where
they are kept): VF, transcript VA. Free value, log entry 78. -/
opaque recordedShape : Nat → Nat → Nat × Nat

/-- The hash of a line's address over the L2 slices of a device (R274 does not state it): taken modulo 32. Free value, log entry 5. -/
opaque homeHash : Nat → Nat

/-- The frames of a partition are encrypted and tagged (R353 and R424 name the bit enc and do not say what sets it): partition.
Free value, log entry 67. -/
opaque encrypted : Nat → Bool

/-- Bytes of a block of a BC format (R373 gives BC1 to BC7 thirteen codes and does not list them): 8, or 16.
Free value, log entry 9. -/
opaque bcWide : Nat → Bool

/-- The texel of a compressed block (R373 names BC1 to BC7 and ASTC by reference): format, block bytes, position in the
block. Free value, log entry 9. -/
opaque blockTexel : Nat → List Byte → Nat → List (BitVec 32)

/-- The filtered colour of a footprint (R373 names the Vulkan filtering by reference, whose weights it does not fix):
sampler word, coordinates, texels. Free value, log entry 9. -/
opaque filtered : Nat → List Nat → List (List Nat) → List (BitVec 32)

/-- The base level of detail of implicit and gradient forms, as an FP32 value (R373: Vulkan bounds it and does not fix it): the
derivatives of the coordinates along x and y, the size and type of the texture. Free value, log entry 9. -/
opaque lod : List Nat → BitVec 32

/-- The number of samples along the axis of an anisotropic footprint, and their coordinates (R373). Free value, log entry 9. -/
opaque anisotropic : List Nat → Nat → List (List Nat)

/-- A coordinate that is NaN or infinite, as a texel index (R373 does not say). Free value, log entry 9. -/
opaque wildCoord : Nat → Int

/-- The texel past a corner of a cube face, where no face has one: face, x, y, size (R373). Free value, log entry 9. -/
opaque cubeEdge : Nat → Int → Int → Nat → Nat × Nat × Nat

/-- The triangle that a clipped triangle's planes and facing come from, where a vertex has w at or below 0 (R374 forms planes
from the window positions of the three vertices). Free value, log entry 27. -/
opaque clippedWindow : List (List Nat) → List (List Nat)

/-- The workgroup index of a fragment or resolve workgroup (R375, R391: the state of R42, which takes the index from the launch
record's levels; these workgroups have none). Free value, log entry 31. -/
opaque tileIndex : Nat → BitVec 32

/-- The centroid of a fragment that its triangle covers in part (R232: Vulkan leaves its place to the implementation): window x
and y of the pixel, coverage. Free value, log entry 31. -/
opaque centroid : Nat → Nat → Nat → BitVec 32 × BitVec 32

/-- An attribute slot that the draw does not have, as INTERP reads it (R232 does not say). Free value, log entry 31. -/
opaque noAttribute : Nat → Nat → BitVec 32

/-- A line of a reset partition whose latest data had not reached GDDR7 (R427): which lines those are is not stated. The state's
next number, line. Free value, log entry 35. -/
opaque lostLine : Nat → Nat → Bool

/-- The free node a list insertion takes (R383). Free value, log entry 28. -/
opaque freeNode : Nat → Nat

/-- The random draw of screen mode (R420): launch and workgroup number. Free value, log entry 16. -/
opaque screened : Nat → Nat → Nat

/-- The bytes of an attestation report after its nonce (R455): digests, keys and signatures. Free value, log entry 11. -/
opaque report : Nat → List Byte

/-- The status of a mailbox command that a rule refuses without naming one (R399, R401, R404, R429; R445): port, the state's next
number. Free value, log entry 39. -/
opaque refusedStatus : Nat → Nat → BitVec 8

/-- Every other device that a partition spans holds a record with its pid (R399): pid, devices. Free value, log entry 5. -/
opaque podAgrees : Nat → Nat → Bool

/-- Device time of the pod, as the package finds it when a doorbell ends its sleep (R457): the state's next number. Free value, log
entry 42. -/
opaque podTime : Nat → BitVec 64

/-- The status that the boot ROM or the thermal monitor reports on SMBus (R453, R458): step, the state's next number. Free value, log
entry 43. -/
opaque smbusStatus : Nat → Nat → Nat

end Sys2Proof.Config
end

