-- ==== Sys2Proof/Syntax.lean ====
section
/-! DEFINITION. The instructions: one constructor for each row of spec/opcode_table.json, the 173 words first, with
the bit fields of the row as arguments (names as the table has them), then the 101 steps of the device, the host and
nature, which have no word: their arguments say what the step acts on. -/

namespace Sys2Proof

/-- One constructor per row of the opcode table. -/
inductive Instr where
  /-- IADD (R75): Adds two registers modulo 2^32. -/
  | iadd (g : BitVec 4) (d : BitVec 7) (a : BitVec 7) (b : BitVec 7)
  /-- IADD_IMM (R76): Adds a sign-extended 7-bit immediate, or a 32-bit immediate formed with ADV.IMM, to a register. -/
  | iaddImm (g : BitVec 4) (d : BitVec 7) (a : BitVec 7) (i : BitVec 7)
  /-- MOVI (R76): Writes an immediate to a register; this is IADD immediate with ra = z. -/
  | movi (g : BitVec 4) (d : BitVec 7) (i : BitVec 7)
  /-- ISUB (R75): Subtracts two registers modulo 2^32. -/
  | isub (g : BitVec 4) (d : BitVec 7) (a : BitVec 7) (b : BitVec 7)
  /-- IMUL (R75): Writes the low 32 bits of a product. -/
  | imul (g : BitVec 4) (d : BitVec 7) (a : BitVec 7) (b : BitVec 7)
  /-- IMULH_I32 (R75): Writes the high 32 bits of a signed product. -/
  | imulhI32 (g : BitVec 4) (d : BitVec 7) (a : BitVec 7) (b : BitVec 7)
  /-- IMULH_N32 (R75): Writes the high 32 bits of an unsigned product. -/
  | imulhN32 (g : BitVec 4) (d : BitVec 7) (a : BitVec 7) (b : BitVec 7)
  /-- IMAD (R75): Writes the low 32 bits of a multiply-add, with vd or an XOPND register as the addend. -/
  | imad (g : BitVec 4) (d : BitVec 7) (a : BitVec 7) (b : BitVec 7)
  /-- IMIN_I32 (R75): Writes the signed minimum of two registers. -/
  | iminI32 (g : BitVec 4) (d : BitVec 7) (a : BitVec 7) (b : BitVec 7)
  /-- IMIN_N32 (R75): Writes the unsigned minimum of two registers. -/
  | iminN32 (g : BitVec 4) (d : BitVec 7) (a : BitVec 7) (b : BitVec 7)
  /-- IMAX_I32 (R75): Writes the signed maximum of two registers. -/
  | imaxI32 (g : BitVec 4) (d : BitVec 7) (a : BitVec 7) (b : BitVec 7)
  /-- IMAX_N32 (R75): Writes the unsigned maximum of two registers. -/
  | imaxN32 (g : BitVec 4) (d : BitVec 7) (a : BitVec 7) (b : BitVec 7)
  /-- IADD64 (R77): Adds two register pairs modulo 2^64. -/
  | iadd64 (g : BitVec 4) (d : BitVec 7) (a : BitVec 7) (b : BitVec 7)
  /-- ISUB64 (R77): Subtracts two register pairs modulo 2^64. -/
  | isub64 (g : BitVec 4) (d : BitVec 7) (a : BitVec 7) (b : BitVec 7)
  /-- LEA (R78): Adds an index register, shifted left by s, to a register. -/
  | lea (g : BitVec 4) (d : BitVec 7) (a : BitVec 7) (s : BitVec 2) (b : BitVec 5)
  /-- AND (R79): Bitwise AND of two registers. -/
  | and32 (g : BitVec 4) (d : BitVec 7) (a : BitVec 7) (b : BitVec 7)
  /-- OR (R79): Bitwise OR of two registers. -/
  | or32 (g : BitVec 4) (d : BitVec 7) (a : BitVec 7) (b : BitVec 7)
  /-- XOR (R79): Bitwise XOR of two registers. -/
  | xor32 (g : BitVec 4) (d : BitVec 7) (a : BitVec 7) (b : BitVec 7)
  /-- ANDN (R79): Computes va AND NOT vb. -/
  | andn (g : BitVec 4) (d : BitVec 7) (a : BitVec 7) (b : BitVec 7)
  /-- SHL (R80): Shifts left by the whole of vb. -/
  | shl (g : BitVec 4) (d : BitVec 7) (a : BitVec 7) (b : BitVec 7)
  /-- SHR (R80): Shifts right with zero fill by the whole of vb. -/
  | shr (g : BitVec 4) (d : BitVec 7) (a : BitVec 7) (b : BitVec 7)
  /-- SAR (R80): Shifts right arithmetically by the whole of vb. -/
  | sar (g : BitVec 4) (d : BitVec 7) (a : BitVec 7) (b : BitVec 7)
  /-- SHL_IMM (R81): Shifts left by an immediate amount. -/
  | shlImm (g : BitVec 4) (d : BitVec 7) (a : BitVec 7) (n : BitVec 5)
  /-- SHR_IMM (R81): Shifts right with zero fill by an immediate amount. -/
  | shrImm (g : BitVec 4) (d : BitVec 7) (a : BitVec 7) (n : BitVec 5)
  /-- SAR_IMM (R81): Shifts right arithmetically by an immediate amount. -/
  | sarImm (g : BitVec 4) (d : BitVec 7) (a : BitVec 7) (n : BitVec 5)
  /-- BFE (R82): Extracts a bit field described by vb. -/
  | bfe (g : BitVec 4) (d : BitVec 7) (a : BitVec 7) (b : BitVec 7)
  /-- BFI (R83): Inserts a bit field of va into vd. -/
  | bfi (g : BitVec 4) (d : BitVec 7) (a : BitVec 7) (b : BitVec 7)
  /-- MOV (R84): Copies a register unchanged, across register classes. -/
  | mov (g : BitVec 4) (d : BitVec 7) (a : BitVec 7)
  /-- IABS (R84): Writes the absolute value of va, read as i32. -/
  | iabs (g : BitVec 4) (d : BitVec 7) (a : BitVec 7)
  /-- POPC (R84): Counts the 1 bits of va. -/
  | popc (g : BitVec 4) (d : BitVec 7) (a : BitVec 7)
  /-- CLZ (R84): Counts the leading 0 bits of va. -/
  | clz (g : BitVec 4) (d : BitVec 7) (a : BitVec 7)
  /-- BREV (R84): Reverses the bits of va. -/
  | brev (g : BitVec 4) (d : BitVec 7) (a : BitVec 7)
  /-- MOV_64 (R84): Copies a register pair. -/
  | mov64 (g : BitVec 4) (d : BitVec 7) (a : BitVec 7)
  /-- ICMP (R85): Writes a predicate with an integer comparison of two registers. -/
  | icmp (g : BitVec 4) (p : BitVec 3) (c : BitVec 4) (a : BitVec 7) (b : BitVec 7)
  /-- SEL (R86): Writes va or vb in each lane according to the selector predicate. -/
  | sel (s : BitVec 4) (d : BitVec 7) (a : BitVec 7) (b : BitVec 7)
  /-- FADD (R87): FP32 addition, correctly rounded. -/
  | fadd (g : BitVec 4) (d : BitVec 7) (a : BitVec 7) (b : BitVec 7)
  /-- FSUB (R87): FP32 subtraction, correctly rounded. -/
  | fsub (g : BitVec 4) (d : BitVec 7) (a : BitVec 7) (b : BitVec 7)
  /-- FMUL (R87): FP32 multiplication, correctly rounded. -/
  | fmul (g : BitVec 4) (d : BitVec 7) (a : BitVec 7) (b : BitVec 7)
  /-- FFMA (R88): Fused multiply-add with one rounding. -/
  | ffma (g : BitVec 4) (d : BitVec 7) (a : BitVec 7) (b : BitVec 7)
  /-- FFMS (R88): Fused multiply-subtract with one rounding. -/
  | ffms (g : BitVec 4) (d : BitVec 7) (a : BitVec 7) (b : BitVec 7)
  /-- FFNMA (R88): Fused negated multiply-add with one rounding. -/
  | ffnma (g : BitVec 4) (d : BitVec 7) (a : BitVec 7) (b : BitVec 7)
  /-- FMIN (R89): Returns the smaller FP32 operand, or the canonical NaN. -/
  | fmin (g : BitVec 4) (d : BitVec 7) (a : BitVec 7) (b : BitVec 7)
  /-- FMAX (R89): Returns the larger FP32 operand, or the canonical NaN. -/
  | fmax (g : BitVec 4) (d : BitVec 7) (a : BitVec 7) (b : BitVec 7)
  /-- FNEG (R90): Inverts the sign bit of va. -/
  | fneg (g : BitVec 4) (d : BitVec 7) (a : BitVec 7)
  /-- FABS (R90): Clears the sign bit of va. -/
  | fabs (g : BitVec 4) (d : BitVec 7) (a : BitVec 7)
  /-- FCLASS (R91): Writes a one-hot class mask of an FP32 value. -/
  | fclass (g : BitVec 4) (d : BitVec 7) (a : BitVec 7)
  /-- FCMP (R92): Writes a predicate with an FP32 comparison. -/
  | fcmp (g : BitVec 4) (p : BitVec 3) (c : BitVec 4) (a : BitVec 7) (b : BitVec 7)
  /-- HADD2_F16 (R93): Packed FP16 addition. -/
  | hadd2F16 (g : BitVec 4) (d : BitVec 7) (a : BitVec 7) (b : BitVec 7)
  /-- HADD2_BF16 (R93): Packed BF16 addition. -/
  | hadd2Bf16 (g : BitVec 4) (d : BitVec 7) (a : BitVec 7) (b : BitVec 7)
  /-- HMUL2_F16 (R93): Packed FP16 multiplication. -/
  | hmul2F16 (g : BitVec 4) (d : BitVec 7) (a : BitVec 7) (b : BitVec 7)
  /-- HMUL2_BF16 (R93): Packed BF16 multiplication. -/
  | hmul2Bf16 (g : BitVec 4) (d : BitVec 7) (a : BitVec 7) (b : BitVec 7)
  /-- HFMA2_F16 (R93): Packed FP16 fused multiply-add. -/
  | hfma2F16 (g : BitVec 4) (d : BitVec 7) (a : BitVec 7) (b : BitVec 7)
  /-- HFMA2_BF16 (R93): Packed BF16 fused multiply-add. -/
  | hfma2Bf16 (g : BitVec 4) (d : BitVec 7) (a : BitVec 7) (b : BitVec 7)
  /-- HMIN2_F16 (R93): Packed FP16 minimum. -/
  | hmin2F16 (g : BitVec 4) (d : BitVec 7) (a : BitVec 7) (b : BitVec 7)
  /-- HMIN2_BF16 (R93): Packed BF16 minimum. -/
  | hmin2Bf16 (g : BitVec 4) (d : BitVec 7) (a : BitVec 7) (b : BitVec 7)
  /-- HMAX2_F16 (R93): Packed FP16 maximum. -/
  | hmax2F16 (g : BitVec 4) (d : BitVec 7) (a : BitVec 7) (b : BitVec 7)
  /-- HMAX2_BF16 (R93): Packed BF16 maximum. -/
  | hmax2Bf16 (g : BitVec 4) (d : BitVec 7) (a : BitVec 7) (b : BitVec 7)
  /-- CVT_TO_FLOAT (R96): Converts an integer or float source to a float type. -/
  | cvtToFloat (g : BitVec 4) (d : BitVec 7) (a : BitVec 7) (t : BitVec 3) (s : BitVec 4)
  /-- CVT_TO_INT (R97): Converts a float source to an integer type, with clamping. -/
  | cvtToInt (g : BitVec 4) (d : BitVec 7) (a : BitVec 7) (t : BitVec 3) (s : BitVec 4)
  /-- PACK_F16X2 (R98): Packs two FP32 values into an f16x2 register. -/
  | packF16x2 (g : BitVec 4) (d : BitVec 7) (a : BitVec 7) (b : BitVec 7)
  /-- PACK_BF16X2 (R98): Packs two FP32 values into a bf16x2 register. -/
  | packBf16x2 (g : BitVec 4) (d : BitVec 7) (a : BitVec 7) (b : BitVec 7)
  /-- PACK_E4M3X4 (R99): Packs a quad of FP32 values into E4M3 elements. -/
  | packE4m3x4 (g : BitVec 4) (d : BitVec 7) (a : BitVec 7)
  /-- PACK_E5M2X4 (R99): Packs a quad of FP32 values into E5M2 elements. -/
  | packE5m2x4 (g : BitVec 4) (d : BitVec 7) (a : BitVec 7)
  /-- PACK_I8X4 (R99): Packs a quad of i32 values into signed bytes, with clamping. -/
  | packI8x4 (g : BitVec 4) (d : BitVec 7) (a : BitVec 7)
  /-- PACK_N8X4 (R99): Packs a quad of i32 values into unsigned bytes, with clamping. -/
  | packN8x4 (g : BitVec 4) (d : BitVec 7) (a : BitVec 7)
  /-- PACK_I4X8 (R99): Packs an octet of i32 values into signed nibbles, with clamping. -/
  | packI4x8 (g : BitVec 4) (d : BitVec 7) (a : BitVec 7)
  /-- PACK_N4X8 (R99): Packs an octet of i32 values into unsigned nibbles, with clamping. -/
  | packN4x8 (g : BitVec 4) (d : BitVec 7) (a : BitVec 7)
  /-- UNPACK (R100): Extracts one packed element and widens it. -/
  | unpack (g : BitVec 4) (d : BitVec 7) (a : BitVec 7) (t : BitVec 3) (k : BitVec 3)
  /-- RCP (R101): Reciprocal, correctly rounded. -/
  | rcp (g : BitVec 4) (d : BitVec 7) (a : BitVec 7)
  /-- RSQ (R101): Reciprocal square root, correctly rounded. -/
  | rsq (g : BitVec 4) (d : BitVec 7) (a : BitVec 7)
  /-- SQRT (R101): Square root, correctly rounded. -/
  | sqrt (g : BitVec 4) (d : BitVec 7) (a : BitVec 7)
  /-- EX2 (R103): Base-2 exponential, returning a bracketing value. -/
  | ex2 (g : BitVec 4) (d : BitVec 7) (a : BitVec 7)
  /-- LG2 (R103): Base-2 logarithm, returning a bracketing value. -/
  | lg2 (g : BitVec 4) (d : BitVec 7) (a : BitVec 7)
  /-- SIN (R103): Sine, returning a bracketing value. -/
  | sin (g : BitVec 4) (d : BitVec 7) (a : BitVec 7)
  /-- COS (R103): Cosine, returning a bracketing value. -/
  | cos (g : BitVec 4) (d : BitVec 7) (a : BitVec 7)
  /-- RNG4 (R106): Computes Philox4x32-10 of a counter quad under a g-register key pair. -/
  | rng4 (g : BitVec 4) (d : BitVec 7) (a : BitVec 7) (k : BitVec 6)
  /-- SHFL_ROT (R114): Whole-group rotate of a register across lanes. -/
  | shflRot (g : BitVec 4) (d : BitVec 7) (a : BitVec 7) (b : BitVec 7)
  /-- SHFL_XOR (R114): Whole-group butterfly exchange of a register across lanes. -/
  | shflXor (g : BitVec 4) (d : BitVec 7) (a : BitVec 7) (b : BitVec 7)
  /-- SHFL_UP (R114): Whole-group shift of a register up the lanes, with fill. -/
  | shflUp (g : BitVec 4) (d : BitVec 7) (a : BitVec 7) (b : BitVec 7)
  /-- SHFL_DOWN (R114): Whole-group shift of a register down the lanes, with fill. -/
  | shflDown (g : BitVec 4) (d : BitVec 7) (a : BitVec 7) (b : BitVec 7)
  /-- PERMSET (R116): Loads a 352-bit control word from six group registers. -/
  | permset (g : BitVec 4) (n : BitVec 7) (k : BitVec 7)
  /-- PERM (R118): Whole-group permutation of a register through the Benes network. -/
  | perm (g : BitVec 4) (d : BitVec 7) (a : BitVec 7) (c : BitVec 3)
  /-- RED (R120): Whole-group tree reduction of a register. -/
  | red (g : BitVec 4) (d : BitVec 7) (a : BitVec 7) (o : BitVec 3)
  /-- SCAN (R120): Whole-group prefix scan of a register, inclusive or exclusive. -/
  | scan (g : BitVec 4) (d : BitVec 7) (a : BitVec 7) (o : BitVec 3) (e : BitVec 1)
  /-- VOTE_ANY (R122): Writes true if the predicate is true in some present lane. -/
  | voteAny (g : BitVec 4) (p : BitVec 3) (s : BitVec 3)
  /-- VOTE_ALL (R122): Writes true if the predicate is true in every present lane. -/
  | voteAll (g : BitVec 4) (p : BitVec 3) (s : BitVec 3)
  /-- VOTE_BALLOT (R122): Writes a pair with one predicate bit per lane. -/
  | voteBallot (g : BitVec 4) (d : BitVec 7) (s : BitVec 3)
  /-- VOTE_EQ (R122): Writes true if the predicate has the same value in every present lane. -/
  | voteEq (g : BitVec 4) (p : BitVec 3) (s : BitVec 3)
  /-- GBCAST (R115): Whole-group broadcast or gather of a register by lane index. -/
  | gbcast (g : BitVec 4) (d : BitVec 7) (a : BitVec 7) (b : BitVec 7)
  /-- XGSEND (R124): Posts a whole register for transfer through a slot. -/
  | xgsend (g : BitVec 4) (a : BitVec 7) (s : BitVec 4)
  /-- XGRECV (R124): Posts a receive of a register from a transfer slot. -/
  | xgrecv (g : BitVec 4) (d : BitVec 7) (s : BitVec 4)
  /-- LDG (R158): Loads from global memory through leases. -/
  | ldg (g : BitVec 4) (d : BitVec 7) (b : BitVec 7) (z : BitVec 3) (o : BitVec 4)
  /-- STG (R160): Stores to global memory at the line's home. -/
  | stg (g : BitVec 4) (s : BitVec 7) (b : BitVec 7) (z : BitVec 3) (o : BitVec 4)
  /-- LDSP (R165): Loads from the workgroup's scratchpad. -/
  | ldsp (g : BitVec 4) (d : BitVec 7) (b : BitVec 7) (z : BitVec 3) (o : BitVec 4)
  /-- STSP (R165): Stores to the workgroup's scratchpad. -/
  | stsp (g : BitVec 4) (s : BitVec 7) (b : BitVec 7) (z : BitVec 3) (o : BitVec 4)
  /-- PFETCH (R167): Requests lines to be brought into L1 or L2 under leases. -/
  | pfetch (g : BitVec 4) (b : BitVec 7) (k : BitVec 3)
  /-- ATOM_I32 (R169): Performs a 32-bit signed atomic operation with no return. -/
  | atomI32 (g : BitVec 4) (s : BitVec 7) (b : BitVec 7) (z : BitVec 3) (o : BitVec 4)
  /-- ATOM_N32 (R169): Performs a 32-bit unsigned atomic operation with no return. -/
  | atomN32 (g : BitVec 4) (s : BitVec 7) (b : BitVec 7) (z : BitVec 3) (o : BitVec 4)
  /-- ATOM_I64 (R169): Performs a 64-bit signed atomic operation with no return. -/
  | atomI64 (g : BitVec 4) (s : BitVec 7) (b : BitVec 7) (z : BitVec 3) (o : BitVec 4)
  /-- ATOM_N64 (R169): Performs a 64-bit unsigned atomic operation with no return. -/
  | atomN64 (g : BitVec 4) (s : BitVec 7) (b : BitVec 7) (z : BitVec 3) (o : BitVec 4)
  /-- ATOM_F32 (R170): Performs an FP32 atomic add with no return. -/
  | atomF32 (g : BitVec 4) (s : BitVec 7) (b : BitVec 7) (o : BitVec 4)
  /-- ATOMR_I32 (R169): Performs a 32-bit signed atomic operation and returns the old value. -/
  | atomrI32 (g : BitVec 4) (d : BitVec 7) (b : BitVec 7) (z : BitVec 3) (o : BitVec 4)
  /-- ATOMR_N32 (R169): Performs a 32-bit unsigned atomic operation and returns the old value. -/
  | atomrN32 (g : BitVec 4) (d : BitVec 7) (b : BitVec 7) (z : BitVec 3) (o : BitVec 4)
  /-- ATOMR_I64 (R169): Performs a 64-bit signed atomic operation and returns the old value. -/
  | atomrI64 (g : BitVec 4) (d : BitVec 7) (b : BitVec 7) (z : BitVec 3) (o : BitVec 4)
  /-- ATOMR_N64 (R169): Performs a 64-bit unsigned atomic operation and returns the old value. -/
  | atomrN64 (g : BitVec 4) (d : BitVec 7) (b : BitVec 7) (z : BitVec 3) (o : BitVec 4)
  /-- ATOMR_F32 (R170): Performs an FP32 atomic add and returns the old value. -/
  | atomrF32 (g : BitVec 4) (d : BitVec 7) (b : BitVec 7) (o : BitVec 4)
  /-- QPUT (R176): Queues the payloads of the guard-true lanes on a local ring. -/
  | qput (g : BitVec 4) (s : BitVec 7) (r : BitVec 4) (l : BitVec 2)
  /-- QPUT_REMOTE (R181): Sends payloads to the inbound ring of another CU of the core, under credits. -/
  | qputRemote (g : BitVec 4) (s : BitVec 7) (r : BitVec 4) (l : BitVec 2) (c : BitVec 3)
  /-- QPUT_NB (R179): Non-blocking put, decided all-or-nothing at issue, that writes a predicate. -/
  | qputNb (g : BitVec 4) (s : BitVec 7) (p : BitVec 3) (r : BitVec 4) (l : BitVec 2) (x : BitVec 1) (c : BitVec 3)
  /-- QGET (R177): Posts a claim that consumes filled ring slots. -/
  | qget (g : BitVec 4) (d : BitVec 7) (r : BitVec 4) (l : BitVec 2)
  /-- QGET_NB (R179): Non-blocking get, decided all-or-nothing at issue. -/
  | qgetNb (g : BitVec 4) (d : BitVec 7) (p : BitVec 3) (r : BitVec 4) (l : BitVec 2)
  /-- QPEEK (R178): Posts a claim that reads filled slots without consuming them. -/
  | qpeek (g : BitVec 4) (d : BitVec 7) (r : BitVec 4) (l : BitVec 2)
  /-- QPEEK_NB (R179): Non-blocking peek, decided all-or-nothing at issue. -/
  | qpeekNb (g : BitVec 4) (d : BitVec 7) (p : BitVec 3) (r : BitVec 4) (l : BitVec 2)
  /-- FENCE (R184): Holds the bundle until the acquire, release or acquire-release ordering is complete. -/
  | fence (g : BitVec 4) (o : BitVec 4)
  /-- FENCE_SC (R185): Acquire-release fence that also expires leased copies and takes a place in the total order. -/
  | fenceSc (g : BitVec 4) (o : BitVec 4)
  /-- WAIT (R187): Holds the thread at the sentence boundary until its outstanding counts fall to the given values. -/
  | wait (g : BitVec 4) (l : BitVec 5) (s : BitVec 5) (c : BitVec 5) (t : BitVec 5)
  /-- CWAIT (R188): Holds the thread until a 64-bit counter word reaches a target. -/
  | cwait (g : BitVec 4) (t : BitVec 7) (b : BitVec 7) (o : BitVec 4)
  /-- BAR (R190): Arrives at a workgroup barrier. -/
  | bar (b : BitVec 4)
  /-- LBAR (R191): Arrives at the barrier of a co-resident level instance. -/
  | lbar (k : BitVec 3)
  /-- XCPY (R199): Issues a copy command from group registers to the workgroup's copy ring. -/
  | xcpy (g : BitVec 4) (q : BitVec 7) (c : BitVec 7)
  /-- GANG (R206): Loads the group's conjunction register. -/
  | gang (g : BitVec 4) (k : BitVec 7)
  /-- MXFENCE (R208): Acts as a core-scope acquire-release fence and sets the operand-ready bit. -/
  | mxfence
  /-- MXOP (R212): Arrives at a gang rendezvous for a squarer-array matrix product. -/
  | mxop (g : BitVec 4) (d : BitVec 7) (p : BitVec 7) (f : BitVec 3)
  /-- MXPROG (R214): Reads the group's matrix progress register. -/
  | mxprog (g : BitVec 4) (d : BitVec 7)
  /-- MXPROG_CLR (R214): Clears the group's matrix progress register. -/
  | mxprogClr (g : BitVec 4)
  /-- AMALLOC (R216): Allocates the lowest free run of n AM banks to the workgroup. -/
  | amalloc (g : BitVec 4) (d : BitVec 7) (n : BitVec 7)
  /-- AMFREE (R217): Returns held AM banks to the free pool. -/
  | amfree (g : BitVec 4) (s : BitVec 7) (n : BitVec 7)
  /-- AMRD (R218): Reads one AM element per lane. -/
  | amrd (g : BitVec 4) (d : BitVec 7) (a : BitVec 7)
  /-- AMWR (R218): Writes one AM element per lane. -/
  | amwr (g : BitVec 4) (s : BitVec 7) (a : BitVec 7)
  /-- AMZERO (R217): Zeroes held AM banks and clears their tags. -/
  | amzero (g : BitVec 4) (s : BitVec 7) (n : BitVec 7)
  /-- TEX (R221): Samples a texture with implicit LOD. -/
  | tex (g : BitVec 4) (d : BitVec 7) (a : BitVec 7)
  /-- TEX_L (R221): Samples a texture at an explicit LOD. -/
  | texL (g : BitVec 4) (d : BitVec 7) (a : BitVec 7)
  /-- TEX_B (R221): Samples a texture with an LOD bias. -/
  | texB (g : BitVec 4) (d : BitVec 7) (a : BitVec 7)
  /-- TEX_G (R221): Samples a texture with explicit gradients. -/
  | texG (g : BitVec 4) (d : BitVec 7) (a : BitVec 7)
  /-- TEX_GATHER (R221): Gathers one component of the four footprint texels. -/
  | texGather (g : BitVec 4) (d : BitVec 7) (a : BitVec 7)
  /-- TEXQ_MINLOD (R223): Queries the lowest resident mip level at a coordinate. -/
  | texqMinlod (g : BitVec 4) (d : BitVec 7) (a : BitVec 7)
  /-- TEXQ_SIZE (R223): Queries a texture's size at a level. -/
  | texqSize (g : BitVec 4) (d : BitVec 7) (a : BitVec 7)
  /-- TRACE (R224): Traces a ray through an acceleration structure. -/
  | trace (g : BitVec 4) (d : BitVec 7) (a : BitVec 7)
  /-- TRACE_APPEND (R225): Traces a ray and inserts the hit into a fragment list. -/
  | traceAppend (g : BitVec 4) (k : BitVec 7) (a : BitVec 7)
  /-- OCENTER (R228): Waits until the thread's fragment heads its key, then holds the clause. -/
  | ocenter (g : BitVec 4) (k : BitVec 7)
  /-- OCLEAVE (R229): Releases the clause and pops the fragment after a core-scope release. -/
  | ocleave (g : BitVec 4)
  /-- OCSKIP (R229): Pops the fragment from its key without the release fence. -/
  | ocskip (g : BitVec 4)
  /-- FLSET (R230): Sets a key's list budget and merge rule. -/
  | flset (g : BitVec 4) (k : BitVec 7) (c : BitVec 7)
  /-- FLINS (R230): Inserts a node into a key's depth-sorted fragment list. -/
  | flins (g : BitVec 4) (k : BitVec 7) (q : BitVec 7)
  /-- FLWALK (R231): Reads node n of a key's fragment list. -/
  | flwalk (g : BitVec 4) (d : BitVec 7) (a : BitVec 7)
  /-- PIXOUT (R232): Records the fragment's colour for a render target. -/
  | pixout (g : BitVec 4) (s : BitVec 7) (t : BitVec 7)
  /-- INTERP (R232): Evaluates an attribute plane at the sample position. -/
  | interp (g : BitVec 4) (d : BitVec 7) (m : BitVec 2) (l : BitVec 5)
  /-- DISCARD (R232): Ends each guard-true fragment thread and drops its outputs. -/
  | discard (g : BitVec 4)
  /-- BRA (R128): Branches by a relative word offset in guard-true lanes. -/
  | bra (g : BitVec 4) (o : BitVec 21)
  /-- CALL (R128): Pushes a return address and label, then branches. -/
  | call (g : BitVec 4) (o : BitVec 21)
  /-- BRX (R129): Jumps through a bounded table of word offsets by a per-lane index. -/
  | brx (g : BitVec 4) (n : BitVec 7) (a : BitVec 7) (i : BitVec 7)
  /-- CALLX (R130): Calls through a tagged code pointer checked against a landing pad. -/
  | callx (g : BitVec 4) (a : BitVec 7)
  /-- RET (R132): Pops the return stack, raises the context label and transfers. -/
  | ret (g : BitVec 4)
  /-- EXIT (R133): Ends each guard-true thread. -/
  | exit (g : BitVec 4)
  /-- NOP (R134): Takes an issue slot and has no effect. -/
  | nop (g : BitVec 4)
  /-- YIELD (R134): Makes the thread's next sentence start the newest ready at its priority. -/
  | yield (g : BitVec 4)
  /-- LAND (R131): Landing pad at position 0 that CALLX checks. -/
  | land (l : BitVec 16)
  /-- PERIOD (R28): Ends a sentence and names registers the next sentence awaits. -/
  | period (x : BitVec 7) (y : BitVec 7) (z : BitVec 7)
  /-- TRAP (R141): Raises the software trap with a code. -/
  | trap (g : BitVec 4) (c : BitVec 7)
  /-- TRET (R140): Returns from the trap handler, restoring temporaries and the resumption point. -/
  | tret
  /-- BKPT (R141): Raises the breakpoint trap. -/
  | bkpt (g : BitVec 4)
  /-- CTXYIELD (R142): Ends the thread's cooperative save during pre-emption. -/
  | ctxyield
  /-- SRD (R143): Reads a special register. -/
  | srd (g : BitVec 4) (d : BitVec 7) (s : BitVec 7)
  /-- SWR (R143): Writes a special register. -/
  | swr (g : BitVec 4) (a : BitVec 7) (s : BitVec 7)
  /-- DTIME (R145): Reads device time and optionally holds the next sentence until a given time. -/
  | dtime (g : BitVec 4) (d : BitVec 7) (a : BitVec 7)
  /-- LBLR (R146): Reads the label of a register together with the domain. -/
  | lblr (g : BitVec 4) (d : BitVec 7) (a : BitVec 7)
  /-- LBLRAISE (R147): Raises a register's label or the context label by a mask. -/
  | lblraise (g : BitVec 4) (t : BitVec 7) (a : BitVec 7)
  /-- GATE (R204): Issues a release-gate transfer to a host or foreign destination. -/
  | gate (g : BitVec 4) (q : BitVec 7) (c : BitVec 7)
  /-- ADV_IMM (R23): Adverb that supplies 25 immediate bits to the next instruction. -/
  | advImm (p : BitVec 25)
  /-- ADV_ROUND (R24): Adverb that selects rounding, flush and saturation for the next instruction. -/
  | advRound (s : BitVec 1) (f : BitVec 1) (r : BitVec 2)
  /-- ADV_MEMHINT (R24): Adverb that gives a cache policy and lease request hint. -/
  | advMemhint (l : BitVec 4) (c : BitVec 2)
  /-- ADV_XOPND (R24): Adverb that names a fourth operand register. -/
  | advXopnd (r : BitVec 7)
  /-- ADV_SCHED (R24): Adverb that requests a yield or a priority hint. -/
  | advSched (p : BitVec 3) (y : BitVec 1)
  /-- BUNDLE_PICK (R267): A free vector pipe forms a bundle from ready or parked threads and runs it. -/
  | bundlePick (cid pipe : Nat)
  /-- PARKED_GROUP_EXECUTE (R270): A group whose live threads have all parked at one PC executes the whole-group instruction. -/
  | parkedGroupExecute (gid pipe : Nat)
  /-- THREAD_READY (R265): A held thread's last hold ends, such as a PERIOD await, and it becomes ready. -/
  | threadReady (tid : Nat)
  /-- LOAD_VALUE_ARRIVAL (R154): An asynchronous result reaches its destination lane, which raises its label and clears the scoreboard bit. -/
  | loadValueArrival (acc : Nat)
  /-- SPECIAL_FUNCTION_RESULT (R102): An asynchronous special-function result is written and its flags and label merge. -/
  | specialFunctionResult (acc : Nat)
  /-- HOME_FETCH (R279): A line's home serves a fetch and grants a lease from the line's rung. -/
  | homeFetch (acc : Nat)
  /-- HOME_WRITE (R279): A write is performed at the home, which returns the write-completion time and lowers the rung. -/
  | homeWrite (acc : Nat)
  /-- WRITE_COMPLETION_RETURN (R160): A store's write-completion time reaches the thread, updating sr.wct and completing the store. -/
  | writeCompletionReturn (acc : Nat)
  /-- HELD_RELEASE_STORE_SEND (R161): A held release store leaves once earlier stores complete and device time passes sr.wct. -/
  | heldReleaseStoreSend (acc : Nat)
  /-- PIN_FORCED_RELEASE (R163): A pin held 64 µs while an outside access waits is released by force and a cause entry is written. -/
  | pinForcedRelease (holder line : Nat)
  /-- REFUSED_ACCESS_RETRY (R288): An access refused by a pin, a migration or an empty pool is repeated by hardware. -/
  | refusedAccessRetry (acc : Nat)
  /-- ATOMIC_ENGINE_SERVICE (R172): An atomic engine performs the next request for a line in arrival order. -/
  | atomicEngineService (engine acc : Nat)
  /-- DEFERRED_REFUSAL (R156): A memory-side refusal returns to its access and fills the thread's deferred-fault record. -/
  | deferredRefusal (acc : Nat)
  /-- WAIT_SATISFIED (R187): A WAIT's counts are met, matrix flags merge and the thread may proceed. -/
  | waitSatisfied (tid : Nat)
  /-- FENCE_COMPLETION (R183): A FENCE's ordering completes and the held bundle continues. -/
  | fenceCompletion (pipe : Nat)
  /-- CWAIT_SATISFIED (R188): An acquire read of the counter reaches the target and the context label is raised. -/
  | cwaitSatisfied (tid : Nat)
  /-- DTIME_WAIT_END (R145): Device time reaches the DTIME target and the next sentence may be picked. -/
  | dtimeWaitEnd (tid : Nat)
  /-- BARRIER_COMPLETION (R190): The last participant arrives at a barrier, which completes and opens a new generation. -/
  | barrierCompletion (wg bar : Nat)
  /-- LEVEL_BARRIER_COMPLETION (R191): A level instance's LBAR completes after its release and any log application. -/
  | levelBarrierCompletion (launch level inst : Nat)
  /-- XGSEND_SLOT_FILL (R124): A waiting send finds its slot empty and fills it. -/
  | xgsendSlotFill (wg slot : Nat)
  /-- XGRECV_DELIVERY (R124): A posted receive takes a full slot into its destination and empties the slot. -/
  | xgrecvDelivery (wg slot : Nat)
  /-- RING_PUT_SLOT_HANDOUT (R176): A free slot is handed to the oldest queued put entry and its payload is written. -/
  | ringPutSlotHandout (wg ring : Nat)
  /-- RING_CLAIM_SERVICE (R177): A filled slot is handed to the lowest unsatisfied lane of the oldest claim. -/
  | ringClaimService (wg ring : Nat)
  /-- QPEEK_CLAIM_SERVICE (R178): A peek claim is satisfied and reads slots without consuming them. -/
  | qpeekClaimService (wg ring : Nat)
  /-- REMOTE_PUT_ARRIVAL (R181): A remote put reaches the target CU and is served, queued, retried or discarded. -/
  | remotePutArrival (msg : Nat)
  /-- CREDIT_REPORT_ARRIVAL (R295): A sender receives a credit report and recomputes its credit or absent mark. -/
  | creditReportArrival (msg : Nat)
  /-- NOTIFY_WORD_WRITE (R299): A store-release to the copy ring's notify word makes the engine consume published commands. -/
  | notifyWordWrite (wg : Nat) (pub : BitVec 32)
  /-- COPY_STATUS_WRITE (R298): A store of 0 to the copy ring's stop bit restarts the engine. -/
  | copyStatusWrite (wg : Nat) (data : BitVec 64)
  /-- COPY_COMMAND_START (R302): The copy engine takes a command from a ring in rotation, checks it and starts it. -/
  | copyCommandStart (cid : Nat)
  /-- COPY_UNIT_WRITE (R200): The copy engine performs one destination unit, ring row or register row: the command's number and the
  unit's. -/
  | copyUnitWrite (unit : Nat × Nat)
  /-- COPY_COMPLETION (R196): The counter word takes a command's increment and status after all its writes. -/
  | copyCompletion (cmd : Nat)
  /-- GATE_DECISION (R204): The release gate reads every source byte and decides under the policy. -/
  | gateDecision (cmd : Nat)
  /-- MXOP_HOST_START (R309): A host array reaches an operation in its queue and starts its share. -/
  | mxopHostStart (op host : Nat)
  /-- MXOP_PROMOTION (R244): A block of k-steps drains, passes the residue check and is promoted into AM: the host's number and the
  unit's that it reads. -/
  | mxopPromotion (op : Nat) (unit : Nat × Nat)
  /-- AM_BANK_RELEASE (R217): A waiting AMFREE or AMZERO acts on a bank once no MXOP in flight writes it. -/
  | amBankRelease (cid bank : Nat)
  /-- LIST_INSERT_STEP (R383): A fragment-list insertion is performed at its key, with merging under the budget. -/
  | listInsertStep (acc : Nat)
  /-- OCENTER_ENTRY (R228): A held thread's fragment heads its key and the thread takes the clause. -/
  | ocenterEntry (tid : Nat)
  /-- DOORBELL_WRITE (R334): A host doorbell write makes the device read the queue's producer index. -/
  | doorbellWrite (vf : Nat) (data : BitVec 64)
  /-- QUEUE_POLL (R334): The periodic 4 µs read of an enabled queue's producer index. -/
  | queuePoll (vf queue : Nat)
  /-- QUEUE_DESCRIPTOR_WRITE (R333): A write to a queue descriptor enables or disables the queue or sets its fields. -/
  | queueDescriptorWrite (vf queue word : Nat) (data : BitVec 64)
  /-- EVENT_SET_WRITE (R337): A host write to event-set sets event bits. -/
  | eventSetWrite (vf word : Nat) (data : BitVec 64)
  /-- EVENT_CLEAR_WRITE (R337): A host write to event-clear clears event bits. -/
  | eventClearWrite (vf word : Nat) (data : BitVec 64)
  /-- WORKGROUP_PLACEMENT (R341): When CU resources free, the placer places the next workgroup of the chosen launch. -/
  | workgroupPlacement (launch : Nat) (cus anas : List Nat)
  /-- PLACEMENT_RESERVATION (R341): A next workgroup that has waited 20 000 ticks reserves its cores against equal or lower priorities. -/
  | placementReservation (launch : Nat)
  /-- WORKGROUP_END (R306): After its outbound work finishes, a workgroup's pins are performed, its generation retired and its resources zeroed and freed. -/
  | workgroupEnd (wg : Nat)
  /-- CAUSE_SUMMARY_WRITE (R348): Writing 1 to ovf clears every cause entry and the summary. -/
  | causeSummaryWrite (vf : Nat) (data : BitVec 64)
  /-- RASTER_BIN (R368): After a draw's workgroups end, the raster engine reads and bins its triangles. -/
  | rasterBin (launch : Nat)
  /-- FRAGMENT_LAUNCH (R376): The fragment launcher places a fragment workgroup in primitive order, registering clause fragments. -/
  | fragmentLaunch (launch tile quads : Nat)
  /-- FRAGMENT_OUTPUT (R376): A fragment's colour is converted, blended and written at its end, in sequence order per key. -/
  | fragmentOutput (launch frag : Nat)
  /-- RESOLVE_LAUNCH (R391): A tile's resolve workgroup is launched after its last fragment in the end draw ends. -/
  | resolveLaunch (launch tile cid : Nat)
  /-- TILE_STORE (R371): A tile region is written out under its store fields after the resolve workgroup ends. -/
  | tileStore (launch tile : Nat)
  /-- SLICE_END (R402): A context's slice expires and pre-emption of it begins. -/
  | sliceEnd (vf : Nat)
  /-- PREEMPT_WRITE (R402): A host write to the pre-empt register ends the current slice at once. -/
  | preemptWrite (vf : Nat) (data : BitVec 64)
  /-- COOP_PREEMPT_TRAP (R406): A signalled thread takes the cooperative pre-emption trap, cause 0x17. -/
  | coopPreemptTrap (tid : Nat)
  /-- PREEMPT_BUDGET_EXPIRY (R406): The 11 112-tick budget expires and the CU makes the forced save. -/
  | preemptBudgetExpiry (cid : Nat)
  /-- REDUCED_SAVE (R407): Every thread has executed CTXYIELD and the CU makes the reduced save. -/
  | reducedSave (cid : Nat)
  /-- CONTEXT_RESTORE (R402): The next runnable context is restored or started on the partition. -/
  | contextRestore (part : Nat)
  /-- PREEMPT_WATCHDOG (R411): A pre-emption that does not complete within wdog resets the context's partition. -/
  | preemptWatchdog (vf : Nat)
  /-- SLOT_POSITION_SERVICE (R404): A channel slot position serves its owner's request, lends it or idles. -/
  | slotPositionService (channel : Nat)
  /-- CHECKPOINT_COMMIT (R418): An interval ends and the workgroup shadows its state and performs retained stores. -/
  | checkpointCommit (wg : Nat)
  /-- ROLLBACK (R419): Poison or a pipeline error restores the checkpointed workgroup from its shadow. -/
  | rollback (wg : Nat)
  /-- PAIR_COMPARE (R421): Both pair members reach an interval end and their signatures are compared. -/
  | pairCompare (wg : Nat)
  /-- PAIR_INTERVAL_LIMIT (R422): 64 µs since the pair's last commit or rollback pauses the antecedent and ends the interval. -/
  | pairIntervalLimit (wg : Nat)
  /-- PARTITION_RESET (R427): A partition's routes, cores, slices and bank cells are reset and its launches ended. -/
  | partitionReset (part : Nat)
  /-- MIGRATION_HALVING (R356): Each migration-control period halves lacc, racc and cnt. -/
  | migrationHalving (part : Nat)
  /-- MIGRATION_CONTROL_WRITE (R357): A write to the migration-control register takes effect and restarts the halving period. -/
  | migrationControlWrite (part : Nat) (data : BitVec 64)
  /-- PAGE_MIGRATION (R358): A page's lines are copied to a new frame and the entry is switched in one step. -/
  | pageMigration (page : Nat)
  /-- PAGE_FREE (R360): A page is frozen, its pins performed, its copies invalidated and its frame passed to the scrubber. -/
  | pageFree (page : Nat)
  /-- SCRUB_FRAME (R361): The scrubber zeroes a frame and advances its completion counter. -/
  | scrubFrame (dev : Nat)
  /-- BAR2_READ (R443): A host read through BAR2 is translated, checked and served at the home. -/
  | bar2Read (vf offset width : Nat)
  /-- BAR2_WRITE (R290): A host write through BAR2 is performed at the home as a sys-scope release. -/
  | bar2Write (vf offset width : Nat) (data : BitVec 512)
  /-- COUNTER_BLOCK_WRITE (R426): A write to a VF counter word clears every field of that word. -/
  | counterBlockWrite (vf word : Nat)
  /-- PF_COUNTER_WRITE (R444): A write to the physical-function counters clears them. -/
  | pfCounterWrite (word : Nat)
  /-- REGISTER_WRITE (R441): A write to a register with no row of its own sets its fields. -/
  | registerWrite (fn offset : Nat) (data : BitVec 64)
  /-- WRITE_PARTITION_RECORD (R399): Mailbox opcode 0x01 writes a partition record: its two words, and the IA windows of the
  composition. -/
  | writePartitionRecord (port part : Nat) (words : BitVec 64 × BitVec 64) (windows : List (Nat × Nat))
  /-- BIND_VF (R401): Mailbox opcode 0x02 binds a VF. -/
  | bindVf (port vf : Nat) (data : BitVec 64)
  /-- WRITE_BANK_OWNER_TABLE (R403): Mailbox opcode 0x03 writes a bank-owner table, a slot table or the lend word. -/
  | writeBankOwnerTable (port kind channel index : Nat) (data : BitVec 8)
  /-- SET_UP_LABEL_DOMAIN (R362): Mailbox opcode 0x04 sets up a label domain. -/
  | setUpLabelDomain (port dom slot ecdsa lms : Nat)
  /-- INSTALL_POLICY (R365): Mailbox opcode 0x05 checks and installs a release policy. -/
  | installPolicy (port : Nat) (body : List (BitVec 32)) (lengthsOk sigsOk : Bool)
  /-- REMOVE_POLICY (R366): Mailbox opcode 0x06 removes a release policy. -/
  | removePolicy (port dom : Nat) (label : BitVec 16)
  /-- READ_BUDGET (R366): Mailbox opcode 0x07 returns a policy's remaining budget. -/
  | readBudget (port dom : Nat) (label : BitVec 16)
  /-- UNMAP (R360): Mailbox page command 0x08 unmaps a page. -/
  | unmap (port page : Nat)
  /-- MIGRATE (R357): Mailbox page command 0x08 migrates a page to a named device or tier. -/
  | migrate (port page : Nat) (tier : BitVec 2) (dev : Nat)
  /-- SET_NR_NW (R353): Mailbox page command 0x08 sets a page's nr or nw bits. -/
  | setNrNw (port page : Nat) (nr nw : Bool)
  /-- HARVEST_DIRTY_BITS (R429): Mailbox opcode 0x09 reads and clears page dirty bits. -/
  | harvestDirtyBits (port page count : Nat) (va : BitVec 64)
  /-- RESET_PARTITION (R427): Mailbox opcode 0x0A resets a partition. -/
  | resetPartition (port part : Nat)
  /-- ATTEST (R455): Mailbox opcode 0x0B writes a signed attestation report. -/
  | attest (port : Nat) (va nonce : Nat)
  /-- REPLY_TO_FAULT_EVENT (R448): Mailbox opcode 0x0C accepts or refuses an event that needs a reply. -/
  | replyToFaultEvent (port seq : Nat) (accept : Bool)
  /-- ENTER_PL4 (R457): Mailbox opcode 0x0D puts the device into PL4 sleep. -/
  | enterPl4 (port : Nat)
  /-- MAILBOX_UNKNOWN_OPCODE (R445): A mailbox doorbell with an unlisted opcode returns status 0xFF. -/
  | mailboxUnknownOpcode (port : Nat) (opcode : BitVec 8)
  /-- FLIT_ARRIVAL (R451): A Basor Link flit arrives, is checked by CRC and pid, and is delivered in order. -/
  | flitArrival (port pid src dst : Nat) (crcOk routeOk : Bool)
  /-- PORT_TRAIN_DOWN (R452): A Basor port trains down and its traffic is rehashed or fails. -/
  | portTrainDown (port : Nat)
  /-- POWER_ON_BOOT (R453): At power-on the boot ROM verifies firmware and configuration, then trains memory. -/
  | powerOnBoot (image version config board : Bool)
  /-- IDLE_POWER_ENTRY (R456): A partition idle for 100 µs enters PL1 or PL2 within its tolerance. -/
  | idlePowerEntry (part : Nat)
  /-- POWER_STATE_EXIT (R457): A partition's exit from a power state completes and waiting accesses proceed. -/
  | powerStateExit (part : Nat)
  /-- PCIE_WAKE (R457): A PCIe wake leaves PL4 and resynchronises device time. -/
  | pcieWake (podTime : BitVec 64)
  /-- POWER_WINDOW (R458): At the end of each 1 ms window, power is averaged and the clock stepped down if over the limit. -/
  | powerWindow (watts : BitVec 16)
  /-- JUNCTION_TEMPERATURE (R458): Junction temperature reaching 105 °C halves the clock; reaching 115 °C holds every partition in reset. -/
  | junctionTemperature (celsius : BitVec 8)
  /-- ILLEGAL_ENCODING (R33): A bundle reaches a word that the opcode map assigns to no instruction, such as a reserved major or an unlisted fn value, and raises the illegal-encoding trap. -/
  | illegalEncoding (word : BitVec 32)
  /-- FAULT_EVENT_RING_ROOM (R448): An event that needs a reply and has been waiting on a full fault-event ring is posted once the ring has room, and the work behind it continues. -/
  | faultEventRingRoom (ring : Nat)
  /-- LINK_RETRAIN (R444): A Basor, host or CXL link retrains and returns to service, which is counted in the physical-function counters. -/
  | linkRetrain (kind : Nat)
  deriving DecidableEq, Repr

end Sys2Proof
end

