-- ==== Sys2Proof/Decode.lean ====
section
/-! DEFINITION. The decoder: 32-bit little-endian words (R8) to instructions, total, rejecting by name; and the
encoder, written from the same map (R9, R33). The decoder reads the majors, function values and must-be-zero fields of
R33; whether the operand values of a decoded word are legal is `Machine.legal` (R109, R148, R193, R233). -/

namespace Sys2Proof

/-- Why a word has no instruction. -/
inductive Reject where
  /-- The major opcode is reserved (R33). -/
  | reservedMajor
  /-- The function value is not listed, or a field shown as 0 is not zero (R9, R33). -/
  | unassigned
  /-- Fewer than four bytes are left (R8). -/
  | short
  deriving DecidableEq, Repr

/-- The instruction of a word (R8, R9, R33). The rows of one major are tried from the most to the least specific;
IADD (immediate) with ra = 116 is MOVI (R76). -/
def decode (w : Word) : Except Reject Instr :=
  match (w.extractLsb' 25 7).toNat with
  | 0 => -- IADD
    .ok (.iadd (w.extractLsb' 21 4) (w.extractLsb' 14 7) (w.extractLsb' 7 7) (w.extractLsb' 0 7))
  | 1 => -- IADD_IMM, MOVI
    if w.extractLsb' 7 7 = 116#7 then .ok (.movi (w.extractLsb' 21 4) (w.extractLsb' 14 7) (w.extractLsb' 0 7))
    else .ok (.iaddImm (w.extractLsb' 21 4) (w.extractLsb' 14 7) (w.extractLsb' 7 7) (w.extractLsb' 0 7))
  | 2 => -- ISUB
    .ok (.isub (w.extractLsb' 21 4) (w.extractLsb' 14 7) (w.extractLsb' 7 7) (w.extractLsb' 0 7))
  | 3 => -- IMUL
    .ok (.imul (w.extractLsb' 21 4) (w.extractLsb' 14 7) (w.extractLsb' 7 7) (w.extractLsb' 0 7))
  | 4 => -- IMULH_I32
    .ok (.imulhI32 (w.extractLsb' 21 4) (w.extractLsb' 14 7) (w.extractLsb' 7 7) (w.extractLsb' 0 7))
  | 5 => -- IMULH_N32
    .ok (.imulhN32 (w.extractLsb' 21 4) (w.extractLsb' 14 7) (w.extractLsb' 7 7) (w.extractLsb' 0 7))
  | 6 => -- IMAD
    .ok (.imad (w.extractLsb' 21 4) (w.extractLsb' 14 7) (w.extractLsb' 7 7) (w.extractLsb' 0 7))
  | 7 => -- IMIN_I32
    .ok (.iminI32 (w.extractLsb' 21 4) (w.extractLsb' 14 7) (w.extractLsb' 7 7) (w.extractLsb' 0 7))
  | 8 => -- IMIN_N32
    .ok (.iminN32 (w.extractLsb' 21 4) (w.extractLsb' 14 7) (w.extractLsb' 7 7) (w.extractLsb' 0 7))
  | 9 => -- IMAX_I32
    .ok (.imaxI32 (w.extractLsb' 21 4) (w.extractLsb' 14 7) (w.extractLsb' 7 7) (w.extractLsb' 0 7))
  | 10 => -- IMAX_N32
    .ok (.imaxN32 (w.extractLsb' 21 4) (w.extractLsb' 14 7) (w.extractLsb' 7 7) (w.extractLsb' 0 7))
  | 11 => -- IADD64
    .ok (.iadd64 (w.extractLsb' 21 4) (w.extractLsb' 14 7) (w.extractLsb' 7 7) (w.extractLsb' 0 7))
  | 12 => -- ISUB64
    .ok (.isub64 (w.extractLsb' 21 4) (w.extractLsb' 14 7) (w.extractLsb' 7 7) (w.extractLsb' 0 7))
  | 13 => -- LEA
    .ok (.lea (w.extractLsb' 21 4) (w.extractLsb' 14 7) (w.extractLsb' 7 7) (w.extractLsb' 5 2) (w.extractLsb' 0 5))
  | 14 => -- AND
    .ok (.and32 (w.extractLsb' 21 4) (w.extractLsb' 14 7) (w.extractLsb' 7 7) (w.extractLsb' 0 7))
  | 15 => -- OR
    .ok (.or32 (w.extractLsb' 21 4) (w.extractLsb' 14 7) (w.extractLsb' 7 7) (w.extractLsb' 0 7))
  | 16 => -- XOR
    .ok (.xor32 (w.extractLsb' 21 4) (w.extractLsb' 14 7) (w.extractLsb' 7 7) (w.extractLsb' 0 7))
  | 17 => -- ANDN
    .ok (.andn (w.extractLsb' 21 4) (w.extractLsb' 14 7) (w.extractLsb' 7 7) (w.extractLsb' 0 7))
  | 18 => -- SHL
    .ok (.shl (w.extractLsb' 21 4) (w.extractLsb' 14 7) (w.extractLsb' 7 7) (w.extractLsb' 0 7))
  | 19 => -- SHR
    .ok (.shr (w.extractLsb' 21 4) (w.extractLsb' 14 7) (w.extractLsb' 7 7) (w.extractLsb' 0 7))
  | 20 => -- SAR
    .ok (.sar (w.extractLsb' 21 4) (w.extractLsb' 14 7) (w.extractLsb' 7 7) (w.extractLsb' 0 7))
  | 21 => -- SHL_IMM, SHR_IMM, SAR_IMM
    if w.extractLsb' 5 2 = 0#2 then .ok (.shlImm (w.extractLsb' 21 4) (w.extractLsb' 14 7) (w.extractLsb' 7 7) (w.extractLsb' 0 5))
    else if w.extractLsb' 5 2 = 1#2 then .ok (.shrImm (w.extractLsb' 21 4) (w.extractLsb' 14 7) (w.extractLsb' 7 7) (w.extractLsb' 0 5))
    else if w.extractLsb' 5 2 = 2#2 then .ok (.sarImm (w.extractLsb' 21 4) (w.extractLsb' 14 7) (w.extractLsb' 7 7) (w.extractLsb' 0 5))
    else .error .unassigned
  | 22 => -- BFE
    .ok (.bfe (w.extractLsb' 21 4) (w.extractLsb' 14 7) (w.extractLsb' 7 7) (w.extractLsb' 0 7))
  | 23 => -- BFI
    .ok (.bfi (w.extractLsb' 21 4) (w.extractLsb' 14 7) (w.extractLsb' 7 7) (w.extractLsb' 0 7))
  | 24 => -- MOV, IABS, POPC, CLZ, BREV, MOV_64
    if w.extractLsb' 0 7 = 0#7 then .ok (.mov (w.extractLsb' 21 4) (w.extractLsb' 14 7) (w.extractLsb' 7 7))
    else if w.extractLsb' 0 7 = 1#7 then .ok (.iabs (w.extractLsb' 21 4) (w.extractLsb' 14 7) (w.extractLsb' 7 7))
    else if w.extractLsb' 0 7 = 2#7 then .ok (.popc (w.extractLsb' 21 4) (w.extractLsb' 14 7) (w.extractLsb' 7 7))
    else if w.extractLsb' 0 7 = 3#7 then .ok (.clz (w.extractLsb' 21 4) (w.extractLsb' 14 7) (w.extractLsb' 7 7))
    else if w.extractLsb' 0 7 = 4#7 then .ok (.brev (w.extractLsb' 21 4) (w.extractLsb' 14 7) (w.extractLsb' 7 7))
    else if w.extractLsb' 0 7 = 5#7 then .ok (.mov64 (w.extractLsb' 21 4) (w.extractLsb' 14 7) (w.extractLsb' 7 7))
    else .error .unassigned
  | 25 => -- ICMP
    .ok (.icmp (w.extractLsb' 21 4) (w.extractLsb' 18 3) (w.extractLsb' 14 4) (w.extractLsb' 7 7) (w.extractLsb' 0 7))
  | 26 => -- SEL
    .ok (.sel (w.extractLsb' 21 4) (w.extractLsb' 14 7) (w.extractLsb' 7 7) (w.extractLsb' 0 7))
  | 28 => -- FADD
    .ok (.fadd (w.extractLsb' 21 4) (w.extractLsb' 14 7) (w.extractLsb' 7 7) (w.extractLsb' 0 7))
  | 29 => -- FSUB
    .ok (.fsub (w.extractLsb' 21 4) (w.extractLsb' 14 7) (w.extractLsb' 7 7) (w.extractLsb' 0 7))
  | 30 => -- FMUL
    .ok (.fmul (w.extractLsb' 21 4) (w.extractLsb' 14 7) (w.extractLsb' 7 7) (w.extractLsb' 0 7))
  | 31 => -- FFMA
    .ok (.ffma (w.extractLsb' 21 4) (w.extractLsb' 14 7) (w.extractLsb' 7 7) (w.extractLsb' 0 7))
  | 32 => -- FFMS
    .ok (.ffms (w.extractLsb' 21 4) (w.extractLsb' 14 7) (w.extractLsb' 7 7) (w.extractLsb' 0 7))
  | 33 => -- FFNMA
    .ok (.ffnma (w.extractLsb' 21 4) (w.extractLsb' 14 7) (w.extractLsb' 7 7) (w.extractLsb' 0 7))
  | 34 => -- FMIN
    .ok (.fmin (w.extractLsb' 21 4) (w.extractLsb' 14 7) (w.extractLsb' 7 7) (w.extractLsb' 0 7))
  | 35 => -- FMAX
    .ok (.fmax (w.extractLsb' 21 4) (w.extractLsb' 14 7) (w.extractLsb' 7 7) (w.extractLsb' 0 7))
  | 36 => -- FNEG, FABS, FCLASS
    if w.extractLsb' 0 7 = 0#7 then .ok (.fneg (w.extractLsb' 21 4) (w.extractLsb' 14 7) (w.extractLsb' 7 7))
    else if w.extractLsb' 0 7 = 1#7 then .ok (.fabs (w.extractLsb' 21 4) (w.extractLsb' 14 7) (w.extractLsb' 7 7))
    else if w.extractLsb' 0 7 = 2#7 then .ok (.fclass (w.extractLsb' 21 4) (w.extractLsb' 14 7) (w.extractLsb' 7 7))
    else .error .unassigned
  | 37 => -- FCMP
    .ok (.fcmp (w.extractLsb' 21 4) (w.extractLsb' 18 3) (w.extractLsb' 14 4) (w.extractLsb' 7 7) (w.extractLsb' 0 7))
  | 38 => -- HADD2_F16
    .ok (.hadd2F16 (w.extractLsb' 21 4) (w.extractLsb' 14 7) (w.extractLsb' 7 7) (w.extractLsb' 0 7))
  | 39 => -- HADD2_BF16
    .ok (.hadd2Bf16 (w.extractLsb' 21 4) (w.extractLsb' 14 7) (w.extractLsb' 7 7) (w.extractLsb' 0 7))
  | 40 => -- HMUL2_F16
    .ok (.hmul2F16 (w.extractLsb' 21 4) (w.extractLsb' 14 7) (w.extractLsb' 7 7) (w.extractLsb' 0 7))
  | 41 => -- HMUL2_BF16
    .ok (.hmul2Bf16 (w.extractLsb' 21 4) (w.extractLsb' 14 7) (w.extractLsb' 7 7) (w.extractLsb' 0 7))
  | 42 => -- HFMA2_F16
    .ok (.hfma2F16 (w.extractLsb' 21 4) (w.extractLsb' 14 7) (w.extractLsb' 7 7) (w.extractLsb' 0 7))
  | 43 => -- HFMA2_BF16
    .ok (.hfma2Bf16 (w.extractLsb' 21 4) (w.extractLsb' 14 7) (w.extractLsb' 7 7) (w.extractLsb' 0 7))
  | 44 => -- HMIN2_F16
    .ok (.hmin2F16 (w.extractLsb' 21 4) (w.extractLsb' 14 7) (w.extractLsb' 7 7) (w.extractLsb' 0 7))
  | 45 => -- HMIN2_BF16
    .ok (.hmin2Bf16 (w.extractLsb' 21 4) (w.extractLsb' 14 7) (w.extractLsb' 7 7) (w.extractLsb' 0 7))
  | 46 => -- HMAX2_F16
    .ok (.hmax2F16 (w.extractLsb' 21 4) (w.extractLsb' 14 7) (w.extractLsb' 7 7) (w.extractLsb' 0 7))
  | 47 => -- HMAX2_BF16
    .ok (.hmax2Bf16 (w.extractLsb' 21 4) (w.extractLsb' 14 7) (w.extractLsb' 7 7) (w.extractLsb' 0 7))
  | 52 => -- CVT_TO_FLOAT
    .ok (.cvtToFloat (w.extractLsb' 21 4) (w.extractLsb' 14 7) (w.extractLsb' 7 7) (w.extractLsb' 4 3) (w.extractLsb' 0 4))
  | 53 => -- CVT_TO_INT
    .ok (.cvtToInt (w.extractLsb' 21 4) (w.extractLsb' 14 7) (w.extractLsb' 7 7) (w.extractLsb' 4 3) (w.extractLsb' 0 4))
  | 54 => -- PACK_F16X2
    .ok (.packF16x2 (w.extractLsb' 21 4) (w.extractLsb' 14 7) (w.extractLsb' 7 7) (w.extractLsb' 0 7))
  | 55 => -- PACK_BF16X2
    .ok (.packBf16x2 (w.extractLsb' 21 4) (w.extractLsb' 14 7) (w.extractLsb' 7 7) (w.extractLsb' 0 7))
  | 56 => -- PACK_E4M3X4, PACK_E5M2X4, PACK_I8X4, PACK_N8X4, PACK_I4X8, PACK_N4X8
    if w.extractLsb' 0 7 = 0#7 then .ok (.packE4m3x4 (w.extractLsb' 21 4) (w.extractLsb' 14 7) (w.extractLsb' 7 7))
    else if w.extractLsb' 0 7 = 1#7 then .ok (.packE5m2x4 (w.extractLsb' 21 4) (w.extractLsb' 14 7) (w.extractLsb' 7 7))
    else if w.extractLsb' 0 7 = 2#7 then .ok (.packI8x4 (w.extractLsb' 21 4) (w.extractLsb' 14 7) (w.extractLsb' 7 7))
    else if w.extractLsb' 0 7 = 3#7 then .ok (.packN8x4 (w.extractLsb' 21 4) (w.extractLsb' 14 7) (w.extractLsb' 7 7))
    else if w.extractLsb' 0 7 = 4#7 then .ok (.packI4x8 (w.extractLsb' 21 4) (w.extractLsb' 14 7) (w.extractLsb' 7 7))
    else if w.extractLsb' 0 7 = 5#7 then .ok (.packN4x8 (w.extractLsb' 21 4) (w.extractLsb' 14 7) (w.extractLsb' 7 7))
    else .error .unassigned
  | 57 => -- UNPACK
    if w.extractLsb' 3 1 = 0#1 then .ok (.unpack (w.extractLsb' 21 4) (w.extractLsb' 14 7) (w.extractLsb' 7 7) (w.extractLsb' 4 3) (w.extractLsb' 0 3))
    else .error .unassigned
  | 58 => -- RCP, RSQ, SQRT, EX2, LG2, SIN, COS
    if w.extractLsb' 0 7 = 0#7 then .ok (.rcp (w.extractLsb' 21 4) (w.extractLsb' 14 7) (w.extractLsb' 7 7))
    else if w.extractLsb' 0 7 = 1#7 then .ok (.rsq (w.extractLsb' 21 4) (w.extractLsb' 14 7) (w.extractLsb' 7 7))
    else if w.extractLsb' 0 7 = 2#7 then .ok (.sqrt (w.extractLsb' 21 4) (w.extractLsb' 14 7) (w.extractLsb' 7 7))
    else if w.extractLsb' 0 7 = 3#7 then .ok (.ex2 (w.extractLsb' 21 4) (w.extractLsb' 14 7) (w.extractLsb' 7 7))
    else if w.extractLsb' 0 7 = 4#7 then .ok (.lg2 (w.extractLsb' 21 4) (w.extractLsb' 14 7) (w.extractLsb' 7 7))
    else if w.extractLsb' 0 7 = 5#7 then .ok (.sin (w.extractLsb' 21 4) (w.extractLsb' 14 7) (w.extractLsb' 7 7))
    else if w.extractLsb' 0 7 = 6#7 then .ok (.cos (w.extractLsb' 21 4) (w.extractLsb' 14 7) (w.extractLsb' 7 7))
    else .error .unassigned
  | 59 => -- RNG4
    if w.extractLsb' 6 1 = 0#1 then .ok (.rng4 (w.extractLsb' 21 4) (w.extractLsb' 14 7) (w.extractLsb' 7 7) (w.extractLsb' 0 6))
    else .error .unassigned
  | 60 => -- SHFL_ROT
    .ok (.shflRot (w.extractLsb' 21 4) (w.extractLsb' 14 7) (w.extractLsb' 7 7) (w.extractLsb' 0 7))
  | 61 => -- SHFL_XOR
    .ok (.shflXor (w.extractLsb' 21 4) (w.extractLsb' 14 7) (w.extractLsb' 7 7) (w.extractLsb' 0 7))
  | 62 => -- SHFL_UP
    .ok (.shflUp (w.extractLsb' 21 4) (w.extractLsb' 14 7) (w.extractLsb' 7 7) (w.extractLsb' 0 7))
  | 63 => -- SHFL_DOWN
    .ok (.shflDown (w.extractLsb' 21 4) (w.extractLsb' 14 7) (w.extractLsb' 7 7) (w.extractLsb' 0 7))
  | 64 => -- PERMSET
    if w.extractLsb' 0 7 = 0#7 then .ok (.permset (w.extractLsb' 21 4) (w.extractLsb' 14 7) (w.extractLsb' 7 7))
    else .error .unassigned
  | 65 => -- PERM
    if w.extractLsb' 3 4 = 0#4 then .ok (.perm (w.extractLsb' 21 4) (w.extractLsb' 14 7) (w.extractLsb' 7 7) (w.extractLsb' 0 3))
    else .error .unassigned
  | 66 => -- RED, SCAN
    if w.extractLsb' 0 3 = 0#3 ∧ w.extractLsb' 6 1 = 0#1 then .ok (.red (w.extractLsb' 21 4) (w.extractLsb' 14 7) (w.extractLsb' 7 7) (w.extractLsb' 3 3))
    else if w.extractLsb' 0 2 = 0#2 ∧ w.extractLsb' 6 1 = 1#1 then .ok (.scan (w.extractLsb' 21 4) (w.extractLsb' 14 7) (w.extractLsb' 7 7) (w.extractLsb' 3 3) (w.extractLsb' 2 1))
    else .error .unassigned
  | 67 => -- VOTE_ANY, VOTE_ALL, VOTE_BALLOT, VOTE_EQ
    if w.extractLsb' 0 7 = 0#7 ∧ w.extractLsb' 10 8 = 0#8 then .ok (.voteAny (w.extractLsb' 21 4) (w.extractLsb' 18 3) (w.extractLsb' 7 3))
    else if w.extractLsb' 0 7 = 1#7 ∧ w.extractLsb' 10 8 = 0#8 then .ok (.voteAll (w.extractLsb' 21 4) (w.extractLsb' 18 3) (w.extractLsb' 7 3))
    else if w.extractLsb' 0 7 = 3#7 ∧ w.extractLsb' 10 8 = 0#8 then .ok (.voteEq (w.extractLsb' 21 4) (w.extractLsb' 18 3) (w.extractLsb' 7 3))
    else if w.extractLsb' 0 7 = 2#7 ∧ w.extractLsb' 10 4 = 0#4 then .ok (.voteBallot (w.extractLsb' 21 4) (w.extractLsb' 14 7) (w.extractLsb' 7 3))
    else .error .unassigned
  | 68 => -- GBCAST
    .ok (.gbcast (w.extractLsb' 21 4) (w.extractLsb' 14 7) (w.extractLsb' 7 7) (w.extractLsb' 0 7))
  | 69 => -- XGSEND, XGRECV
    if w.extractLsb' 0 7 = 0#7 ∧ w.extractLsb' 11 3 = 0#3 then .ok (.xgsend (w.extractLsb' 21 4) (w.extractLsb' 14 7) (w.extractLsb' 7 4))
    else if w.extractLsb' 0 7 = 1#7 ∧ w.extractLsb' 11 3 = 0#3 then .ok (.xgrecv (w.extractLsb' 21 4) (w.extractLsb' 14 7) (w.extractLsb' 7 4))
    else .error .unassigned
  | 70 => -- LDG
    .ok (.ldg (w.extractLsb' 21 4) (w.extractLsb' 14 7) (w.extractLsb' 7 7) (w.extractLsb' 4 3) (w.extractLsb' 0 4))
  | 71 => -- STG
    .ok (.stg (w.extractLsb' 21 4) (w.extractLsb' 14 7) (w.extractLsb' 7 7) (w.extractLsb' 4 3) (w.extractLsb' 0 4))
  | 72 => -- LDSP
    .ok (.ldsp (w.extractLsb' 21 4) (w.extractLsb' 14 7) (w.extractLsb' 7 7) (w.extractLsb' 4 3) (w.extractLsb' 0 4))
  | 73 => -- STSP
    .ok (.stsp (w.extractLsb' 21 4) (w.extractLsb' 14 7) (w.extractLsb' 7 7) (w.extractLsb' 4 3) (w.extractLsb' 0 4))
  | 74 => -- PFETCH
    if w.extractLsb' 0 4 = 0#4 ∧ w.extractLsb' 14 7 = 116#7 then .ok (.pfetch (w.extractLsb' 21 4) (w.extractLsb' 7 7) (w.extractLsb' 4 3))
    else .error .unassigned
  | 75 => -- ATOM_I32
    .ok (.atomI32 (w.extractLsb' 21 4) (w.extractLsb' 14 7) (w.extractLsb' 7 7) (w.extractLsb' 4 3) (w.extractLsb' 0 4))
  | 76 => -- ATOM_N32
    .ok (.atomN32 (w.extractLsb' 21 4) (w.extractLsb' 14 7) (w.extractLsb' 7 7) (w.extractLsb' 4 3) (w.extractLsb' 0 4))
  | 77 => -- ATOM_I64
    .ok (.atomI64 (w.extractLsb' 21 4) (w.extractLsb' 14 7) (w.extractLsb' 7 7) (w.extractLsb' 4 3) (w.extractLsb' 0 4))
  | 78 => -- ATOM_N64
    .ok (.atomN64 (w.extractLsb' 21 4) (w.extractLsb' 14 7) (w.extractLsb' 7 7) (w.extractLsb' 4 3) (w.extractLsb' 0 4))
  | 79 => -- ATOM_F32
    if w.extractLsb' 4 3 = 0#3 then .ok (.atomF32 (w.extractLsb' 21 4) (w.extractLsb' 14 7) (w.extractLsb' 7 7) (w.extractLsb' 0 4))
    else .error .unassigned
  | 80 => -- ATOMR_I32
    .ok (.atomrI32 (w.extractLsb' 21 4) (w.extractLsb' 14 7) (w.extractLsb' 7 7) (w.extractLsb' 4 3) (w.extractLsb' 0 4))
  | 81 => -- ATOMR_N32
    .ok (.atomrN32 (w.extractLsb' 21 4) (w.extractLsb' 14 7) (w.extractLsb' 7 7) (w.extractLsb' 4 3) (w.extractLsb' 0 4))
  | 82 => -- ATOMR_I64
    .ok (.atomrI64 (w.extractLsb' 21 4) (w.extractLsb' 14 7) (w.extractLsb' 7 7) (w.extractLsb' 4 3) (w.extractLsb' 0 4))
  | 83 => -- ATOMR_N64
    .ok (.atomrN64 (w.extractLsb' 21 4) (w.extractLsb' 14 7) (w.extractLsb' 7 7) (w.extractLsb' 4 3) (w.extractLsb' 0 4))
  | 84 => -- ATOMR_F32
    if w.extractLsb' 4 3 = 0#3 then .ok (.atomrF32 (w.extractLsb' 21 4) (w.extractLsb' 14 7) (w.extractLsb' 7 7) (w.extractLsb' 0 4))
    else .error .unassigned
  | 85 => -- QPUT, QPUT_REMOTE, QPUT_NB
    if w.extractLsb' 0 4 = 0#4 ∧ w.extractLsb' 6 1 = 0#1 ∧ w.extractLsb' 11 3 = 0#3 then .ok (.qput (w.extractLsb' 21 4) (w.extractLsb' 14 7) (w.extractLsb' 7 4) (w.extractLsb' 4 2))
    else if w.extractLsb' 3 1 = 1#1 ∧ w.extractLsb' 6 1 = 0#1 ∧ w.extractLsb' 11 3 = 0#3 then .ok (.qputRemote (w.extractLsb' 21 4) (w.extractLsb' 14 7) (w.extractLsb' 7 4) (w.extractLsb' 4 2) (w.extractLsb' 0 3))
    else if w.extractLsb' 6 1 = 1#1 then .ok (.qputNb (w.extractLsb' 21 4) (w.extractLsb' 14 7) (w.extractLsb' 11 3) (w.extractLsb' 7 4) (w.extractLsb' 4 2) (w.extractLsb' 3 1) (w.extractLsb' 0 3))
    else .error .unassigned
  | 86 => -- QGET, QGET_NB
    if w.extractLsb' 0 4 = 0#4 ∧ w.extractLsb' 6 1 = 0#1 ∧ w.extractLsb' 11 3 = 0#3 then .ok (.qget (w.extractLsb' 21 4) (w.extractLsb' 14 7) (w.extractLsb' 7 4) (w.extractLsb' 4 2))
    else if w.extractLsb' 0 4 = 0#4 ∧ w.extractLsb' 6 1 = 1#1 then .ok (.qgetNb (w.extractLsb' 21 4) (w.extractLsb' 14 7) (w.extractLsb' 11 3) (w.extractLsb' 7 4) (w.extractLsb' 4 2))
    else .error .unassigned
  | 87 => -- QPEEK, QPEEK_NB
    if w.extractLsb' 0 4 = 0#4 ∧ w.extractLsb' 6 1 = 0#1 ∧ w.extractLsb' 11 3 = 0#3 then .ok (.qpeek (w.extractLsb' 21 4) (w.extractLsb' 14 7) (w.extractLsb' 7 4) (w.extractLsb' 4 2))
    else if w.extractLsb' 0 4 = 0#4 ∧ w.extractLsb' 6 1 = 1#1 then .ok (.qpeekNb (w.extractLsb' 21 4) (w.extractLsb' 14 7) (w.extractLsb' 11 3) (w.extractLsb' 7 4) (w.extractLsb' 4 2))
    else .error .unassigned
  | 88 => -- FENCE, FENCE_SC
    if w.extractLsb' 4 17 = 0#17 then .ok (.fence (w.extractLsb' 21 4) (w.extractLsb' 0 4))
    else if w.extractLsb' 4 17 = 1#17 then .ok (.fenceSc (w.extractLsb' 21 4) (w.extractLsb' 0 4))
    else .error .unassigned
  | 89 => -- WAIT
    if w.extractLsb' 20 1 = 0#1 then .ok (.wait (w.extractLsb' 21 4) (w.extractLsb' 15 5) (w.extractLsb' 10 5) (w.extractLsb' 5 5) (w.extractLsb' 0 5))
    else .error .unassigned
  | 90 => -- CWAIT
    if w.extractLsb' 4 3 = 3#3 then .ok (.cwait (w.extractLsb' 21 4) (w.extractLsb' 14 7) (w.extractLsb' 7 7) (w.extractLsb' 0 4))
    else .error .unassigned
  | 91 => -- BAR
    if w.extractLsb' 4 21 = 0#21 then .ok (.bar (w.extractLsb' 0 4))
    else .error .unassigned
  | 92 => -- LBAR
    if w.extractLsb' 3 22 = 0#22 then .ok (.lbar (w.extractLsb' 0 3))
    else .error .unassigned
  | 96 => -- XCPY
    if w.extractLsb' 0 7 = 0#7 then .ok (.xcpy (w.extractLsb' 21 4) (w.extractLsb' 14 7) (w.extractLsb' 7 7))
    else .error .unassigned
  | 97 => -- GANG
    if w.extractLsb' 0 14 = 0#14 then .ok (.gang (w.extractLsb' 21 4) (w.extractLsb' 14 7))
    else .error .unassigned
  | 98 => -- MXFENCE
    if w.extractLsb' 0 25 = 0#25 then .ok (.mxfence)
    else .error .unassigned
  | 99 => -- MXOP
    if w.extractLsb' 3 4 = 0#4 then .ok (.mxop (w.extractLsb' 21 4) (w.extractLsb' 14 7) (w.extractLsb' 7 7) (w.extractLsb' 0 3))
    else .error .unassigned
  | 100 => -- MXPROG, MXPROG_CLR
    if w.extractLsb' 0 21 = 1#21 then .ok (.mxprogClr (w.extractLsb' 21 4))
    else if w.extractLsb' 0 14 = 0#14 then .ok (.mxprog (w.extractLsb' 21 4) (w.extractLsb' 14 7))
    else .error .unassigned
  | 101 => -- AMALLOC, AMFREE, AMRD, AMWR, AMZERO
    if w.extractLsb' 0 7 = 0#7 then .ok (.amalloc (w.extractLsb' 21 4) (w.extractLsb' 14 7) (w.extractLsb' 7 7))
    else if w.extractLsb' 0 7 = 1#7 then .ok (.amfree (w.extractLsb' 21 4) (w.extractLsb' 14 7) (w.extractLsb' 7 7))
    else if w.extractLsb' 0 7 = 2#7 then .ok (.amrd (w.extractLsb' 21 4) (w.extractLsb' 14 7) (w.extractLsb' 7 7))
    else if w.extractLsb' 0 7 = 3#7 then .ok (.amwr (w.extractLsb' 21 4) (w.extractLsb' 14 7) (w.extractLsb' 7 7))
    else if w.extractLsb' 0 7 = 4#7 then .ok (.amzero (w.extractLsb' 21 4) (w.extractLsb' 14 7) (w.extractLsb' 7 7))
    else .error .unassigned
  | 104 => -- TEX, TEX_L, TEX_B, TEX_G, TEX_GATHER
    if w.extractLsb' 0 7 = 0#7 then .ok (.tex (w.extractLsb' 21 4) (w.extractLsb' 14 7) (w.extractLsb' 7 7))
    else if w.extractLsb' 0 7 = 1#7 then .ok (.texL (w.extractLsb' 21 4) (w.extractLsb' 14 7) (w.extractLsb' 7 7))
    else if w.extractLsb' 0 7 = 2#7 then .ok (.texB (w.extractLsb' 21 4) (w.extractLsb' 14 7) (w.extractLsb' 7 7))
    else if w.extractLsb' 0 7 = 3#7 then .ok (.texG (w.extractLsb' 21 4) (w.extractLsb' 14 7) (w.extractLsb' 7 7))
    else if w.extractLsb' 0 7 = 4#7 then .ok (.texGather (w.extractLsb' 21 4) (w.extractLsb' 14 7) (w.extractLsb' 7 7))
    else .error .unassigned
  | 105 => -- TEXQ_MINLOD, TEXQ_SIZE
    if w.extractLsb' 0 7 = 0#7 then .ok (.texqMinlod (w.extractLsb' 21 4) (w.extractLsb' 14 7) (w.extractLsb' 7 7))
    else if w.extractLsb' 0 7 = 1#7 then .ok (.texqSize (w.extractLsb' 21 4) (w.extractLsb' 14 7) (w.extractLsb' 7 7))
    else .error .unassigned
  | 106 => -- TRACE, TRACE_APPEND
    if w.extractLsb' 0 7 = 0#7 then .ok (.trace (w.extractLsb' 21 4) (w.extractLsb' 14 7) (w.extractLsb' 7 7))
    else if w.extractLsb' 0 7 = 1#7 then .ok (.traceAppend (w.extractLsb' 21 4) (w.extractLsb' 14 7) (w.extractLsb' 7 7))
    else .error .unassigned
  | 107 => -- OCENTER, OCLEAVE, OCSKIP
    if w.extractLsb' 0 21 = 1#21 then .ok (.ocleave (w.extractLsb' 21 4))
    else if w.extractLsb' 0 21 = 2#21 then .ok (.ocskip (w.extractLsb' 21 4))
    else if w.extractLsb' 0 7 = 0#7 ∧ w.extractLsb' 14 7 = 0#7 then .ok (.ocenter (w.extractLsb' 21 4) (w.extractLsb' 7 7))
    else .error .unassigned
  | 108 => -- FLSET, FLINS, FLWALK
    if w.extractLsb' 0 7 = 0#7 then .ok (.flset (w.extractLsb' 21 4) (w.extractLsb' 14 7) (w.extractLsb' 7 7))
    else if w.extractLsb' 0 7 = 1#7 then .ok (.flins (w.extractLsb' 21 4) (w.extractLsb' 14 7) (w.extractLsb' 7 7))
    else if w.extractLsb' 0 7 = 2#7 then .ok (.flwalk (w.extractLsb' 21 4) (w.extractLsb' 14 7) (w.extractLsb' 7 7))
    else .error .unassigned
  | 109 => -- PIXOUT, INTERP, DISCARD
    if w.extractLsb' 0 21 = 2#21 then .ok (.discard (w.extractLsb' 21 4))
    else if w.extractLsb' 0 7 = 0#7 then .ok (.pixout (w.extractLsb' 21 4) (w.extractLsb' 14 7) (w.extractLsb' 7 7))
    else if w.extractLsb' 0 7 = 1#7 then .ok (.interp (w.extractLsb' 21 4) (w.extractLsb' 14 7) (w.extractLsb' 12 2) (w.extractLsb' 7 5))
    else .error .unassigned
  | 112 => -- BRA
    .ok (.bra (w.extractLsb' 21 4) (w.extractLsb' 0 21))
  | 113 => -- CALL
    .ok (.call (w.extractLsb' 21 4) (w.extractLsb' 0 21))
  | 114 => -- BRX
    .ok (.brx (w.extractLsb' 21 4) (w.extractLsb' 14 7) (w.extractLsb' 7 7) (w.extractLsb' 0 7))
  | 115 => -- CALLX
    if w.extractLsb' 0 7 = 0#7 ∧ w.extractLsb' 14 7 = 0#7 then .ok (.callx (w.extractLsb' 21 4) (w.extractLsb' 7 7))
    else .error .unassigned
  | 116 => -- RET, EXIT, NOP, YIELD
    if w.extractLsb' 0 21 = 0#21 then .ok (.ret (w.extractLsb' 21 4))
    else if w.extractLsb' 0 21 = 1#21 then .ok (.exit (w.extractLsb' 21 4))
    else if w.extractLsb' 0 21 = 2#21 then .ok (.nop (w.extractLsb' 21 4))
    else if w.extractLsb' 0 21 = 3#21 then .ok (.yield (w.extractLsb' 21 4))
    else .error .unassigned
  | 117 => -- LAND
    if w.extractLsb' 16 9 = 0#9 then .ok (.land (w.extractLsb' 0 16))
    else .error .unassigned
  | 118 => -- PERIOD
    if w.extractLsb' 21 4 = 0#4 then .ok (.period (w.extractLsb' 14 7) (w.extractLsb' 7 7) (w.extractLsb' 0 7))
    else .error .unassigned
  | 120 => -- TRAP, TRET, BKPT, CTXYIELD
    if w.extractLsb' 0 25 = 1#25 then .ok (.tret)
    else if w.extractLsb' 0 25 = 3#25 then .ok (.ctxyield)
    else if w.extractLsb' 0 21 = 2#21 then .ok (.bkpt (w.extractLsb' 21 4))
    else if w.extractLsb' 0 7 = 0#7 ∧ w.extractLsb' 14 7 = 0#7 then .ok (.trap (w.extractLsb' 21 4) (w.extractLsb' 7 7))
    else .error .unassigned
  | 121 => -- SRD, SWR
    if w.extractLsb' 0 7 = 0#7 then .ok (.srd (w.extractLsb' 21 4) (w.extractLsb' 14 7) (w.extractLsb' 7 7))
    else if w.extractLsb' 0 7 = 1#7 then .ok (.swr (w.extractLsb' 21 4) (w.extractLsb' 14 7) (w.extractLsb' 7 7))
    else .error .unassigned
  | 122 => -- DTIME, LBLR, LBLRAISE
    if w.extractLsb' 0 7 = 0#7 then .ok (.dtime (w.extractLsb' 21 4) (w.extractLsb' 14 7) (w.extractLsb' 7 7))
    else if w.extractLsb' 0 7 = 1#7 then .ok (.lblr (w.extractLsb' 21 4) (w.extractLsb' 14 7) (w.extractLsb' 7 7))
    else if w.extractLsb' 0 7 = 2#7 then .ok (.lblraise (w.extractLsb' 21 4) (w.extractLsb' 14 7) (w.extractLsb' 7 7))
    else .error .unassigned
  | 123 => -- GATE
    if w.extractLsb' 0 7 = 0#7 then .ok (.gate (w.extractLsb' 21 4) (w.extractLsb' 14 7) (w.extractLsb' 7 7))
    else .error .unassigned
  | 126 => -- ADV_IMM
    .ok (.advImm (w.extractLsb' 0 25))
  | 127 => -- ADV_ROUND, ADV_MEMHINT, ADV_XOPND, ADV_SCHED
    if w.extractLsb' 4 21 = 0#21 then .ok (.advRound (w.extractLsb' 3 1) (w.extractLsb' 2 1) (w.extractLsb' 0 2))
    else if w.extractLsb' 4 21 = 393216#21 then .ok (.advSched (w.extractLsb' 1 3) (w.extractLsb' 0 1))
    else if w.extractLsb' 6 19 = 32768#19 then .ok (.advMemhint (w.extractLsb' 2 4) (w.extractLsb' 0 2))
    else if w.extractLsb' 7 18 = 32768#18 then .ok (.advXopnd (w.extractLsb' 0 7))
    else .error .unassigned
  | _ => .error .reservedMajor

/-- The 32-bit value of four bytes, the first the least significant (R5). -/
def wordOfBytes (b0 b1 b2 b3 : Byte) : Word := b3 ++ b2 ++ b1 ++ b0

/-- The four bytes of a word, least significant first (R5). -/
def bytesOfWord (w : Word) : List Byte :=
  [w.extractLsb' 0 8, w.extractLsb' 8 8, w.extractLsb' 16 8, w.extractLsb' 24 8]

/-- Decode the first word of a byte sequence and answer the rest. -/
def decodeBytes : List Byte → Except Reject (Instr × List Byte)
  | b0 :: b1 :: b2 :: b3 :: rest =>
    match decode (wordOfBytes b0 b1 b2 b3) with
    | .ok i => .ok (i, rest)
    | .error r => .error r
  | _ => .error .short

/-- The word of an instruction, from the encoding tables (R9, R33); the steps of the table have no word. -/
def encode : Instr → Option Word
  | .iadd g d a b => some (0#7 ++ g ++ d ++ a ++ b)
  | .iaddImm g d a i => some (1#7 ++ g ++ d ++ a ++ i)
  | .movi g d i => some (1#7 ++ g ++ d ++ 116#7 ++ i)
  | .isub g d a b => some (2#7 ++ g ++ d ++ a ++ b)
  | .imul g d a b => some (3#7 ++ g ++ d ++ a ++ b)
  | .imulhI32 g d a b => some (4#7 ++ g ++ d ++ a ++ b)
  | .imulhN32 g d a b => some (5#7 ++ g ++ d ++ a ++ b)
  | .imad g d a b => some (6#7 ++ g ++ d ++ a ++ b)
  | .iminI32 g d a b => some (7#7 ++ g ++ d ++ a ++ b)
  | .iminN32 g d a b => some (8#7 ++ g ++ d ++ a ++ b)
  | .imaxI32 g d a b => some (9#7 ++ g ++ d ++ a ++ b)
  | .imaxN32 g d a b => some (10#7 ++ g ++ d ++ a ++ b)
  | .iadd64 g d a b => some (11#7 ++ g ++ d ++ a ++ b)
  | .isub64 g d a b => some (12#7 ++ g ++ d ++ a ++ b)
  | .lea g d a s b => some (13#7 ++ g ++ d ++ a ++ s ++ b)
  | .and32 g d a b => some (14#7 ++ g ++ d ++ a ++ b)
  | .or32 g d a b => some (15#7 ++ g ++ d ++ a ++ b)
  | .xor32 g d a b => some (16#7 ++ g ++ d ++ a ++ b)
  | .andn g d a b => some (17#7 ++ g ++ d ++ a ++ b)
  | .shl g d a b => some (18#7 ++ g ++ d ++ a ++ b)
  | .shr g d a b => some (19#7 ++ g ++ d ++ a ++ b)
  | .sar g d a b => some (20#7 ++ g ++ d ++ a ++ b)
  | .shlImm g d a n => some (21#7 ++ g ++ d ++ a ++ 0#2 ++ n)
  | .shrImm g d a n => some (21#7 ++ g ++ d ++ a ++ 1#2 ++ n)
  | .sarImm g d a n => some (21#7 ++ g ++ d ++ a ++ 2#2 ++ n)
  | .bfe g d a b => some (22#7 ++ g ++ d ++ a ++ b)
  | .bfi g d a b => some (23#7 ++ g ++ d ++ a ++ b)
  | .mov g d a => some (24#7 ++ g ++ d ++ a ++ 0#7)
  | .iabs g d a => some (24#7 ++ g ++ d ++ a ++ 1#7)
  | .popc g d a => some (24#7 ++ g ++ d ++ a ++ 2#7)
  | .clz g d a => some (24#7 ++ g ++ d ++ a ++ 3#7)
  | .brev g d a => some (24#7 ++ g ++ d ++ a ++ 4#7)
  | .mov64 g d a => some (24#7 ++ g ++ d ++ a ++ 5#7)
  | .icmp g p c a b => some (25#7 ++ g ++ p ++ c ++ a ++ b)
  | .sel s d a b => some (26#7 ++ s ++ d ++ a ++ b)
  | .fadd g d a b => some (28#7 ++ g ++ d ++ a ++ b)
  | .fsub g d a b => some (29#7 ++ g ++ d ++ a ++ b)
  | .fmul g d a b => some (30#7 ++ g ++ d ++ a ++ b)
  | .ffma g d a b => some (31#7 ++ g ++ d ++ a ++ b)
  | .ffms g d a b => some (32#7 ++ g ++ d ++ a ++ b)
  | .ffnma g d a b => some (33#7 ++ g ++ d ++ a ++ b)
  | .fmin g d a b => some (34#7 ++ g ++ d ++ a ++ b)
  | .fmax g d a b => some (35#7 ++ g ++ d ++ a ++ b)
  | .fneg g d a => some (36#7 ++ g ++ d ++ a ++ 0#7)
  | .fabs g d a => some (36#7 ++ g ++ d ++ a ++ 1#7)
  | .fclass g d a => some (36#7 ++ g ++ d ++ a ++ 2#7)
  | .fcmp g p c a b => some (37#7 ++ g ++ p ++ c ++ a ++ b)
  | .hadd2F16 g d a b => some (38#7 ++ g ++ d ++ a ++ b)
  | .hadd2Bf16 g d a b => some (39#7 ++ g ++ d ++ a ++ b)
  | .hmul2F16 g d a b => some (40#7 ++ g ++ d ++ a ++ b)
  | .hmul2Bf16 g d a b => some (41#7 ++ g ++ d ++ a ++ b)
  | .hfma2F16 g d a b => some (42#7 ++ g ++ d ++ a ++ b)
  | .hfma2Bf16 g d a b => some (43#7 ++ g ++ d ++ a ++ b)
  | .hmin2F16 g d a b => some (44#7 ++ g ++ d ++ a ++ b)
  | .hmin2Bf16 g d a b => some (45#7 ++ g ++ d ++ a ++ b)
  | .hmax2F16 g d a b => some (46#7 ++ g ++ d ++ a ++ b)
  | .hmax2Bf16 g d a b => some (47#7 ++ g ++ d ++ a ++ b)
  | .cvtToFloat g d a t s => some (52#7 ++ g ++ d ++ a ++ t ++ s)
  | .cvtToInt g d a t s => some (53#7 ++ g ++ d ++ a ++ t ++ s)
  | .packF16x2 g d a b => some (54#7 ++ g ++ d ++ a ++ b)
  | .packBf16x2 g d a b => some (55#7 ++ g ++ d ++ a ++ b)
  | .packE4m3x4 g d a => some (56#7 ++ g ++ d ++ a ++ 0#7)
  | .packE5m2x4 g d a => some (56#7 ++ g ++ d ++ a ++ 1#7)
  | .packI8x4 g d a => some (56#7 ++ g ++ d ++ a ++ 2#7)
  | .packN8x4 g d a => some (56#7 ++ g ++ d ++ a ++ 3#7)
  | .packI4x8 g d a => some (56#7 ++ g ++ d ++ a ++ 4#7)
  | .packN4x8 g d a => some (56#7 ++ g ++ d ++ a ++ 5#7)
  | .unpack g d a t k => some (57#7 ++ g ++ d ++ a ++ t ++ 0#1 ++ k)
  | .rcp g d a => some (58#7 ++ g ++ d ++ a ++ 0#7)
  | .rsq g d a => some (58#7 ++ g ++ d ++ a ++ 1#7)
  | .sqrt g d a => some (58#7 ++ g ++ d ++ a ++ 2#7)
  | .ex2 g d a => some (58#7 ++ g ++ d ++ a ++ 3#7)
  | .lg2 g d a => some (58#7 ++ g ++ d ++ a ++ 4#7)
  | .sin g d a => some (58#7 ++ g ++ d ++ a ++ 5#7)
  | .cos g d a => some (58#7 ++ g ++ d ++ a ++ 6#7)
  | .rng4 g d a k => some (59#7 ++ g ++ d ++ a ++ 0#1 ++ k)
  | .shflRot g d a b => some (60#7 ++ g ++ d ++ a ++ b)
  | .shflXor g d a b => some (61#7 ++ g ++ d ++ a ++ b)
  | .shflUp g d a b => some (62#7 ++ g ++ d ++ a ++ b)
  | .shflDown g d a b => some (63#7 ++ g ++ d ++ a ++ b)
  | .permset g n k => some (64#7 ++ g ++ n ++ k ++ 0#7)
  | .perm g d a c => some (65#7 ++ g ++ d ++ a ++ 0#4 ++ c)
  | .red g d a o => some (66#7 ++ g ++ d ++ a ++ 0#1 ++ o ++ 0#3)
  | .scan g d a o e => some (66#7 ++ g ++ d ++ a ++ 1#1 ++ o ++ e ++ 0#2)
  | .voteAny g p s => some (67#7 ++ g ++ p ++ 0#8 ++ s ++ 0#7)
  | .voteAll g p s => some (67#7 ++ g ++ p ++ 0#8 ++ s ++ 1#7)
  | .voteBallot g d s => some (67#7 ++ g ++ d ++ 0#4 ++ s ++ 2#7)
  | .voteEq g p s => some (67#7 ++ g ++ p ++ 0#8 ++ s ++ 3#7)
  | .gbcast g d a b => some (68#7 ++ g ++ d ++ a ++ b)
  | .xgsend g a s => some (69#7 ++ g ++ a ++ 0#3 ++ s ++ 0#7)
  | .xgrecv g d s => some (69#7 ++ g ++ d ++ 0#3 ++ s ++ 1#7)
  | .ldg g d b z o => some (70#7 ++ g ++ d ++ b ++ z ++ o)
  | .stg g s b z o => some (71#7 ++ g ++ s ++ b ++ z ++ o)
  | .ldsp g d b z o => some (72#7 ++ g ++ d ++ b ++ z ++ o)
  | .stsp g s b z o => some (73#7 ++ g ++ s ++ b ++ z ++ o)
  | .pfetch g b k => some (74#7 ++ g ++ 116#7 ++ b ++ k ++ 0#4)
  | .atomI32 g s b z o => some (75#7 ++ g ++ s ++ b ++ z ++ o)
  | .atomN32 g s b z o => some (76#7 ++ g ++ s ++ b ++ z ++ o)
  | .atomI64 g s b z o => some (77#7 ++ g ++ s ++ b ++ z ++ o)
  | .atomN64 g s b z o => some (78#7 ++ g ++ s ++ b ++ z ++ o)
  | .atomF32 g s b o => some (79#7 ++ g ++ s ++ b ++ 0#3 ++ o)
  | .atomrI32 g d b z o => some (80#7 ++ g ++ d ++ b ++ z ++ o)
  | .atomrN32 g d b z o => some (81#7 ++ g ++ d ++ b ++ z ++ o)
  | .atomrI64 g d b z o => some (82#7 ++ g ++ d ++ b ++ z ++ o)
  | .atomrN64 g d b z o => some (83#7 ++ g ++ d ++ b ++ z ++ o)
  | .atomrF32 g d b o => some (84#7 ++ g ++ d ++ b ++ 0#3 ++ o)
  | .qput g s r l => some (85#7 ++ g ++ s ++ 0#3 ++ r ++ 0#1 ++ l ++ 0#4)
  | .qputRemote g s r l c => some (85#7 ++ g ++ s ++ 0#3 ++ r ++ 0#1 ++ l ++ 1#1 ++ c)
  | .qputNb g s p r l x c => some (85#7 ++ g ++ s ++ p ++ r ++ 1#1 ++ l ++ x ++ c)
  | .qget g d r l => some (86#7 ++ g ++ d ++ 0#3 ++ r ++ 0#1 ++ l ++ 0#4)
  | .qgetNb g d p r l => some (86#7 ++ g ++ d ++ p ++ r ++ 1#1 ++ l ++ 0#4)
  | .qpeek g d r l => some (87#7 ++ g ++ d ++ 0#3 ++ r ++ 0#1 ++ l ++ 0#4)
  | .qpeekNb g d p r l => some (87#7 ++ g ++ d ++ p ++ r ++ 1#1 ++ l ++ 0#4)
  | .fence g o => some (88#7 ++ g ++ 0#17 ++ o)
  | .fenceSc g o => some (88#7 ++ g ++ 1#17 ++ o)
  | .wait g l s c t => some (89#7 ++ g ++ 0#1 ++ l ++ s ++ c ++ t)
  | .cwait g t b o => some (90#7 ++ g ++ t ++ b ++ 3#3 ++ o)
  | .bar b => some (91#7 ++ 0#21 ++ b)
  | .lbar k => some (92#7 ++ 0#22 ++ k)
  | .xcpy g q c => some (96#7 ++ g ++ q ++ c ++ 0#7)
  | .gang g k => some (97#7 ++ g ++ k ++ 0#14)
  | .mxfence => some (98#7 ++ 0#25)
  | .mxop g d p f => some (99#7 ++ g ++ d ++ p ++ 0#4 ++ f)
  | .mxprog g d => some (100#7 ++ g ++ d ++ 0#14)
  | .mxprogClr g => some (100#7 ++ g ++ 1#21)
  | .amalloc g d n => some (101#7 ++ g ++ d ++ n ++ 0#7)
  | .amfree g s n => some (101#7 ++ g ++ s ++ n ++ 1#7)
  | .amrd g d a => some (101#7 ++ g ++ d ++ a ++ 2#7)
  | .amwr g s a => some (101#7 ++ g ++ s ++ a ++ 3#7)
  | .amzero g s n => some (101#7 ++ g ++ s ++ n ++ 4#7)
  | .tex g d a => some (104#7 ++ g ++ d ++ a ++ 0#7)
  | .texL g d a => some (104#7 ++ g ++ d ++ a ++ 1#7)
  | .texB g d a => some (104#7 ++ g ++ d ++ a ++ 2#7)
  | .texG g d a => some (104#7 ++ g ++ d ++ a ++ 3#7)
  | .texGather g d a => some (104#7 ++ g ++ d ++ a ++ 4#7)
  | .texqMinlod g d a => some (105#7 ++ g ++ d ++ a ++ 0#7)
  | .texqSize g d a => some (105#7 ++ g ++ d ++ a ++ 1#7)
  | .trace g d a => some (106#7 ++ g ++ d ++ a ++ 0#7)
  | .traceAppend g k a => some (106#7 ++ g ++ k ++ a ++ 1#7)
  | .ocenter g k => some (107#7 ++ g ++ 0#7 ++ k ++ 0#7)
  | .ocleave g => some (107#7 ++ g ++ 1#21)
  | .ocskip g => some (107#7 ++ g ++ 2#21)
  | .flset g k c => some (108#7 ++ g ++ k ++ c ++ 0#7)
  | .flins g k q => some (108#7 ++ g ++ k ++ q ++ 1#7)
  | .flwalk g d a => some (108#7 ++ g ++ d ++ a ++ 2#7)
  | .pixout g s t => some (109#7 ++ g ++ s ++ t ++ 0#7)
  | .interp g d m l => some (109#7 ++ g ++ d ++ m ++ l ++ 1#7)
  | .discard g => some (109#7 ++ g ++ 2#21)
  | .bra g o => some (112#7 ++ g ++ o)
  | .call g o => some (113#7 ++ g ++ o)
  | .brx g n a i => some (114#7 ++ g ++ n ++ a ++ i)
  | .callx g a => some (115#7 ++ g ++ 0#7 ++ a ++ 0#7)
  | .ret g => some (116#7 ++ g ++ 0#21)
  | .exit g => some (116#7 ++ g ++ 1#21)
  | .nop g => some (116#7 ++ g ++ 2#21)
  | .yield g => some (116#7 ++ g ++ 3#21)
  | .land l => some (117#7 ++ 0#9 ++ l)
  | .period x y z => some (118#7 ++ 0#4 ++ x ++ y ++ z)
  | .trap g c => some (120#7 ++ g ++ 0#7 ++ c ++ 0#7)
  | .tret => some (120#7 ++ 1#25)
  | .bkpt g => some (120#7 ++ g ++ 2#21)
  | .ctxyield => some (120#7 ++ 3#25)
  | .srd g d s => some (121#7 ++ g ++ d ++ s ++ 0#7)
  | .swr g a s => some (121#7 ++ g ++ a ++ s ++ 1#7)
  | .dtime g d a => some (122#7 ++ g ++ d ++ a ++ 0#7)
  | .lblr g d a => some (122#7 ++ g ++ d ++ a ++ 1#7)
  | .lblraise g t a => some (122#7 ++ g ++ t ++ a ++ 2#7)
  | .gate g q c => some (123#7 ++ g ++ q ++ c ++ 0#7)
  | .advImm p => some (126#7 ++ p)
  | .advRound s f r => some (127#7 ++ 0#21 ++ s ++ f ++ r)
  | .advMemhint l c => some (127#7 ++ 32768#19 ++ l ++ c)
  | .advXopnd r => some (127#7 ++ 32768#18 ++ r)
  | .advSched p y => some (127#7 ++ 393216#21 ++ p ++ y)
  | .bundlePick _ _ => none
  | .parkedGroupExecute _ _ => none
  | .threadReady _ => none
  | .loadValueArrival _ => none
  | .specialFunctionResult _ => none
  | .homeFetch _ => none
  | .homeWrite _ => none
  | .writeCompletionReturn _ => none
  | .heldReleaseStoreSend _ => none
  | .pinForcedRelease _ _ => none
  | .refusedAccessRetry _ => none
  | .atomicEngineService _ _ => none
  | .deferredRefusal _ => none
  | .waitSatisfied _ => none
  | .fenceCompletion _ => none
  | .cwaitSatisfied _ => none
  | .dtimeWaitEnd _ => none
  | .barrierCompletion _ _ => none
  | .levelBarrierCompletion _ _ _ => none
  | .xgsendSlotFill _ _ => none
  | .xgrecvDelivery _ _ => none
  | .ringPutSlotHandout _ _ => none
  | .ringClaimService _ _ => none
  | .qpeekClaimService _ _ => none
  | .remotePutArrival _ => none
  | .creditReportArrival _ => none
  | .notifyWordWrite _ _ => none
  | .copyStatusWrite _ _ => none
  | .copyCommandStart _ => none
  | .copyUnitWrite _ => none
  | .copyCompletion _ => none
  | .gateDecision _ => none
  | .mxopHostStart _ _ => none
  | .mxopPromotion _ _ => none
  | .amBankRelease _ _ => none
  | .listInsertStep _ => none
  | .ocenterEntry _ => none
  | .doorbellWrite _ _ => none
  | .queuePoll _ _ => none
  | .queueDescriptorWrite _ _ _ _ => none
  | .eventSetWrite _ _ _ => none
  | .eventClearWrite _ _ _ => none
  | .workgroupPlacement _ _ _ => none
  | .placementReservation _ => none
  | .workgroupEnd _ => none
  | .causeSummaryWrite _ _ => none
  | .rasterBin _ => none
  | .fragmentLaunch _ _ _ => none
  | .fragmentOutput _ _ => none
  | .resolveLaunch _ _ _ => none
  | .tileStore _ _ => none
  | .sliceEnd _ => none
  | .preemptWrite _ _ => none
  | .coopPreemptTrap _ => none
  | .preemptBudgetExpiry _ => none
  | .reducedSave _ => none
  | .contextRestore _ => none
  | .preemptWatchdog _ => none
  | .slotPositionService _ => none
  | .checkpointCommit _ => none
  | .rollback _ => none
  | .pairCompare _ => none
  | .pairIntervalLimit _ => none
  | .partitionReset _ => none
  | .migrationHalving _ => none
  | .migrationControlWrite _ _ => none
  | .pageMigration _ => none
  | .pageFree _ => none
  | .scrubFrame _ => none
  | .bar2Read _ _ _ => none
  | .bar2Write _ _ _ _ => none
  | .counterBlockWrite _ _ => none
  | .pfCounterWrite _ => none
  | .registerWrite _ _ _ => none
  | .writePartitionRecord _ _ _ _ => none
  | .bindVf _ _ _ => none
  | .writeBankOwnerTable _ _ _ _ _ => none
  | .setUpLabelDomain _ _ _ _ _ => none
  | .installPolicy _ _ _ _ => none
  | .removePolicy _ _ _ => none
  | .readBudget _ _ _ => none
  | .unmap _ _ => none
  | .migrate _ _ _ _ => none
  | .setNrNw _ _ _ _ => none
  | .harvestDirtyBits _ _ _ _ => none
  | .resetPartition _ _ => none
  | .attest _ _ _ => none
  | .replyToFaultEvent _ _ _ => none
  | .enterPl4 _ => none
  | .mailboxUnknownOpcode _ _ => none
  | .flitArrival _ _ _ _ _ _ => none
  | .portTrainDown _ => none
  | .powerOnBoot _ _ _ _ => none
  | .idlePowerEntry _ => none
  | .powerStateExit _ => none
  | .pcieWake _ => none
  | .powerWindow _ => none
  | .junctionTemperature _ => none
  | .illegalEncoding _ => none
  | .faultEventRingRoom _ => none
  | .linkRetrain _ => none

/-- The instruction the decoder reads from the table's numbering of a row's bits: every row has one 32-bit word, so
the word is laid out in its byte order and decoded. -/
def decodeTableWord (_nbits w : Nat) : Option Instr :=
  match decodeBytes (bytesOfWord (BitVec.ofNat 32 w)) with
  | .ok (i, _) => some i
  | .error _ => none

end Sys2Proof
end

