-- ==== Sys2Proof/Machine/Sparse.lean ====
section
/-! DEFINITION. Tables: plain association lists with strictly rising keys. A table holds records by number; a sparse
table has a default value and lists no entry equal to it, so equal contents are equal data. -/

namespace Sys2Proof.Machine

/-- A table: entries with strictly rising keys. -/
abbrev Table (α : Type) := List (Nat × α)

/-- The entry of a key. -/
def tfind {α : Type} : Table α → Nat → Option α
  | [], _ => none
  | (k, v) :: r, x => if k = x then some v else tfind r x

/-- Write an entry, keeping the keys rising. -/
def tput {α : Type} : Table α → Nat → α → Table α
  | [], x, v => [(x, v)]
  | (k, u) :: r, x, v =>
    if x < k then (x, v) :: (k, u) :: r
    else if k = x then (x, v) :: r
    else (k, u) :: tput r x v

/-- Remove an entry. -/
def tdel {α : Type} (m : Table α) (x : Nat) : Table α := m.filter fun e => decide (e.1 ≠ x)

/-- Change an entry that is there. -/
def tmod {α : Type} : Table α → Nat → (α → α) → Table α
  | [], _, _ => []
  | (k, u) :: r, x, f => if k = x then (k, f u) :: r else (k, u) :: tmod r x f

/-- Change every entry. -/
def tmap {α β : Type} (m : Table α) (f : Nat → α → β) : Table β := m.map fun e => (e.1, f e.1 e.2)

/-- Read a sparse table. -/
def sget {α : Type} (d : α) (m : Table α) (k : Nat) : α := (tfind m k).getD d

/-- Write a sparse table: writing the default removes the entry. -/
def sset {α : Type} [DecidableEq α] (d : α) (m : Table α) (k : Nat) (v : α) : Table α :=
  if v = d then tdel m k else tput m k v

/-- The keys rise strictly from a lower bound. -/
def risingFrom {α : Type} : Nat → Table α → Bool
  | _, [] => true
  | n, (k, _) :: r => decide (n ≤ k) && risingFrom (k + 1) r

/-- No entry equals the default. -/
def noDefault {α : Type} [DecidableEq α] (d : α) (m : Table α) : Bool := m.all fun e => decide (e.2 ≠ d)

/-- The canonical form of a sparse table: rising keys, no entry equal to the default. -/
def canonical {α : Type} [DecidableEq α] (d : α) (m : Table α) : Bool := risingFrom 0 m && noDefault d m

/-- The bytes of a memory from an address on. -/
def readBytes (m : Table Byte) (a : Nat) : Nat → List Byte
  | 0 => []
  | n + 1 => sget 0#8 m a :: readBytes m (a + 1) n

/-- Write bytes at an address on. -/
def writeBytes (m : Table Byte) (a : Nat) : List Byte → Table Byte
  | [] => m
  | b :: r => writeBytes (sset 0#8 m a b) (a + 1) r

/-- The little-endian number of a byte list (R5). -/
def leNat : List Byte → Nat
  | [] => 0
  | b :: r => b.toNat + 256 * leNat r

/-- The n low bytes of a number, least significant first (R5). -/
def leBytes (v : Nat) : Nat → List Byte
  | 0 => []
  | n + 1 => BitVec.ofNat 8 v :: leBytes (v / 256) n

/-- Read a little-endian number of n bytes. -/
def readNat (m : Table Byte) (a n : Nat) : Nat := leNat (readBytes m a n)

/-- Write a little-endian number of n bytes. -/
def writeNat (m : Table Byte) (a n v : Nat) : Table Byte := writeBytes m a (leBytes v n)

/-- The numbers 0 to n - 1. -/
def upto (n : Nat) : List Nat := List.range n

/-- Bits hi..lo of a number. -/
def bits (v lo n : Nat) : Nat := v / 2 ^ lo % 2 ^ n

/-- Bit i of a number. -/
def bit (v i : Nat) : Bool := v / 2 ^ i % 2 = 1

/-- Fold over a list with the state first. -/
def forEach {α σ : Type} (s : σ) (l : List α) (f : σ → α → σ) : σ := l.foldl f s

end Sys2Proof.Machine
end

