-- ==== Sys2Proof/Machine/Types.lean ====
section
/-! DEFINITION. The records the state is made of: plain data, each field with the rule of spec/ that names it. -/

namespace Sys2Proof.Machine

/-- A 32-bit register word with its poison bit (R41, R72). -/
structure Cell where
  val : Word := 0
  poison : Bool := false
  deriving DecidableEq, Repr

/-- A group register with one poison bit per 32-bit half (R41, R116). -/
structure GCell where
  val : DWord := 0
  plo : Bool := false
  phi : Bool := false
  deriving DecidableEq, Repr

/-- A predicate with its poison bit (R49, R72). -/
structure PCell where
  val : Bool := false
  poison : Bool := false
  deriving DecidableEq, Repr

/-- A control word with its poison bit (R41, R412). -/
structure CCell where
  val : BitVec 352 := 0
  poison : Bool := false
  deriving DecidableEq, Repr

/-- The role kinds (R37, R254). -/
inductive RoleKind where
  | vector | matrix | copy
  deriving DecidableEq, Repr

/-- The scopes (R17, R282). -/
inductive Scope where
  | wg | core | dev | part | sys
  deriving DecidableEq, Repr

/-- The kinds of memory order (R17). -/
inductive OrdKind where
  | relaxed | acquire | release | acqRel
  deriving DecidableEq, Repr

/-- An order/scope code, decoded (R17). -/
structure Order where
  kind : OrdKind := .relaxed
  scope : Scope := .wg
  deriving DecidableEq, Repr

/-- The adverbs before a word (R22 to R24), and the address of the first. -/
structure Advs where
  imm : Option (BitVec 25) := none
  round : Option (BitVec 4) := none
  hint : Option (BitVec 6) := none
  xopnd : Option (BitVec 7) := none
  sched : Option (BitVec 4) := none
  first : Option DWord := none
  count : Nat := 0
  deriving DecidableEq, Repr

/-- What holds a thread at a sentence start (R28, R145, R186, R228). -/
inductive Hold where
  /-- A PERIOD awaits a register (R28). -/
  | await (reg : Nat)
  /-- WAIT with its four counts; the PC of the word, where it resumes, its position, its bundle with its number (R157, R187). -/
  | wait (ld st cp tl : Nat) (pc rpc : DWord) (pos : Nat) (bundle : List Nat) (ride : Nat)
  /-- CWAIT: counter, target, order, label; the key of its result in a checkpointed or paired workgroup; its PC (R156, R188, R422). -/
  | cwait (ea target : DWord) (order : Order) (label : Label) (fwd : Option Nat) (pc : DWord)
  /-- BAR: the barrier (R190). -/
  | bar (b : Nat)
  /-- LBAR: the level (R191). -/
  | lbar (level : Nat)
  /-- OCENTER (R228). -/
  | clause
  /-- DTIME (R145). -/
  | dtime (t : DWord)
  deriving DecidableEq, Repr

/-- The trap-frame registers (R137), and the holds that continue after the return (R186). -/
structure TrapFrame where
  tfpc : DWord := 0
  tfrpc : DWord := 0
  inh : Bool := false
  own : Bool := false
  kind : BitVec 2 := 0
  pos : BitVec 5 := 0
  tw : BitVec 4 := 0
  rsd : BitVec 5 := 0
  tfaddr : DWord := 0
  tfdpc : DWord := 0
  tft : Table Cell := []
  tftLabel : Table Label := []
  holds : List Hold := []
  deriving DecidableEq, Repr

/-- The deferred-fault record (R156). -/
structure Deferred where
  cause : Nat
  pc : DWord
  ea : DWord
  deriving DecidableEq, Repr

/-- The states of the picker (R265), and the thread that has ended (R133). -/
inductive Picker where
  | ready | running | parked | held | trapEntry | exited
  deriving DecidableEq, Repr

/-- A matrix result on its way to the WAIT that admits it (R70, R213). -/
structure TileDone where
  flags : BitVec 5
  label : Label
  cause : Option Nat
  pc : DWord
  addr : DWord
  deriving DecidableEq, Repr

/-- A thread (R41, R42, R137). Registers are keyed by their field value of R10: v 0-95, o 96-111, t 112-115. -/
structure Thread where
  regs : Table Cell := []
  written : BitVec 4 := 0
  preds : Table PCell := []
  sb : Table Bool := []
  fpflags : BitVec 5 := 0
  fpctl : BitVec 5 := 0
  wct : DWord := 0
  cause : BitVec 6 := 0
  detail : BitVec 8 := 0
  octLoad : Nat := 0
  octStore : Nat := 0
  octCopy : Nat := 0
  octTile : Nat := 0
  unalloc : Bool := false
  frame : TrapFrame := {}
  dpc : DWord := 0
  rstack : List (DWord × Label) := []
  deferred : Option Deferred := none
  pc : DWord := 0
  pos : Nat := 0
  advs : Advs := {}
  picker : Picker := .ready
  readyAt : Nat := 0
  /-- The bundle it runs in, until the PERIOD (R268). -/
  ride : Nat := 0
  /-- The bundle it parked in (R270). -/
  parkRide : Nat := 0
  holds : List Hold := []
  hint : Option Nat := none
  yielded : Bool := false
  frag : Option Nat := none
  tiles : List TileDone := []
  sentences : Nat := 0
  logSeq : Nat := 0
  saved : Bool := false
  signalled : Bool := false
  /-- Its XCPY or GATE has published the group's command, and goes on with those of other groups (R194, R300). -/
  sent : Bool := false
  jump : Option DWord := none
  passed : Bool := false
  bad : Table Bool := []
  fwdSeq : Nat := 0
  deriving DecidableEq, Repr

/-- A group waiting at the gang rendezvous (R207): its MXOP word, descriptor quad, their label, its counting threads. -/
structure MxArrival where
  word : List Nat
  desc : List GCell
  label : Label
  counting : List Nat
  pc : DWord
  deriving DecidableEq, Repr

/-- A group (R41, R50, R206, R214). -/
structure Group where
  wg : Nat := 0
  role : Nat := 0
  kind : RoleKind := .vector
  vregs : Nat := 96
  oregs : Nat := 16
  retdepth : Nat := 16
  threads : Nat := 64
  g : Table GCell := []
  c : Table CCell := []
  lreg : Table Label := []
  lpred : Table Label := []
  lg : Table Label := []
  lc : Table Label := []
  lflags : Label := 0
  lfpctl : Label := 0
  dom : BitVec 8 := 0
  ctx : Label := 0
  tvec : DWord := 0
  conjKey : Word := 0
  conjN : BitVec 3 := 0
  conjPos : BitVec 3 := 0
  lconj : Label := 0
  faulted : Bool := false
  done : Bool := false
  kdone : BitVec 16 := 0
  progDesc : Option (Nat × Nat × List DWord) := none
  ready : Bool := false
  mxReady : Bool := false
  mx : Option Nat := none
  arrival : Option MxArrival := none
  bad : Table Bool := []
  deriving DecidableEq, Repr

/-- A posted receive on a transfer slot (R124). -/
structure Posted where
  gid : Nat
  reg : Nat
  tids : List Nat
  label : Label
  whole : Bool
  pc : DWord
  deriving DecidableEq, Repr

/-- A send waiting for its slot, or what a full slot holds (R124). -/
structure XData where
  gid : Nat
  data : Table Cell
  label : Label
  since : Nat
  deriving DecidableEq, Repr

/-- A transfer slot (R123, R124). -/
structure XSlot where
  full : Option XData := none
  senders : List XData := []
  posted : Option Posted := none
  deriving DecidableEq, Repr

/-- A ring descriptor (R292). -/
structure RingDesc where
  copy : Bool := false
  inbound : Bool := false
  n : Nat := 1
  log : Nat := 4
  base : Nat := 0
  deriving DecidableEq, Repr

/-- One lane entry of a put: payload, label, what completes when it is written, its sender, its cycle and pipe (R176, R180). -/
structure PutEntry where
  data : List Byte
  /-- Its poisoned words, by number (R202). -/
  bad : List Nat := []
  label : Label
  acc : Option Nat := none
  cmd : Option Nat := none
  src : Option Nat := none
  row : Nat := 0
  at_ : Nat := 0
  pipe : Nat := 0
  deriving DecidableEq, Repr

/-- A pending claim of lanes (R177, R178). -/
structure Claim where
  peek : Bool
  accs : List Nat
  words : Nat
  total : Nat
  at_ : Nat := 0
  pipe : Nat := 0
  deriving DecidableEq, Repr

/-- A stage ring's state in hardware (R175, R181, R295). -/
structure Ring where
  desc : RingDesc := {}
  head : Nat := 0
  tail : Nat := 0
  filled : Nat := 0
  free : Nat := 0
  phase : Table Bool := []
  label : Table Label := []
  puts : List PutEntry := []
  claims : List Claim := []
  inbound : List PutEntry := []
  senders : List Nat := []
  served : Table Nat := []
  deriving DecidableEq, Repr

/-- What the hand-over of a published command waits for, and who counts it (R199). -/
structure SlotHold where
  accs : List Nat
  tids : List Nat
  reporter : Option Nat
  pc : DWord
  gid : Nat
  deriving DecidableEq, Repr

/-- The copy ring's engine registers (R297, R298). -/
structure CopyRing where
  ring : Option Nat := none
  pub : Word := 0
  con : Word := 0
  stop : Bool := false
  cause : BitVec 8 := 0
  active : Bool := false
  kind : Table Bool := []
  holds : Table SlotHold := []
  deriving DecidableEq, Repr

/-- A barrier of a workgroup: its generation (R190). -/
structure Barrier where
  gen : Nat := 0
  deriving DecidableEq, Repr

/-- The part of a workgroup that a checkpoint copies (R407, R418). -/
structure WgMem where
  spad : Table Byte := []
  bad : Table Bool := []
  blockLabel : Table Label := []
  slots : Table XSlot := []
  rings : Table Ring := []
  copy : CopyRing := {}
  bars : Table Barrier := []
  deriving DecidableEq, Repr

/-- How a workgroup runs (R416, R420). -/
inductive WgMode where
  | plain | ckpt | ante | ana
  deriving DecidableEq, Repr

/-- A retained or compared entry (R417, R421). -/
structure Retained where
  tid : Nat
  acc : Nat
  addr : Nat
  size : Nat
  data : Nat
  engine : Bool := false
  deriving DecidableEq, Repr

/-- The event that ended an interval: the word's PC in each thread that reached one (R434). -/
structure IntervalEnd where
  ends : Table DWord := []
  limit : Bool := false
  deriving DecidableEq, Repr

/-- One entry of a float-atomic log (R345). -/
structure LogEntry where
  ea : DWord
  ia : Nat
  operand : Word
  tix : Nat
  seq : Nat
  label : Label
  pc : DWord := 0
  deriving DecidableEq, Repr

/-- A level of a launch record (R260). -/
structure Level where
  count : Nat := 1
  cores : Bool := false
  scope : Nat := 0
  domain : Nat := 1
  deriving DecidableEq, Repr

/-- A role of a kernel header (R254). -/
structure Role where
  entry : DWord := 0
  threads : Nat := 64
  retdepth : Nat := 0
  groups : Nat := 1
  oregs : Nat := 0
  vregs : Nat := 8
  kind : Nat := 0
  deriving DecidableEq, Repr

/-- A kernel header (R253). -/
structure Header where
  rings : Nat := 0
  barriers : Nat := 0
  ambanks : Nat := 0
  spad : Nat := 0
  tvec : DWord := 0
  textab : DWord := 0
  samptab : DWord := 0
  astab : DWord := 0
  roles : List Role := []
  descs : List RingDesc := []
  deriving DecidableEq, Repr

/-- The stores an access can reach (R350). -/
inductive Space where
  | mem | host | foreign
  deriving DecidableEq, Repr

/-- What an access in flight does. -/
inductive AccKind where
  | load | store | atom | atomr | spLoad | spStore | ringGet | ringPut | amRead | amWrite | tex | walk | insert | special
  | log | fetch
  deriving DecidableEq, Repr

/-- Where an access in flight stands (R158 to R163, R156, R288). -/
inductive Stage where
  /-- A release held before it is performed (R161). -/
  | held
  /-- On its way to the home or engine, or retained (R417). -/
  | issued
  /-- Refused with a retry response (R288). -/
  | retry
  /-- Refused at the memory side with a cause (R156). -/
  | refused (cause : Nat)
  /-- Performed; the result or write-completion time is on its way. -/
  | returned
  /-- In a retention or compare buffer (R417, R421). -/
  | retained
  deriving DecidableEq, Repr

/-- What a reader gets of a line: its bytes, its poisoned grains, the label of the data (R154, R412). -/
structure LineView where
  bytes : List Byte
  bad : List Nat
  label : Label
  deriving DecidableEq, Repr

/-- An access in flight of one lane (R152, R153). -/
structure Access where
  kind : AccKind
  tid : Nat
  pc : DWord := 0
  ea : DWord := 0
  ia : Nat := 0
  space : Space := .mem
  range : Nat := 0
  width : Nat := 4
  signed : Bool := false
  data : Nat := 0
  cmp : Nat := 0
  op : Nat := 0
  fp : Bool := false
  dest : List Nat := []
  order : Order := {}
  label : Label := 0
  batch : Option Nat := none
  cache : Nat := 0
  lease : Nat := 0
  stage : Stage := .issued
  result : List Cell := []
  resLabel : Label := 0
  resFlags : BitVec 5 := 0
  pred : Option Bool := none
  wct : DWord := 0
  arrival : Nat := 0
  after : List Nat := []
  aux : List Nat := []
  engine : Option Nat := none
  retained : Bool := false
  inst : Nat := 0
  sentAt : Nat := 0
  fwd : Option Nat := none
  slot : Bool := false
  /-- A lane of a store whose bytes leave in the write of a later lane (R152). -/
  merged : Bool := false
  /-- The lines that an engine access has read so far, by line of the address space, its thread's own stores over them (R275, R289). -/
  lines : Table LineView := []
  deriving DecidableEq, Repr

/-- The lanes of one asynchronous instruction that held the whole group (R154). -/
structure Batch where
  left : Nat
  gid : Nat
  dest : List Nat
  whole : Bool
  label : Label
  deriving DecidableEq, Repr

/-- A fragment of a draw (R375, R376, R378). -/
structure Frag where
  launch : Nat
  tile : Nat
  x : Nat
  y : Nat
  sample : Nat
  seq : Nat
  cov : Nat
  front : Bool
  px : Word
  py : Word
  depth : Word
  tid : Option Nat := none
  outs : Table (List Word) := []
  label : Label := 0
  discarded : Bool := false
  ended : Bool := false
  registered : Bool := false
  popped : Bool := false
  holding : Bool := false
  written : Bool := false
  cu : Nat := 0
  deriving DecidableEq, Repr

/-- The shadow of a checkpointed workgroup (R418, R433): its threads, groups and memory at the commit, the ring claims and
queued puts posted then, its float-atomic log, its fragments. -/
structure Shadow where
  threads : Table Thread := []
  groups : Table Group := []
  mem : WgMem := {}
  accs : Table Access := []
  batches : Table Batch := []
  log : List LogEntry := []
  frags : Table Frag := []
  deriving DecidableEq, Repr

/-- A workgroup (R256, R257). -/
structure Workgroup where
  launch : Nat := 0
  hdr : Header := {}
  index : Nat := 0
  cid : Nat := 0
  gen : Word := 0
  mem : WgMem := {}
  halted : Bool := false
  ended : Bool := false
  mode : WgMode := .plain
  twin : Option Nat := none
  shadow : Option Shadow := none
  retained : List Retained := []
  endAt : Option IntervalEnd := none
  rollbacks : Nat := 0
  since : Nat := 0
  backCauses : List Nat := []
  retry : Bool := false
  final : Bool := false
  record : Table (List Cell × Label) := []
  log : List LogEntry := []
  tile : Option Nat := none
  resolve : Bool := false
  textab : DWord := 0
  samptab : DWord := 0
  astab : DWord := 0
  deriving DecidableEq, Repr

/-- A bundle held at a FENCE or MXFENCE (R183, R184, R208). -/
structure FenceHold where
  order : Order
  sc : Bool
  tids : List Nat
  mx : Bool := false
  deriving DecidableEq, Repr

/-- A bundle on a pipe (R267, R268): threads in beat order, the address and position of the next word. -/
structure Bundle where
  tids : List Nat := []
  pc : DWord := 0
  pos : Nat := 0
  advs : Advs := {}
  stalled : Bool := false
  fence : Option FenceHold := none
  deriving DecidableEq, Repr

/-- A leased copy of a line (R158, R277). -/
structure CopyLine where
  bytes : List Byte
  label : Label
  leaseEnd : DWord
  /-- The label domain of its page (R363). -/
  dom : BitVec 8 := 0
  /-- Its 8-byte grains that came poisoned (R412). -/
  bad : List Nat := []
  /-- Stores of the core that had been performed when the copy was filled and whose completions had not returned: the copy has
  their bytes, and newer ones (R278). -/
  seen : List Nat := []
  deriving DecidableEq, Repr

/-- Who waits on a pin from outside (R288). -/
inductive Waiter where
  /-- An access in flight. -/
  | acc (id : Nat)
  /-- A thread held at a CWAIT. -/
  | cwait (tid : Nat)
  /-- A bundle that fetches its word, or reads a table of BRX, at an address. -/
  | bundle (pipe : Nat) (pc : DWord)
  /-- An engine or the host, which never gives up. -/
  | engine
  deriving DecidableEq, Repr

/-- A pinned line: its bytes, its grains that are poisoned still, its label raise, the workgroup, thread and word that pinned it,
the threads that have written it, who waits for it and since when (R163, R169, R285, R288). -/
structure Pin where
  line : Nat
  bytes : List Byte
  bad : List Nat := []
  label : Label
  dom : BitVec 8
  wg : Nat
  tid : Nat
  pc : DWord
  writers : List Nat := []
  waiters : List Waiter := []
  waitSince : Option DWord := none
  deriving DecidableEq, Repr

/-- The state of an AM bank (R218, R310). -/
inductive BankState where
  | free
  | held (wg : Nat)
  | tagged (wg : Nat) (key : Word) (n : Nat) (b0 : Nat) (first : Nat) (m : Nat)
  deriving DecidableEq, Repr

/-- A bank waiting for AMFREE or AMZERO (R217): the group that waits, and the label of an AMZERO. -/
structure BankWait where
  zero : Bool
  label : Label
  gid : Nat
  deriving DecidableEq, Repr

/-- An AM bank: state, label, pending AMFREE or AMZERO (R215 to R218). -/
structure Bank where
  state : BankState := .free
  label : Label := 0
  waits : List BankWait := []
  deriving DecidableEq, Repr

/-- A credit entry: the credit, the lanes sent to each generation, the target's generation, its absent mark (R295). -/
structure Credit where
  credit : Int := 0
  sent : Table Nat := []
  gen : Word := 0
  absent : Bool := false
  reported : Bool := false
  deriving DecidableEq, Repr

/-- The save of one CU (R406, R407). -/
structure SaveState where
  delivering : Bool := false
  start : DWord := 0
  saved : Bool := false
  deriving DecidableEq, Repr

/-- A compute unit. -/
structure Cu where
  l1 : Table CopyLine := []
  pins : List Pin := []
  am : Table Word := []
  amBad : Table Bool := []
  banks : Table Bank := []
  credits : Table Credit := []
  genCount : Word := 0
  /-- Workgroup index and number after the ring served last (R302). -/
  rotate : Nat × Nat := (0, 0)
  save : SaveState := {}
  deriving DecidableEq, Repr

/-- A lease entry (R279). -/
structure Lease where
  rung : Nat := 5
  le : DWord := 0
  quiet : Nat := 0
  deriving DecidableEq, Repr

/-- A core: atomic-engine pins, line store and services since one of another core's requests, lease entries and retired bound of
its L2 slice (R163, R172, R279, R280). -/
structure Core where
  pins : List Pin := []
  lineStore : List Nat := []
  ownRun : Nat := 0
  l2 : Table CopyLine := []
  leases : Table Lease := []
  retired : DWord := 0
  deriving DecidableEq, Repr

/-- A command of the copy engine or the release gate (R197 to R205): its words, counter, labels, the units written and the bytes
read for the one under way, the targets with their generations (R304, R305), who counts it, status, what the gate has read,
drawn and decided. -/
structure CopyCmd where
  wg : Nat
  gid : Nat
  gate : Bool
  q : List DWord
  counter : DWord
  cmdLabel : Label
  dataLabel : Label
  /-- The first unit not yet done, and those done beyond it (R200, R289). -/
  next : Nat := 0
  ahead : List Nat := []
  /-- The unit under way, and its bytes so far with their poison. -/
  cur : Option Nat := none
  buf : List (Byte × Bool) := []
  targets : List (Nat × Nat × Word) := []
  tids : List Nat := []
  reporter : Option Nat := none
  pc : DWord := 0
  status : BitVec 8 := 0
  refusal : BitVec 8 := 0
  wct : DWord := 0
  puts : List Nat := []
  data : List Byte := []
  asked : Bool := false
  accepted : Option Bool := none
  /-- The serial of the policy whose budget it has lowered (R204). -/
  drawn : Option Word := none
  decided : Bool := false
  refused : Bool := false
  deriving DecidableEq, Repr

/-- An entry of a host's correction registers, for a row or a column edge (R236): the sum of squares, the block exponent, the
special-value flag, the residue modulo 3 predicted from the operands (R252), the scale and the zero point. -/
structure MxEdge where
  sum : Nat := 0
  ex : Int := 0
  special : Bool := false
  res : Nat := 0
  scale : Nat := 0
  zero : Nat := 0
  deriving DecidableEq, Repr

/-- A cell of the array: its narrow accumulator (R234) and the predicted residue beside it (R252). -/
structure MxCell where
  n : Nat := 0
  res : Nat := 0
  deriving DecidableEq, Repr

/-- The sums of one pass of a block (R234, R236): the edge entries in use and the cells, row by row. -/
structure MxPass where
  rows : List MxEdge
  cols : List MxEdge
  cells : List (List MxCell)
  deriving DecidableEq, Repr

/-- An aligned 16-byte operand unit that a host has read (R250): its bytes, and the failing address of each byte that cannot be
used (R213). -/
structure MxUnit where
  bytes : List Byte
  bad : List (Nat × Nat) := []
  deriving DecidableEq, Repr

/-- A block whose operands a host is reading: its first k-step and the units read so far (R250). -/
structure MxLoad where
  k : Nat
  got : Table MxUnit := []
  deriving DecidableEq, Repr

/-- A block that the array has summed and not yet drained (R238): its sums, pass by pass, and the failing addresses of its
operands, in memory and in scratchpad (R213). -/
structure MxBlock where
  k : Nat
  passes : List MxPass
  fails : List Nat := []
  spadFails : List Nat := []
  deriving DecidableEq, Repr

/-- A block that a host has drained and not yet committed (R212, R247): its elements and flags, or why it cannot be promoted: a
failed residue check, a failed grain of AM, failing operand addresses (R213). -/
structure MxStage where
  elems : Table Word := []
  flags : BitVec 5 := 0
  residue : Bool := false
  amBad : Bool := false
  fails : List Nat := []
  spadFails : List Nat := []
  deriving DecidableEq, Repr

/-- One host array's share of a matrix operation (R211, R309): its CU, the workgroup of its first member, the block it reads, the
block in its other set of sums (R238), and the block that waits for the commit (R212). -/
structure MxHost where
  cid : Nat
  firstWg : Nat
  started : Bool := false
  load : Option MxLoad := none
  full : Option MxBlock := none
  staged : Option MxStage := none
  deriving DecidableEq, Repr

/-- A matrix operation in flight (R209 to R214). -/
structure MxOp where
  pc : DWord
  fmt : Nat
  p : Nat
  desc : List DWord
  key : Word
  n : Nat
  members : List Nat
  hosts : List MxHost
  counting : List Nat
  label : Label
  kdone : Nat := 0
  resumed : Bool := false
  flags : BitVec 5 := 0
  at_ : Nat := 0
  deriving DecidableEq, Repr

/-- A message between ring senders and targets (R181, R295). -/
inductive Msg where
  /-- A remote put's lane arrival: source CU, target CU, ring, generation, launch, entry, sent against an absent mark. -/
  | put (src dst ring : Nat) (gen : Word) (launch : Nat) (e : PutEntry) (absent : Bool)
  /-- A credit report: target CU, ring, receiving CU, E, served count, generation, absent mark. -/
  | report (src ring dst : Nat) (free served : Nat) (gen : Word) (absent : Bool)
  deriving DecidableEq, Repr

/-- Where a launch stands (R336 to R340). -/
inductive LaunchPhase where
  | waiting | admitted | ended | refused
  deriving DecidableEq, Repr

/-- A launch (R259, R263, R343). -/
structure Launch where
  vf : Nat := 0
  queue : Nat := 0
  seq : Nat := 0
  label : Label := 0
  record : List Byte := []
  slot : DWord := 0
  slotBad : Bool := false
  args : DWord := 0
  status : DWord := 0
  prio : Nat := 0
  nlev : Nat := 0
  screen : Nat := 0
  replay : Bool := false
  paired : Bool := false
  ckpt : Bool := false
  det : Bool := false
  clear : BitVec 256 := 0
  wait : BitVec 256 := 0
  set : BitVec 256 := 0
  levels : List Level := []
  header : Header := {}
  phase : LaunchPhase := .waiting
  asked : Bool := false
  accepted : Bool := false
  total : Nat := 0
  next : Nat := 0
  doneWgs : Nat := 0
  eligible : Nat := 0
  waitSince : Option DWord := none
  reserved : Bool := false
  halted : Bool := false
  code : Nat := 0
  tvec : DWord := 0
  treplay : Bool := false
  tcap : Nat := 0
  tskip : Bool := false
  logva : DWord := 0
  logbytes : Nat := 0
  pass : Option Nat := none
  draw : List Byte := []
  seqBase : Nat := 0
  ntri : Nat := 0
  binned : Bool := false
  endDraw : Bool := false
  fragHdr : Header := {}
  shadowPages : Table (Table Byte) := []
  argCopy : List Byte := []
  requeued : Bool := false
  wct : DWord := 0
  deriving DecidableEq, Repr

/-- One determinism cause entry (R348). -/
structure CauseEntry where
  code : Nat
  queue : Nat
  seq : Nat
  pc : DWord
  count : Word
  deriving DecidableEq, Repr

/-- A fault event (R446, R447). -/
structure FaultEvent where
  type : Nat
  cause : Nat := 0
  vf : Nat := 0
  seq : Nat := 0
  pc : DWord := 0
  addr : DWord := 0
  detail : DWord := 0
  reply : Bool := false
  deriving DecidableEq, Repr

/-- A fault-event ring: descriptor words, indices, waiting events, drop mark (R446, R448). -/
structure FaultRing where
  w0 : DWord := 0
  w1 : DWord := 0
  prod : DWord := 0
  seq : Nat := 0
  waiting : List FaultEvent := []
  outstanding : List FaultEvent := []
  dropped : Bool := false
  msix : Nat := 0
  deriving DecidableEq, Repr

/-- A queue of a context (R333, R334). -/
structure Queue where
  w0 : DWord := 0
  w1 : DWord := 0
  con : DWord := 0
  prod : DWord := 0
  head : Option Nat := none
  again : List Nat := []
  pass : Option Nat := none
  deriving DecidableEq, Repr

/-- What the save of a context keeps of a CU (R407, R410). -/
structure CuSave where
  am : Table Word := []
  amBad : Table Bool := []
  banks : Table Bank := []
  credits : Table Credit := []
  deriving DecidableEq, Repr

/-- A context, one for each VF (R333 to R348, R401, R426, R432, R443). -/
structure Context where
  ranges : Table (List DWord) := []
  queues : Table Queue := []
  events : BitVec 256 := 0
  lastQueue : Table Nat := []
  causes : List CauseEntry := []
  causeOvf : Bool := false
  counters : Table DWord := []
  inject0 : DWord := 0
  inject1 : DWord := 0
  injectCount : Nat := 0
  bar2 : DWord := 0
  ring : FaultRing := {}
  dom : BitVec 8 := 0
  binding : DWord := 0
  resident : Bool := false
  savedCtx : Bool := false
  sliceStart : DWord := 0
  preempting : Option DWord := none
  cuSave : Table CuSave := []
  deriving DecidableEq, Repr

/-- A page entry (R353). -/
structure Page where
  b : Bool := false
  lg : Bool := false
  tier : BitVec 2 := 0
  /-- The device that holds the frame or reaches it: none for this device, whose index is Config.devIndex. -/
  dev : Option (BitVec 6) := none
  frame : BitVec 32 := 0
  dom : BitVec 8 := 0
  mov : Bool := false
  nr : Bool := false
  nw : Bool := false
  enc : Bool := false
  label : Label := 0
  dirty : Bool := false
  cand : BitVec 6 := 0
  cnt : Nat := 0
  lacc : Nat := 0
  racc : Nat := 0
  free : Bool := false
  goal : Option (BitVec 2 × Option (BitVec 6)) := none
  domSet : Bool := false
  posted : Bool := false
  part : Nat := 0
  retired : Bool := false
  deriving DecidableEq, Repr

/-- The failure of a stored grain (R412, R413, R424). -/
inductive Grain where
  | good | marker | uncorrectable | correctable | badTag
  deriving DecidableEq, Repr

/-- An access of a host port, or a flit, that waits: for a partition's exit (R457), for a pin, a page or the write before it (R290), or
behind one of its port that waits (R337, R441). -/
inductive HostAcc where
  | doorbell (vf : Nat) (data : DWord)
  | eventSet (vf word : Nat) (data : DWord)
  | eventClear (vf word : Nat) (data : DWord)
  | queueWrite (vf queue word : Nat) (data : DWord)
  | preempt (vf : Nat) (data : DWord)
  | causes (vf : Nat) (data : DWord)
  | counters (vf word : Nat)
  | register (vf offset : Nat) (data : DWord)
  | bar2Read (vf offset width : Nat)
  | bar2Write (vf offset width : Nat) (data : BitVec 512)
  | flit (part port src dst : Nat)
  deriving DecidableEq, Repr

/-- A partition of the device (R399, R449, R456, R357). -/
structure Partition where
  w0 : DWord := 0
  w1 : DWord := 0
  routes : Bool := false
  tol : DWord := 0
  mode : DWord := 0
  migrate : DWord := 0
  nextHalve : Option DWord := none
  power : Nat := 0
  waking : Bool := false
  idleSince : DWord := 0
  windows : List (Nat × Nat) := []
  last : Nat := 0
  keys : Bool := false
  deriving DecidableEq, Repr

/-- A channel controller: bank owners, slot table, lend, position (R403, R404). -/
structure Channel where
  owners : Table (BitVec 8) := []
  slots : Table (BitVec 8) := []
  lend : Bool := false
  nextSlots : Table (BitVec 8) := []
  nextLend : Bool := false
  pos : Nat := 0
  lastLent : Nat := 0
  servedNow : Option (Nat × Nat) := none
  deriving DecidableEq, Repr

/-- A release policy (R365). -/
structure Policy where
  dom : BitVec 8
  label : Label
  dests : BitVec 16
  serial : Word
  budget : DWord
  expiry : DWord
  deriving DecidableEq, Repr

/-- A mailbox of a PF (R444, R445). -/
structure Mailbox where
  command : Table DWord := []
  response : Table DWord := []
  deriving DecidableEq, Repr

/-- A vertex: clip-space position and attribute values (R369). -/
structure Vertex where
  pos : List Word
  attrs : List Word
  deriving DecidableEq, Repr

/-- A triangle of a draw after setup: window positions and planes (R369, R374). -/
structure Tri where
  seq : Nat
  zplane : List Word
  wplane : List Word
  attrs : List (List Word)
  lin : List (List Word)
  flat : List Word
  front : Bool
  deriving DecidableEq, Repr

/-- The state of one tile of a pass (R371, R391). Its region lists the bytes that are written; it is filled at the tile's first work
(R371), with free values where a load field leaves the contents undefined (R370; log entry 79). -/
structure TileState where
  cid : Nat := 0
  loaded : Bool := false
  resolve : Option Nat := none
  stored : Bool := false
  region : Table Byte := []
  labels : Table Label := []
  used : List Nat := []
  freed : List Nat := []
  unit : Nat := 0
  deriving DecidableEq, Repr

/-- An open or ending render pass (R367 to R371, R392). -/
structure Pass where
  vf : Nat
  queue : Nat
  va : Nat := 0
  record : List Byte
  width : Nat
  height : Nat
  samples : Nat
  tileMode : Bool
  perSample : Bool
  lists : Bool
  seq : Nat := 0
  tiles : Table TileState := []
  used : List Nat := []
  freed : List Nat := []
  resolveHdr : Header := {}
  pressure : Bool := false
  label : Label := 0
  closed : Bool := false
  ended : Bool := false
  draws : List Nat := []
  wct : DWord := 0
  deriving DecidableEq, Repr

/-- A label-domain slot: the two key digests and the bound bit (R362). -/
structure DomainSlot where
  ecdsa : Nat := 0
  lms : Nat := 0
  bound : Bool := false
  deriving DecidableEq, Repr

/-- A frame pool: of a bank cell of this device, of a partition on another device, or of a partition in the CXL or host-backed tier
(R354, R403). -/
inductive PoolKey where
  | cell (c : Nat)
  | peer (part : Nat) (dev : BitVec 6)
  | cxl (part : Nat)
  | host (part : Nat)
  deriving DecidableEq, Repr

/-- What has been taken of a frame pool: the frames below next but those given back (R354, R355, R361). -/
structure Pool where
  next : Nat := 0
  back : List Nat := []
  deriving DecidableEq, Repr

/-- A frame waiting for the scrubber with its ticket (R361). -/
structure Scrub where
  part : Nat
  tier : BitVec 2
  dev : Option (BitVec 6)
  frame : BitVec 32
  ticket : DWord
  deriving DecidableEq, Repr

/-- How a host read through BAR2 completes (R443). -/
inductive HostAnswer where
  | data (v : Nat)
  | completerAbort
  | unsupported
  deriving DecidableEq, Repr

/-- The parts of the package outside the cores (R361, R365, R444, R451, R453, R458). The power limit of the configuration block (R454) is
set to 1350 W, that of the L440-P: R458 gives the L440-M 1500 W, and the model chooses the P form (DESIGN CHOICE, log entry 80), with 0
for the block's SKU code and version. -/
structure Package where
  booted : Bool := true
  bootStep : Nat := 0
  enabledCores : BitVec 32 := 0xFFFFFFFF
  sku : Nat := 0
  configVersion : Nat := 0
  lendOk : Bool := true
  powerLimit : Nat := 1350
  policies : List Policy := []
  domains : Table (Table DomainSlot) := []
  mailboxes : Table Mailbox := []
  pfRings : Table FaultRing := []
  pfCounters : Table DWord := []
  portsDown : BitVec 16 := 0
  delivered : List (Nat × Nat × Nat) := []
  pools : List (PoolKey × Pool) := []
  scrubs : List Scrub := []
  tickets : Table DWord := []
  scrubbed : Table DWord := []
  retired : List (BitVec 2 × Option (BitVec 6) × BitVec 32) := []
  hotReset : Bool := false
  pkgw : BitVec 16 := 0
  tj : BitVec 8 := 0
  clk : BitVec 16 := 1800
  hot : Bool := false
  power : Nat := 0
  windowStart : DWord := 0
  hostReads : List (Nat × Nat × HostAnswer) := []
  hostWct : Table DWord := []
  waiting : List HostAcc := []
  smbus : List (Nat × Nat) := []
  deriving DecidableEq, Repr

end Sys2Proof.Machine
end

