-- ==== Sys2Proof/Machine/State.lean ====
section
/-! DEFINITION. The state of one L440 package: plain data, all that the spec gives the machine, and the model's own
fields (agenda, turn, fresh), listed in INVENTORY.md. -/

namespace Sys2Proof.Machine

/-- Why a step stops with a fault. -/
inductive Fault where
  /-- The device is held in reset after a failed boot step (R2, R453), and what happens next is no power-on. Raised by `step`. Safe: no claim about a next state follows from it. -/
  | heldInReset
  deriving DecidableEq, Repr

/-- Why an instruction has no meaning. -/
inductive Refusal where
  /-- The arm of `exec` is not written yet. Raised by no arm of this model. Safe. -/
  | notModelled (mnemonic : String)
  deriving DecidableEq, Repr

/-- What nature does to stored values and checkers (R412, R415, R424, R252): an input of the agenda. -/
inductive Upset where
  /-- The 8-byte grain of memory at ia/8 fails as said. -/
  | grain (key : Nat) (g : Grain)
  /-- The 64-byte GDDR7 sector at ia/64 fails as said. -/
  | sector (key : Nat) (g : Grain)
  /-- The scratchpad granule fails uncorrectably. -/
  | spad (wg key : Nat)
  /-- A register word of a thread fails uncorrectably (field value of R10). -/
  | reg (tid field : Nat)
  /-- A predicate of a thread fails. -/
  | pred (tid p : Nat)
  /-- A group register fails. -/
  | gReg (gid k : Nat)
  /-- A control word fails. -/
  | cReg (gid k : Nat)
  /-- A corrected single-bit error in resources of a VF's partition. -/
  | corrected (vf : Nat)
  /-- The next vector word issued shows a checker mismatch. -/
  | mismatch
  /-- A checker of the copy engine finds a mismatch in a command (R415). -/
  | copyEngine (cmd : Nat)
  /-- An error that the physical-function counters count: 1 an uncorrected flit error, 4 of a CXL link, 5 of a host link (R426, R444). -/
  | link (word : Nat)
  /-- The narrow accumulator and residue of a cell of a host's undrained sums take other values (R252). -/
  | mxCell (op host pass row col : Nat) (n : Word) (res : BitVec 2)
  /-- The sum and residue of a correction register take other values: a row's, or a column's (R236, R252). -/
  | mxEdge (op host pass : Nat) (column : Bool) (i : Nat) (sum : BitVec 30) (res : BitVec 2)
  /-- The checkers of a host's promotion unit find an error in the block that waits for its commit (R252). -/
  | mxPromotion (op host : Nat)
  /-- The 8-byte grain of the elements 2 * key and 2 * key + 1 of a CU's AM fails uncorrectably. -/
  | am (cid key : Nat)
  /-- The lease entry of a line is dropped by its slice (R280). -/
  | dropLease (core line : Nat)
  /-- A copy of a line leaves the L1 of a CU: displaced, or failed and clean (R158, R425). -/
  | dropL1 (cid line : Nat)
  /-- A copy of a line leaves the L2 of a core. -/
  | dropL2 (core line : Nat)
  deriving DecidableEq, Repr

/-- What happens next: time passes, a pipe issues, a step of the table happens, nature acts (log entry 2). -/
inductive Act where
  | tick (n : Nat)
  | issue (pipe : Nat)
  | event (e : Instr)
  | upset (u : Upset)
  deriving DecidableEq, Repr

/-- The state of the package. -/
structure State where
  /-- Device time in ticks (R5, R52). -/
  now : DWord := 0
  /-- Global memory by IA (R274, R352). -/
  mem : Table Byte := []
  /-- Host memory by the IA of host ranges (R364). -/
  hostMem : Table Byte := []
  /-- Foreign-fabric memory by the IA of foreign ranges (R364). -/
  foreignMem : Table Byte := []
  /-- Failed 8-byte grains of memory, by ia/8 (R412, R413). -/
  grains : Table Grain := []
  /-- Failed GDDR7 sectors, by ia/64 (R412, R424). -/
  sectors : Table Grain := []
  /-- Page entries, by ia/65536 (R353). -/
  pages : Table Page := []
  /-- Threads by number: (workgroup number * 16 + gi) * 64 + lane. -/
  threads : Table Thread := []
  /-- Groups by number: workgroup number * 16 + gi. -/
  groups : Table Group := []
  /-- Workgroups placed, by number. -/
  wgs : Table Workgroup := []
  /-- Bundles on pipes, by CU * 4 + pipe (R267). -/
  pipes : Table Bundle := []
  /-- The pipe whose word an issue takes. -/
  turn : Nat := 0
  /-- Compute units by core * 8 + index. -/
  cus : Table Cu := []
  /-- Cores by physical index. -/
  cores : Table Core := []
  /-- Accesses in flight. -/
  accs : Table Access := []
  /-- Lanes of one asynchronous instruction still to arrive (R154). -/
  batches : Table Batch := []
  /-- Copy and gate commands started (R302). -/
  cmds : Table CopyCmd := []
  /-- Matrix operations in flight (R308). -/
  mxops : Table MxOp := []
  /-- Ring messages in transit (R181, R295). -/
  msgs : Table Msg := []
  /-- Launches taken from queues (R336). -/
  launches : Table Launch := []
  /-- Contexts by VF (R401). -/
  ctxs : Table Context := []
  /-- Partitions by local index (R399). -/
  parts : Table Partition := []
  /-- Memory channels (R403, R404). -/
  channels : Table Channel := []
  /-- Render passes (R367). -/
  passes : Table Pass := []
  /-- Triangles of binned draws, by launch (R369). -/
  tris : Table (List Tri) := []
  /-- Fragments (R375). -/
  frags : Table Frag := []
  /-- The rest of the package. -/
  pkg : Package := {}
  /-- A checker mismatch is pending at the next vector word (R415). -/
  mismatch : Bool := false
  /-- What happens next (log entry 2). -/
  agenda : List Act := []
  /-- The picker's cycle: ready times are counted in it, and it numbers the picks (R265, R267, R272; log entry 68). -/
  cycle : Nat := 0
  /-- The FENCE.sc that took effect last: its device time and pipe (R287). -/
  lastSc : Option (DWord × Nat) := none
  /-- The next number for accesses, workgroups, launches, operations, events and free values. -/
  fresh : Nat := 0
  deriving DecidableEq, Repr

/-- The package right after reset: booted with the full configuration, nothing launched, device time 0, memory with
nothing listed (log entries 1, 13); the L440-P form, with its power limit of 1350 W (R454, R458: DESIGN CHOICE, log entry 80). -/
def State.reset : State := {}

end Sys2Proof.Machine
end

