-- ==== Sys2Proof/Machine/Legal.lean ====
section
/-! DEFINITION. What each word reads and writes, which adverbs it accepts, what must follow it, who may issue it, and
which operand encodings are legal (R9 to R24, R46, R109, R148, R193, R233). -/

namespace Sys2Proof.Machine

/-- An operand of a word. -/
inductive Opnd where
  /-- A 32-bit register field (R10). -/
  | r (f : BitVec 7)
  /-- A 64-bit pair (R11). -/
  | pair (f : BitVec 7)
  /-- A quad (R11). -/
  | quad (f : BitVec 7)
  /-- An octet (R11). -/
  | oct (f : BitVec 7)
  /-- A group register by number. -/
  | g (k : Nat)
  /-- A control word by number. -/
  | c (k : Nat)
  /-- A predicate by number. -/
  | p (k : Nat)
  /-- A register named but not read (R28, R146, R147). -/
  | name (f : BitVec 7)
  deriving DecidableEq, Repr

/-- The shape of a word. -/
structure Shape where
  word : Bool := true
  guard : Option (BitVec 4) := none
  sel : Bool := false
  srcs : List Opnd := []
  dsts : List Opnd := []
  async : Bool := false
  role : Option RoleKind := none
  imm : Bool := false
  round : Bool := false
  hint : Bool := false
  xopnd : Bool := false
  needX : Bool := false
  sched : Bool := true
  period : Bool := false
  frag : Bool := false
  whole : Bool := false
  ok : Bool := true
  deriving DecidableEq, Repr

/-- A pair field: even 0 to 94, or 116 (R11). -/
def pairOk (f : BitVec 7) : Bool := decide (f.toNat = 116 ∨ (f.toNat % 2 = 0 ∧ f.toNat ≤ 94))

/-- A quad field: a multiple of 4 in v0 to v92 (R11). -/
def quadOk (f : BitVec 7) : Bool := decide (f.toNat % 4 = 0 ∧ f.toNat ≤ 92)

/-- An octet field: a multiple of 8 in v0 to v88 (R11). -/
def octOk (f : BitVec 7) : Bool := decide (f.toNat % 8 = 0 ∧ f.toNat ≤ 88)

/-- A v- or o-register field. -/
def voOk (f : BitVec 7) : Bool := decide (f.toNat ≤ 111)

/-- A temporary field. -/
def isTemp (f : BitVec 7) : Bool := decide (112 ≤ f.toNat ∧ f.toNat ≤ 115)

/-- A guard value that is not "never" (R14). -/
def guardOk (g : BitVec 4) : Bool := decide (g ≠ 8#4)

/-- The operand of a memory size field (R19). -/
def sizedOpnd (z : BitVec 3) (f : BitVec 7) : Opnd :=
  if z = 3#3 then .pair f else if z = 4#3 then .quad f else .r f

/-- The operand of a ring payload field (R36). -/
def payloadOpnd (l : BitVec 2) (f : BitVec 7) : Opnd :=
  if l = 1#2 then .pair f else if l = 2#2 then .quad f else .r f

/-- A CVT operand: 64-bit types are pairs (R35, R95). -/
def cvtOpnd (t : Nat) (f : BitVec 7) : Opnd := if t = 3 ∨ t = 7 then .pair f else .r f

/-- An acquire code (R17). -/
def acqCode (o : BitVec 4) : Bool := decide (1 ≤ o.toNat ∧ o.toNat ≤ 5)

/-- A release code (R17). -/
def relCode (o : BitVec 4) : Bool := decide (6 ≤ o.toNat ∧ o.toNat ≤ 10)

/-- The special registers: width in bits and whether SWR may write them (R52, R137). -/
def srInfo (n : Nat) : Option (Nat × Bool) :=
  if n ≥ 0x40 then some (64, true)
  else match n with
    | 0x00 | 0x01 | 0x06 | 0x08 | 0x09 | 0x0A => some (32, false)
    | 0x02 | 0x03 | 0x07 | 0x0B => some (32, true)
    | 0x04 | 0x05 => some (64, false)
    | 0x10 | 0x13 | 0x14 => some (64, false)
    | 0x11 | 0x19 => some (64, true)
    | 0x12 | 0x15 | 0x16 | 0x17 | 0x18 => some (32, true)
    | _ => none

/-- The operand of SRD and SWR by the register's width (R52). -/
def srOpnd (s f : BitVec 7) : Opnd :=
  match srInfo s.toNat with
  | some (64, _) => .pair f
  | _ => .r f

/-- Three-register and register-and-function words (R71). -/
def aluShape (g : BitVec 4) (d : Opnd) (srcs : List Opnd) : Shape := { guard := some g, dsts := [d], srcs := srcs }

/-- How an atomic uses its operand (R168). A base is a pair of R11, z among them, for an address of 0 (R12; log entry 47). -/
def atomShape (g : BitVec 4) (wide ret cas : Bool) (s b : BitVec 7) : Shape :=
  { guard := some g, srcs := [if wide then .pair s else .r s, .pair b],
    dsts := if ret then [if wide then .pair s else .r s] else [], async := ret,
    imm := true, hint := true, xopnd := cas, needX := cas }

/-- The shape of every word. A special function with a g-register destination (0x3A, rd 120 to 127) is an illegal encoding, as R101 asks
for a v- or o-register, though R108 and R109 do not name it (DEDUCED, log entry 83). -/
def shape : Instr → Shape
  | .iadd g d a b | .isub g d a b | .imul g d a b | .imulhI32 g d a b | .imulhN32 g d a b | .iminI32 g d a b | .iminN32 g d a b | .imaxI32 g d a b | .imaxN32 g d a b | .and32 g d a b | .or32 g d a b | .xor32 g d a b | .andn g d a b | .shl g d a b | .shr g d a b | .sar g d a b | .bfe g d a b | .fmin g d a b | .fmax g d a b =>
    aluShape g (.r d) [.r a, .r b]
  | .imad g d a b => { aluShape g (.r d) [.r a, .r b] with xopnd := true }
  | .iaddImm g d a _ => { aluShape g (.r d) [.r a] with imm := true }
  | .movi g d _ => { aluShape g (.r d) [] with imm := true }
  | .iadd64 g d a b | .isub64 g d a b => aluShape g (.pair d) [.pair a, .pair b]
  | .lea g d a _ b => aluShape g (.r d) [.r a, .r (b.zeroExtend 7)]
  | .shlImm g d a _ | .shrImm g d a _ | .sarImm g d a _ => aluShape g (.r d) [.r a]
  | .bfi g d a b => aluShape g (.r d) [.r a, .r b, .r d]
  | .mov g d a | .iabs g d a | .popc g d a | .clz g d a | .brev g d a | .fneg g d a | .fabs g d a | .fclass g d a =>
    aluShape g (.r d) [.r a]
  | .mov64 g d a => aluShape g (.pair d) [.pair a]
  | .icmp g p c a b => { aluShape g (.p p.toNat) [.r a, .r b] with ok := decide (p ≠ 0 ∧ c.toNat ≤ 9) }
  | .fcmp g p c a b => { aluShape g (.p p.toNat) [.r a, .r b] with ok := decide (p ≠ 0 ∧ c.toNat ≤ 13) }
  | .sel s d a b => { aluShape s (.r d) [.r a, .r b] with sel := true }
  | .fadd g d a b | .fsub g d a b | .fmul g d a b => { aluShape g (.r d) [.r a, .r b] with round := true }
  | .ffma g d a b | .ffms g d a b | .ffnma g d a b => { aluShape g (.r d) [.r a, .r b] with round := true, xopnd := true }
  | .hadd2F16 g d a b | .hadd2Bf16 g d a b | .hmul2F16 g d a b | .hmul2Bf16 g d a b | .hmin2F16 g d a b | .hmin2Bf16 g d a b | .hmax2F16 g d a b | .hmax2Bf16 g d a b | .packF16x2 g d a b | .packBf16x2 g d a b =>
    { aluShape g (.r d) [.r a, .r b] with round := true }
  | .hfma2F16 g d a b | .hfma2Bf16 g d a b => { aluShape g (.r d) [.r a, .r b] with round := true, xopnd := true }
  | .cvtToFloat g d a t s =>
    { aluShape g (.r d) [cvtOpnd s.toNat a] with round := true, ok := decide (t.toNat ≤ 4 ∧ s.toNat ≤ 12) }
  | .cvtToInt g d a t s =>
    { aluShape g (cvtOpnd t.toNat d) [.r a] with round := true, ok := decide (8 ≤ s.toNat ∧ s.toNat ≤ 12) }
  | .packE4m3x4 g d a | .packE5m2x4 g d a => { aluShape g (.r d) [.quad a] with round := true }
  | .packI8x4 g d a | .packN8x4 g d a => aluShape g (.r d) [.quad a]
  | .packI4x8 g d a | .packN4x8 g d a => aluShape g (.r d) [.oct a]
  | .unpack g d a t k =>
    { aluShape g (.r d) [.r a] with
      ok := decide (k.toNat < if t.toNat ≤ 1 then 2 else if t.toNat ≤ 5 then 4 else 8) }
  | .rcp g d a | .rsq g d a | .sqrt g d a =>
    { aluShape g (.r d) [.r a] with round := true, async := true, ok := voOk d || decide (d = 116#7) }
  | .ex2 g d a | .lg2 g d a | .sin g d a | .cos g d a =>
    { aluShape g (.r d) [.r a] with async := true, ok := voOk d || decide (d = 116#7) }
  | .rng4 g d a k =>
    { aluShape g (.quad d) [.quad a, .g k.toNat, .g (k.toNat + 1)] with ok := decide (k.toNat % 2 = 0) }
  | .shflRot g d a b | .shflXor g d a b | .shflUp g d a b | .shflDown g d a b | .gbcast g d a b =>
    { aluShape g (.r d) [.r a, .r b] with xopnd := true, whole := true }
  | .permset g n k =>
    { guard := some g, dsts := [.c n.toNat], srcs := (upto 6).map fun i => .g (k.toNat + i),
      ok := decide (n.toNat ≤ 7 ∧ k.toNat ≤ 58) }
  | .perm g d a c => { aluShape g (.r d) [.r a, .c c.toNat] with whole := true }
  | .red g d a _ => { aluShape g (.r d) [.r a] with xopnd := true, whole := true }
  | .scan g d a _ _ => { aluShape g (.r d) [.r a] with xopnd := true, whole := true }
  | .voteAny g p s | .voteAll g p s | .voteEq g p s =>
    { aluShape g (.p p.toNat) [.p s.toNat] with whole := true, ok := decide (p ≠ 0) }
  | .voteBallot g d s => { aluShape g (.pair d) [.p s.toNat] with whole := true }
  | .xgsend g a _ => { guard := some g, srcs := [.r a], whole := true, ok := voOk a }
  | .xgrecv g d _ => { guard := some g, dsts := [.r d], async := true, whole := true, ok := voOk d }
  | .ldg g d b z o =>
    { guard := some g, dsts := [sizedOpnd z d], srcs := [.pair b], async := true, imm := true, hint := true,
      ok := decide (z ≠ 7#3 ∧ d ≠ 116#7) && (decide (o = 0) || acqCode o) }
  | .stg g s b z o =>
    { guard := some g, srcs := [sizedOpnd z s, .pair b], imm := true, hint := true,
      ok := decide (z.toNat ≤ 4) && (decide (o = 0) || relCode o) }
  | .ldsp g d b z o =>
    { guard := some g, dsts := [sizedOpnd z d], srcs := [.r b], async := true, imm := true,
      ok := decide (z ≠ 7#3 ∧ d ≠ 116#7 ∧ o.toNat ≤ 1) }
  | .stsp g s b z o =>
    { guard := some g, srcs := [sizedOpnd z s, .r b], imm := true, ok := decide (z.toNat ≤ 4 ∧ (o = 0 ∨ o = 6#4)) }
  | .pfetch g b _ => { guard := some g, srcs := [.pair b], imm := true, hint := true }
  | .atomI32 g s b z _ | .atomN32 g s b z _ => atomShape g false false (decide (z = 7#3)) s b
  | .atomI64 g s b z _ | .atomN64 g s b z _ => atomShape g true false (decide (z = 7#3)) s b
  | .atomF32 g s b _ => atomShape g false false false s b
  | .atomrI32 g d b z _ | .atomrN32 g d b z _ => { atomShape g false true (decide (z = 7#3)) d b with ok := !isTemp d }
  | .atomrI64 g d b z _ | .atomrN64 g d b z _ => atomShape g true true (decide (z = 7#3)) d b
  | .atomrF32 g d b _ => { atomShape g false true false d b with ok := !isTemp d }
  | .qput g s _ l | .qputRemote g s _ l _ =>
    { guard := some g, srcs := [payloadOpnd l s], ok := decide (l ≠ 3#2) }
  | .qputNb g s p _ l x c =>
    { guard := some g, srcs := [payloadOpnd l s], dsts := [.p p.toNat],
      ok := decide (l ≠ 3#2 ∧ p ≠ 0 ∧ (x = 1#1 ∨ c = 0)) }
  | .qget g d _ l | .qpeek g d _ l =>
    { guard := some g, dsts := [payloadOpnd l d], async := true, ok := decide (l ≠ 3#2) && !isTemp d }
  | .qgetNb g d p _ l | .qpeekNb g d p _ l =>
    { guard := some g, dsts := [payloadOpnd l d, .p p.toNat], async := true,
      ok := decide (l ≠ 3#2 ∧ p ≠ 0) && !isTemp d }
  | .fence g o => { guard := some g, ok := decide (o ≠ 0) }
  | .fenceSc g o => { guard := some g, ok := decide (11 ≤ o.toNat) }
  | .wait g _ _ _ _ => { guard := some g, period := true }
  | .cwait g t b o => { guard := some g, srcs := [.pair t, .pair b], imm := true, period := true, ok := acqCode o }
  | .bar _ | .lbar _ => { period := true }
  | .xcpy g q c | .gate g q c =>
    { guard := some g, srcs := (upto 4).map (fun i => .g (q.toNat + i)) ++ [.g c.toNat], role := some .copy,
      ok := decide (q.toNat % 4 = 0 ∧ q.toNat ≤ 60 ∧ c.toNat ≤ 63) }
  | .gang g k =>
    { guard := some g, srcs := [.g k.toNat], role := some .matrix, whole := true, ok := decide (k.toNat ≤ 63) }
  | .mxfence => { role := some .matrix }
  | .mxop g d _ _ =>
    { guard := some g, srcs := (upto 4).map (fun i => .g (d.toNat + i)), role := some .matrix, whole := true,
      ok := decide (d.toNat % 4 = 0 ∧ d.toNat ≤ 60) }
  | .mxprog g d => { guard := some g, dsts := [.r d], role := some .matrix, ok := voOk d }
  | .mxprogClr g => { guard := some g, role := some .matrix, whole := true }
  | .amalloc g d n =>
    { guard := some g, dsts := [.r d], role := some .matrix, whole := true,
      ok := voOk d && decide (1 ≤ n.toNat ∧ n.toNat ≤ 32) }
  | .amfree g s n | .amzero g s n =>
    { guard := some g, srcs := [.r s], role := some .matrix, whole := true,
      ok := voOk s && decide (1 ≤ n.toNat ∧ n.toNat ≤ 32) }
  | .amrd g d a => { guard := some g, dsts := [.r d], srcs := [.r a], async := true, role := some .matrix, ok := voOk d && voOk a }
  | .amwr g s a => { guard := some g, srcs := [.r s, .r a], role := some .matrix, ok := voOk s && voOk a }
  | .tex g d a | .texL g d a | .texB g d a | .texG g d a | .texGather g d a =>
    { guard := some g, dsts := [.quad d, .p 7], srcs := [.oct a], async := true }
  | .texqMinlod g d a => { guard := some g, dsts := [.r d], srcs := [.quad a], async := true, ok := !isTemp d }
  | .texqSize g d a => { guard := some g, dsts := [.quad d], srcs := [.quad a], async := true }
  | .trace g d a => { guard := some g, dsts := [.quad d], srcs := [.oct a], async := true }
  | .traceAppend g k a => { guard := some g, srcs := [.r k, .oct a] }
  | .ocenter g k => { guard := some g, srcs := [.r k], frag := true, period := true }
  | .ocleave g | .ocskip g => { guard := some g, frag := true }
  | .flset g k c => { guard := some g, srcs := [.r k, .r c] }
  | .flins g k q => { guard := some g, srcs := [.r k, .quad q] }
  | .flwalk g d a => { guard := some g, dsts := [.quad d], srcs := [.pair a], async := true }
  | .pixout g s t => { guard := some g, srcs := [.quad s], frag := true, ok := decide (t.toNat ≤ 7) }
  | .interp g d _ _ => { guard := some g, dsts := [.r d], frag := true, ok := decide (d ≠ 116#7) }
  | .discard g => { guard := some g, frag := true, period := true }
  | .bra g _ | .call g _ => { guard := some g, period := true }
  | .brx g _ a _ => { guard := some g, srcs := [.r a], imm := true, period := true }
  | .callx g a => { guard := some g, srcs := [.pair a], period := true }
  | .ret g | .exit g => { guard := some g, period := true }
  | .nop g | .yield g => { guard := some g }
  | .land _ => { sched := false }
  | .period x y z =>
    { srcs := [.name x, .name y, .name z], sched := false,
      ok := (voOk x || decide (x = 116#7)) && (voOk y || decide (y = 116#7)) && (voOk z || decide (z = 116#7)) }
  | .trap g _ | .bkpt g => { guard := some g }
  | .tret | .ctxyield => { period := true }
  | .srd g d s => { guard := some g, dsts := [srOpnd s d], ok := (srInfo s.toNat).isSome }
  | .swr g a s => { guard := some g, srcs := [srOpnd s a], ok := ((srInfo s.toNat).map (·.2)).getD false }
  | .dtime g d a => { guard := some g, dsts := [.pair d], srcs := [.pair a] }
  | .lblr g d a => { guard := some g, dsts := [.r d], srcs := [.name a], ok := !decide (116 ≤ a.toNat ∧ a.toNat ≤ 119) }
  | .lblraise g t a =>
    { guard := some g, srcs := [.name t, .r a], ok := !decide (117 ≤ t.toNat ∧ t.toNat ≤ 119) }
  | .advImm _ | .advRound _ _ _ | .advSched _ _ => { sched := false }
  | .advMemhint l _ => { sched := false, ok := decide (l.toNat ≤ 9) }
  | .advXopnd r => { sched := false, srcs := [.name r] }
  | .bundlePick _ _
  | .parkedGroupExecute _ _
  | .threadReady _
  | .loadValueArrival _
  | .specialFunctionResult _
  | .homeFetch _
  | .homeWrite _
  | .writeCompletionReturn _
  | .heldReleaseStoreSend _
  | .pinForcedRelease _ _
  | .refusedAccessRetry _
  | .atomicEngineService _ _
  | .deferredRefusal _
  | .waitSatisfied _
  | .fenceCompletion _
  | .cwaitSatisfied _
  | .dtimeWaitEnd _
  | .barrierCompletion _ _
  | .levelBarrierCompletion _ _ _
  | .xgsendSlotFill _ _
  | .xgrecvDelivery _ _
  | .ringPutSlotHandout _ _
  | .ringClaimService _ _
  | .qpeekClaimService _ _
  | .remotePutArrival _
  | .creditReportArrival _
  | .notifyWordWrite _ _
  | .copyStatusWrite _ _
  | .copyCommandStart _
  | .copyUnitWrite _
  | .copyCompletion _
  | .gateDecision _
  | .mxopHostStart _ _
  | .mxopPromotion _ _
  | .amBankRelease _ _
  | .listInsertStep _
  | .ocenterEntry _
  | .doorbellWrite _ _
  | .queuePoll _ _
  | .queueDescriptorWrite _ _ _ _
  | .eventSetWrite _ _ _
  | .eventClearWrite _ _ _
  | .workgroupPlacement _ _ _
  | .placementReservation _
  | .workgroupEnd _
  | .causeSummaryWrite _ _
  | .rasterBin _
  | .fragmentLaunch _ _ _
  | .fragmentOutput _ _
  | .resolveLaunch _ _ _
  | .tileStore _ _
  | .sliceEnd _
  | .preemptWrite _ _
  | .coopPreemptTrap _
  | .preemptBudgetExpiry _
  | .reducedSave _
  | .contextRestore _
  | .preemptWatchdog _
  | .slotPositionService _
  | .checkpointCommit _
  | .rollback _
  | .pairCompare _
  | .pairIntervalLimit _
  | .partitionReset _
  | .migrationHalving _
  | .migrationControlWrite _ _
  | .pageMigration _
  | .pageFree _
  | .scrubFrame _
  | .bar2Read _ _ _
  | .bar2Write _ _ _ _
  | .counterBlockWrite _ _
  | .pfCounterWrite _
  | .registerWrite _ _ _
  | .writePartitionRecord _ _ _ _
  | .bindVf _ _ _
  | .writeBankOwnerTable _ _ _ _ _
  | .setUpLabelDomain _ _ _ _ _
  | .installPolicy _ _ _ _
  | .removePolicy _ _ _
  | .readBudget _ _ _
  | .unmap _ _
  | .migrate _ _ _ _
  | .setNrNw _ _ _ _
  | .harvestDirtyBits _ _ _ _
  | .resetPartition _ _
  | .attest _ _ _
  | .replyToFaultEvent _ _ _
  | .enterPl4 _
  | .mailboxUnknownOpcode _ _
  | .flitArrival _ _ _ _ _ _
  | .portTrainDown _
  | .powerOnBoot _ _ _ _
  | .idlePowerEntry _
  | .powerStateExit _
  | .pcieWake _
  | .powerWindow _
  | .junctionTemperature _
  | .illegalEncoding _
  | .faultEventRingRoom _
  | .linkRetrain _ => { word := false }

/-- A source operand is encoded legally (R10, R11). -/
def srcOk : Opnd → Bool
  | .pair f => pairOk f
  | .quad f => quadOk f
  | .oct f => octOk f
  | .r _ | .g _ | .c _ | .p _ | .name _ => true

/-- A destination operand is encoded legally: 117 to 119 are not writable (R10). -/
def dstOk : Opnd → Bool
  | .r f => !decide (117 ≤ f.toNat ∧ f.toNat ≤ 119)
  | .pair f => pairOk f
  | .quad f => quadOk f
  | .oct f => octOk f
  | .g _ | .c _ | .p _ | .name _ => true

/-- A temporary as an operand: no destination of a result that arrives later (R46). -/
def tempOpnd : Opnd → Bool
  | .r f => isTemp f
  | _ => false

/-- The operand encodings of a word are legal; otherwise it raises cause 0x01 (R30). -/
def legal (i : Instr) : Bool :=
  let s := shape i
  s.ok && (match s.guard with | some g => guardOk g | none => true) && s.srcs.all srcOk && s.dsts.all dstOk &&
  !(s.async && s.dsts.any tempOpnd)

/-- The register fields an operand names, with those a pair, quad or octet implies (R11, R13). -/
def fieldsOf : Opnd → List Nat
  | .r f | .name f => [f.toNat]
  | .pair f => if f.toNat = 116 then [116] else [f.toNat, f.toNat + 1]
  | .quad f => (upto 4).map (f.toNat + ·)
  | .oct f => (upto 8).map (f.toNat + ·)
  | .g _ | .c _ | .p _ => []

/-- The fields of a word lie in the role's allotment (R13). -/
def allotOk (vregs oregs : Nat) (f : Nat) : Bool :=
  if f < 96 then decide (f < vregs) else if f < 112 then decide (f - 96 < oregs) else true

/-- An adverb word. -/
def isAdverb : Instr → Bool
  | .advImm _ | .advRound _ _ _ | .advMemhint _ _ | .advXopnd _ | .advSched _ _ => true
  | _ => false

/-- The instruction accepts the adverb (R22 to R24). For a 64-bit cas the fourth operand is a pair (R168, R193). -/
def accepts (i : Instr) : Instr → Bool
  | .advImm _ => (shape i).imm
  | .advRound _ _ _ => (shape i).round
  | .advMemhint _ _ => (shape i).hint
  | .advXopnd _ => (shape i).xopnd
  | .advSched _ _ => (shape i).sched && (shape i).word
  | _ => false

end Sys2Proof.Machine
end

