-- ==== Sys2Proof/Machine/Ops.lean ====
section
/-! DEFINITION. The named operations over the state: records by number, registers, labels, translation, pages, fault
events, counters, and taking and returning from a trap. -/

namespace Sys2Proof.Machine

/-- What a step answers. -/
abbrev Out := Host.Outcome State Fault Refusal

/-- A number as a 64-bit word. -/
abbrev d64 (n : Nat) : DWord := BitVec.ofNat 64 n

/-- A number as a register word. -/
abbrev w32 (n : Nat) : Word := BitVec.ofNat 32 n

/-- The group of a thread. -/
def gidOf (tid : Nat) : Nat := tid / 64

/-- The workgroup of a thread. -/
def wgOf (tid : Nat) : Nat := tid / 1024

/-- The lane of a thread in its group (R10). -/
def laneOf (tid : Nat) : Nat := tid % 64

/-- The thread index within the workgroup (R10, R256). -/
def tixOf (tid : Nat) : Nat := tid % 1024

/-- A thread. -/
def State.thr (s : State) (tid : Nat) : Thread := (tfind s.threads tid).getD {}
/-- A group. -/
def State.grp (s : State) (gid : Nat) : Group := (tfind s.groups gid).getD {}
/-- A workgroup. -/
def State.wg (s : State) (w : Nat) : Workgroup := (tfind s.wgs w).getD {}
/-- A compute unit. -/
def State.cu (s : State) (c : Nat) : Cu := (tfind s.cus c).getD {}
/-- A core. -/
def State.core (s : State) (c : Nat) : Core := (tfind s.cores c).getD {}
/-- A context. -/
def State.ctx (s : State) (vf : Nat) : Context := (tfind s.ctxs vf).getD {}
/-- A partition. -/
def State.part (s : State) (p : Nat) : Partition := (tfind s.parts p).getD {}
/-- A launch. -/
def State.launch (s : State) (l : Nat) : Launch := (tfind s.launches l).getD {}
/-- A pass. -/
def State.pass? (s : State) (p : Nat) : Option Pass := tfind s.passes p
/-- A page entry. -/
def State.page (s : State) (ia : Nat) : Page := (tfind s.pages (ia / 65536)).getD {}
/-- A channel. -/
def State.channel (s : State) (c : Nat) : Channel := (tfind s.channels c).getD {}

/-- Change a thread. -/
def State.modThr (s : State) (tid : Nat) (f : Thread → Thread) : State := { s with threads := tmod s.threads tid f }
/-- Change a group. -/
def State.modGrp (s : State) (gid : Nat) (f : Group → Group) : State := { s with groups := tmod s.groups gid f }
/-- Change a workgroup. -/
def State.modWg (s : State) (w : Nat) (f : Workgroup → Workgroup) : State := { s with wgs := tmod s.wgs w f }
/-- Change a workgroup's checkpointed part. -/
def State.modMem (s : State) (w : Nat) (f : WgMem → WgMem) : State := s.modWg w fun x => { x with mem := f x.mem }
/-- Change a compute unit. -/
def State.modCu (s : State) (c : Nat) (f : Cu → Cu) : State := { s with cus := tput s.cus c (f (s.cu c)) }
/-- Change a core. -/
def State.modCore (s : State) (c : Nat) (f : Core → Core) : State := { s with cores := tput s.cores c (f (s.core c)) }
/-- Change a context. -/
def State.modCtx (s : State) (v : Nat) (f : Context → Context) : State := { s with ctxs := tput s.ctxs v (f (s.ctx v)) }
/-- Change a partition. -/
def State.modPart (s : State) (p : Nat) (f : Partition → Partition) : State :=
  { s with parts := tput s.parts p (f (s.part p)) }
/-- Change a launch. -/
def State.modLaunch (s : State) (l : Nat) (f : Launch → Launch) : State := { s with launches := tmod s.launches l f }
/-- Change a pass. -/
def State.modPass (s : State) (p : Nat) (f : Pass → Pass) : State := { s with passes := tmod s.passes p f }
/-- Change an access in flight. -/
def State.modAcc (s : State) (a : Nat) (f : Access → Access) : State := { s with accs := tmod s.accs a f }
/-- Remove an access. -/
def State.delAcc (s : State) (a : Nat) : State := { s with accs := tdel s.accs a }
/-- Change a bundle. -/
def State.modBundle (s : State) (p : Nat) (f : Bundle → Bundle) : State := { s with pipes := tmod s.pipes p f }
/-- Change a page entry: the 32 of a 2 MiB page are kept alike but for the frame (R353). -/
def State.modPage (s : State) (ia : Nat) (f : Page → Page) : State :=
  let p := f (s.page ia)
  if p.lg then
    { s with pages := (List.range 32).foldl (fun m i =>
        let k := ia / 65536 / 32 * 32 + i
        tput m k { p with frame := if k = ia / 65536 then p.frame else ((tfind m k).getD {}).frame }) s.pages }
  else { s with pages := tput s.pages (ia / 65536) p }
/-- Change the package. -/
def State.modPkg (s : State) (f : Package → Package) : State := { s with pkg := f s.pkg }
/-- Change a ring of a workgroup. -/
def State.modRing (s : State) (w r : Nat) (f : Ring → Ring) : State :=
  s.modMem w fun m => { m with rings := tmod m.rings r f }
/-- A ring of a workgroup. -/
def State.ring (s : State) (w r : Nat) : Ring := (tfind (s.wg w).mem.rings r).getD {}

/-- Add a new access, numbered. -/
def State.addAcc (s : State) (a : Access) : State :=
  { s with accs := tput s.accs s.fresh { a with arrival := s.fresh }, fresh := s.fresh + 1 }

/-- The launch of a workgroup. -/
def State.launchOf (s : State) (w : Nat) : Launch := s.launch (s.wg w).launch
/-- The VF of a workgroup. -/
def State.vfOf (s : State) (w : Nat) : Nat := (s.launchOf w).vf
/-- The compute unit of a thread, as core * 8 + index. -/
def State.cidOf (s : State) (tid : Nat) : Nat := (s.wg (wgOf tid)).cid
/-- The partition of a VF (R401). -/
def State.partOf (s : State) (vf : Nat) : Nat := bits (s.ctx vf).binding.toNat 56 5

/-- A workgroup whose context is not resident, or whose CU has saved it: its work stands still (R402, R407, R409). -/
def frozenWg (s : State) (w : Nat) : Bool :=
  let g := s.wg w
  (tfind s.wgs w).isSome && !g.ended && (!(s.ctx (s.vfOf w)).resident || (s.cu g.cid).save.saved)

/-- A thread has not exited. -/
def alive (t : Thread) : Bool := decide (t.picker ≠ .exited)

/-- The live threads of a group, in lane order. -/
def liveOf (s : State) (gid : Nat) : List Nat :=
  (s.threads.filter fun e => decide (e.1 / 64 = gid) && alive e.2).map (·.1)

/-- The live threads of a workgroup, in (gi, lane) order. -/
def liveWg (s : State) (w : Nat) : List Nat :=
  (s.threads.filter fun e => decide (e.1 / 1024 = w) && alive e.2).map (·.1)

/-- The threads named hold every live thread of the group (R50, R54). -/
def holdsGroup (s : State) (tids : List Nat) (gid : Nat) : Bool := (liveOf s gid).all (tids.contains ·)

/-- Without repeats. -/
def dedup (l : List Nat) : List Nat := l.foldl (fun r x => if r.contains x then r else r ++ [x]) []

/-- Sort numbers ascending. -/
def insertNat (x : Nat) : List Nat → List Nat
  | [] => [x]
  | y :: r => if x ≤ y then x :: y :: r else y :: insertNat x r
/-- Sort numbers ascending. -/
def sortNat (l : List Nat) : List Nat := l.foldr insertNat []

/-- The groups of a list of threads, ascending. -/
def groupsOf (tids : List Nat) : List Nat := sortNat (dedup (tids.map gidOf))

/-- The OR of labels. -/
def orAll (l : List Label) : Label := l.foldl (· ||| ·) 0

/-- The smallest number of a list. -/
def minOf : List Nat → Option Nat
  | [] => none
  | x :: r => match minOf r with
    | none => some x
    | some y => some (if x ≤ y then x else y)

/-- Lexicographic order of keys. -/
def keyBefore : List Nat → List Nat → Bool
  | a :: r, b :: q => decide (a < b) || (decide (a = b) && keyBefore r q)
  | [], _ :: _ => true
  | _, [] => false

/-! Registers (R10, R41, R72). -/

/-- A register field as a lane reads it (R10). -/
def readReg (s : State) (tid f : Nat) : Cell :=
  if f < 116 then sget {} (s.thr tid).regs f
  else if f = 116 then {}
  else if f = 117 then { val := w32 (laneOf tid) }
  else if f = 118 then { val := w32 (tixOf tid) }
  else if f = 119 then { val := w32 (s.wg (wgOf tid)).index }
  else
    let g := sget {} (s.grp (gidOf tid)).g (f - 120)
    { val := g.val.truncate 32, poison := g.plo }

/-- A group register (R41). -/
def readG (s : State) (gid k : Nat) : GCell := sget {} (s.grp gid).g k

/-- A predicate: p0 reads true (R49). -/
def readPred (s : State) (tid p : Nat) : PCell := if p = 0 then { val := true } else sget {} (s.thr tid).preds p

/-- The two halves of a group register as words. -/
def gCells (g : GCell) : List Cell := [{ val := g.val.truncate 32, poison := g.plo }, { val := (g.val >>> 32).truncate 32, poison := g.phi }]

/-- The words an operand holds in a lane. -/
def readOpnd (s : State) (tid : Nat) : Opnd → List Cell
  | .r f => [readReg s tid f.toNat]
  | .pair f => if f.toNat = 116 then [{}, {}] else [readReg s tid f.toNat, readReg s tid (f.toNat + 1)]
  | .quad f => (upto 4).map fun i => readReg s tid (f.toNat + i)
  | .oct f => (upto 8).map fun i => readReg s tid (f.toNat + i)
  | .g k => gCells (readG s (gidOf tid) k)
  | .c k => [{ poison := (sget ({} : CCell) (s.grp (gidOf tid)).c k).poison }]
  | .p k => let p := readPred s tid k; [{ val := if p.val then 1 else 0, poison := p.poison }]
  | .name _ => []

/-- The value of words, least significant first. -/
def wordsVal : List Cell → Nat
  | [] => 0
  | c :: r => c.val.toNat + 2 ^ 32 * wordsVal r

/-- Some word is poisoned. -/
def anyPoison (l : List Cell) : Bool := l.any (·.poison)

/-- The words of a number. -/
def cellsOf (v : Nat) (poison : Bool) : Nat → List Cell
  | 0 => []
  | n + 1 => { val := w32 v, poison := poison } :: cellsOf (v / 2 ^ 32) poison n

/-- The label of a register field: constants read with label 0 (R41). -/
def fieldLabel (s : State) (gid f : Nat) : Label :=
  if f < 116 then sget 0 (s.grp gid).lreg f else if f < 120 then 0 else sget 0 (s.grp gid).lg (f - 120)

/-- The label of a predicate: p0 reads with label 0 (R49). -/
def predLabel (s : State) (gid p : Nat) : Label := if p = 0 then 0 else sget 0 (s.grp gid).lpred p

/-- The label of an operand: the OR over its registers (R41, R44). -/
def opndLabel (s : State) (gid : Nat) : Opnd → Label
  | .g k => sget 0 (s.grp gid).lg k
  | .c k => sget 0 (s.grp gid).lc k
  | .p k => predLabel s gid k
  | .name _ => 0
  | o => orAll ((fieldsOf o).map (fieldLabel s gid))

/-- Set or raise a label (R54). -/
def putLabel (set : Bool) (m : Table Label) (k : Nat) (l : Label) : Table Label :=
  sset 0 m k (if set then l else sget 0 m k ||| l)

/-- Set or raise the labels of a destination (R54). A write to z sets none. -/
def labelOpnd (set : Bool) (l : Label) (o : Opnd) (g : Group) : Group :=
  match o with
  | .g k => { g with lg := putLabel set g.lg k l }
  | .c k => { g with lc := putLabel set g.lc k l }
  | .p k => { g with lpred := putLabel set g.lpred k l }
  | .name _ => g
  | o => forEach g (fieldsOf o) fun g f =>
      if f < 116 then { g with lreg := putLabel set g.lreg f l }
      else if f < 120 then g
      else { g with lg := putLabel set g.lg (f - 120) l }

/-- Write a v-, o- or t-register of a lane: a temporary's written bit is set (R45), z discards (R10). -/
def writeField (t : Thread) (f : Nat) (c : Cell) : Thread :=
  if f < 112 then { t with regs := sset {} t.regs f c }
  else if f < 116 then { t with regs := sset {} t.regs f c, written := t.written ||| (1#4 <<< (f - 112)) }
  else t

/-- A lane's words to a destination of per-lane registers; a predicate takes bit 0. -/
def writeOpnd (t : Thread) (o : Opnd) (cs : List Cell) : Thread :=
  match o with
  | .p k => match cs with
    | c :: _ => { t with preds := sset {} t.preds k { val := decide (c.val ≠ 0), poison := c.poison } }
    | [] => t
  | .g _ | .c _ | .name _ => t
  | o => forEach t ((fieldsOf o).zip cs) fun t fc => writeField t fc.1 fc.2

/-- A thread that takes poison for the first time keeps the PC (R414). -/
def notePoison (p : Bool) (pc : DWord) (t : Thread) : Thread :=
  if p && decide (t.dpc = 0) then { t with dpc := pc } else t

/-- The destination is a group register by field value 120 to 127 (R10), by number. -/
def gDest : Opnd → Option Nat
  | .r f => if 120 ≤ f.toNat then some (f.toNat - 120) else none
  | .g k => some k
  | _ => none

/-! Scoreboard (R47). -/

/-- The scoreboard bit of a v- or o-register. -/
def sbBit (t : Thread) (f : Nat) : Bool := sget false t.sb f

/-- Set the scoreboard bits of fields. -/
def sbSet (fs : List Nat) (t : Thread) : Thread :=
  { t with sb := fs.foldl (fun m f => if f < 112 then sset false m f true else m) t.sb }

/-- Clear the scoreboard bits of fields. -/
def sbClear (fs : List Nat) (t : Thread) : Thread := { t with sb := fs.foldl (fun m f => sset false m f false) t.sb }

/-! Translation (R350, R351) and pages (R353, R354). -/

/-- Word i of a range register. -/
def rangeWord (r : List DWord) (i : Nat) : Nat := ((r[i]?).getD 0).toNat

/-- The range matches a VA (R351). -/
def rangeHit (r : List DWord) (va : Nat) : Bool :=
  bit (rangeWord r 3) 63 && decide (bits (rangeWord r 0) 16 32 ≤ bits va 16 32) && decide (bits va 16 32 ≤ bits (rangeWord r 1) 16 32)

/-- The lowest-numbered range that matches a VA, in a list of ranges. -/
def rangeFind (va : Nat) : Table (List DWord) → Option (Nat × List DWord)
  | [] => none
  | (k, r) :: rest => if rangeHit r va then some (k, r) else rangeFind va rest

/-- The range of a VA; bits 63..48 must be zero (R12). -/
def rangeOf (s : State) (vf : Nat) (va : DWord) : Option (Nat × List DWord) :=
  if va.toNat < 2 ^ 48 then rangeFind va.toNat (s.ctx vf).ranges else none

/-- The IA of a VA in a range (R351). -/
def iaOf (r : List DWord) (va : DWord) : Nat :=
  (bits (rangeWord r 2) 16 36 * 65536 + (va.toNat - bits (rangeWord r 0) 16 32 * 65536)) % 2 ^ 52

/-- Read permission. -/
def permR (r : List DWord) : Bool := bit (rangeWord r 3) 62
/-- Write permission. -/
def permW (r : List DWord) : Bool := bit (rangeWord r 3) 61
/-- Execute permission: a code range (R32). -/
def permX (r : List DWord) : Bool := bit (rangeWord r 3) 60
/-- The store a range reaches (R350). -/
def spaceOf (r : List DWord) : Space :=
  match bits (rangeWord r 3) 58 2 with
  | 0 => .mem
  | 1 => .host
  | _ => .foreign
/-- The principal of a host or foreign range. -/
def prinOf (r : List DWord) : Nat := bits (rangeWord r 3) 52 4
/-- The label of data read from a host or foreign range. -/
def inlabelOf (r : List DWord) : Label := BitVec.ofNat 16 (rangeWord r 3)
/-- The placement of a memory range. -/
def placeOf (r : List DWord) : Nat := bits (rangeWord r 3) 56 2

/-- What an access needs of its range (R150). -/
structure Need where
  rd : Bool := false
  wr : Bool := false
  ex : Bool := false
  deriving DecidableEq, Repr

/-- A range gives the permissions needed; a write never reaches a code range (R32). -/
def permits (n : Need) (r : List DWord) : Bool :=
  (!n.rd || permR r) && (!n.wr || (permW r && !permX r)) && (!n.ex || permX r)

/-- The cause an access of w bytes is refused with at issue: 3 or 4 (R150). -/
def spanCause (s : State) (vf : Nat) (va : DWord) (w : Nat) (n : Need) : Option Nat :=
  match rangeOf s vf va, rangeOf s vf (va + d64 (w - 1)) with
  | some (_, r), some (_, r') => if permits n r && permits n r' then none else some 4
  | _, _ => some 3

/-- The bytes of a store. -/
def State.store (s : State) : Space → Table Byte
  | .mem => s.mem
  | .host => s.hostMem
  | .foreign => s.foreignMem

/-- Replace the bytes of a store. -/
def State.setStore (s : State) (sp : Space) (m : Table Byte) : State :=
  match sp with
  | .mem => { s with mem := m }
  | .host => { s with hostMem := m }
  | .foreign => { s with foreignMem := m }

/-- A grain failed uncorrectably or carries a marker (R412, R413). -/
def grainBad (g : Grain) : Bool :=
  match g with
  | .good | .correctable => false
  | .marker | .uncorrectable | .badTag => true

/-- No Basor port is left over which a page on another device can be reached (R452). -/
def linkDown (s : State) (ia : Nat) : Bool :=
  let p := s.page ia
  decide (p.tier = 1#2) && decide (bits (s.part p.part).w0.toNat 32 16 &&& (0xFFFF - s.pkg.portsDown.toNat) = 0)

/-- A byte of global memory lies in a failed grain or sector, or cannot be reached. -/
def byteBad (s : State) (ia : Nat) : Bool :=
  grainBad (sget .good s.grains (ia / 8)) || grainBad (sget .good s.sectors (ia / 64)) || linkDown s ia

/-- Some byte of a span is bad. -/
def spanBad (s : State) (sp : Space) (ia n : Nat) : Bool :=
  decide (sp = .mem) && (upto n).any fun i => byteBad s (ia + i)

/-- A store that covers a whole marked grain or sector clears it (R413). -/
def clearMarks (s : State) (ia n : Nat) : State :=
  { s with
    grains := (upto n).foldl (fun m i =>
      let a := ia + i
      if a % 8 = 0 ∧ i + 8 ≤ n then sset .good m (a / 8) .good else m) s.grains
    sectors := (upto n).foldl (fun m i =>
      let a := ia + i
      if a % 64 = 0 ∧ i + 64 ≤ n then sset .good m (a / 64) .good else m) s.sectors }

/-- Frames of a bank cell: 192 GB over the 16 banks of 192 channels, in whole 64 KiB frames (R2, R403). That the cells are of equal
size, and that frame 1024 c + i is the i-th of cell c, is the model's choice (DESIGN CHOICE, log entry 17). -/
def cellFrames : Nat := 953

/-- The bank cells of this device that a partition owns: channel 16 times, and bank (R403). -/
def ownedCells (s : State) (part : Nat) : List Nat :=
  (s.channels.map fun c => (c.2.owners.filter fun b => b.2.getLsbD 5 && decide (bits b.2.toNat 0 5 = part)).map fun b => 16 * c.1 + b.1).flatten

/-- The pools a partition's frames of a tier come from: the cells it owns, or its pool of another device or tier (R354). -/
def poolKeys (s : State) (part tier : Nat) (dev : Option (BitVec 6)) : List PoolKey :=
  match tier, dev with
  | 2, _ => [.cxl part]
  | 3, _ => [.host part]
  | _, some d => [.peer part d]
  | _, none => (ownedCells s part).map .cell

/-- Frames of a pool; those of other devices, of the CXL tier and of host memory are not in the spec (free values, log entry 17). -/
def poolSize : PoolKey → Nat
  | .cell _ => cellFrames
  | .peer p d => Config.peerFrames p d.toNat
  | .cxl p => Config.tierFrames 2 p
  | .host p => Config.tierFrames 3 p

/-- A pool. -/
def State.pool (s : State) (k : PoolKey) : Pool := ((s.pkg.pools.find? fun e => decide (e.1 = k)).map (·.2)).getD {}

/-- Replace a pool. -/
def State.setPool (s : State) (k : PoolKey) (p : Pool) : State :=
  s.modPkg fun g => { g with pools := (k, p) :: g.pools.filter fun e => decide (e.1 ≠ k) }

/-- The free frames of a pool: those given back, and those not taken yet. -/
def poolFree (s : State) (k : PoolKey) : Nat := (s.pool k).back.length + (poolSize k - (s.pool k).next)

/-- Frames of a partition's own cells that the save areas of its contexts hold: 1 245 184 bytes, 19 frames, for each CU (R410). That a
context is created when its VF is bound is the model's reading (DEDUCED, log entry 90). -/
def saveFrames (s : State) (part : Nat) : Nat :=
  let cores := (List.range 32).filter fun c => bit (s.part part).w0.toNat c && s.pkg.enabledCores.getLsbD c
  let vfs := s.ctxs.filter fun e => bit e.2.binding.toNat 63 && decide (s.partOf e.1 = part)
  19 * 8 * cores.length * vfs.length

/-- A partition has n free frames of a tier, in its own cells beside those of its save areas (R354, R410). -/
def hasFrames (s : State) (part tier : Nat) (dev : Option (BitVec 6)) (n : Nat) : Bool :=
  let ks := poolKeys s part tier dev
  let kept := if tier = 2 ∨ tier = 3 ∨ dev.isSome then 0 else saveFrames s part
  decide (kept + n ≤ ks.foldl (fun m k => m + poolFree s k) 0)

/-- A partition has a free frame of a tier. -/
def hasFrame (s : State) (part tier : Nat) (dev : Option (BitVec 6)) : Bool := hasFrames s part tier dev 1

/-- The frame address of frame i of a pool. -/
def frameAddr (k : PoolKey) (i : Nat) : Nat := match k with | .cell c => 1024 * c + i | _ => i

/-- Take a frame of one pool: one given back, else the next. -/
def takeOf (s : State) (k : PoolKey) : Option (State × Nat) :=
  let p := s.pool k
  match p.back with
  | f :: r => some (s.setPool k { p with back := r }, frameAddr k f)
  | [] => if p.next < poolSize k then some (s.setPool k { p with next := p.next + 1 }, frameAddr k p.next) else none

/-- Take a frame of a partition in a tier: of the first of its pools that has one (R354). -/
def takeFrame (s : State) (part tier : Nat) (dev : Option (BitVec 6)) : Option (State × Nat) :=
  if hasFrame s part tier dev then (poolKeys s part tier dev).findSome? (takeOf s) else none

/-- Frame i of a pool is free. -/
def frameFree (s : State) (k : PoolKey) (i : Nat) : Bool := (s.pool k).back.contains i || (decide ((s.pool k).next ≤ i) && decide (i < poolSize k))

/-- The aligned runs of 32 frames that may be free in a pool: those of the frames given back, and the first past the frames taken. -/
def largeRuns (s : State) (k : PoolKey) : List Nat :=
  (dedup ((s.pool k).back.map fun i => i / 32 * 32) ++ [((s.pool k).next + 31) / 32 * 32]).filter fun b =>
    (List.range 32).all fun i => frameFree s k (b + i)

/-- Take an aligned run of 32 free frames of one pool: the frame of a 2 MiB page (R354). -/
def takeRun (s : State) (k : PoolKey) : Option (State × Nat) :=
  (largeRuns s k).head?.map fun b =>
    let p := s.pool k
    let next := max p.next (b + 32)
    let passed := ((List.range (next - p.next)).map (p.next + ·)).filter fun i => decide (i < b)
    (s.setPool k { next := next, back := (p.back.filter fun i => !decide (b ≤ i ∧ i < b + 32)) ++ passed }, frameAddr k b)

/-- Take a 2 MiB frame of a partition in a tier. -/
def takeLarge (s : State) (part tier : Nat) (dev : Option (BitVec 6)) : Option (State × Nat) :=
  if hasFrames s part tier dev 32 then (poolKeys s part tier dev).findSome? (takeRun s) else none

/-- The tiers a page of a placement may be backed from, in order (R354). -/
def tiersOf (place : Nat) : List Nat := if place = 0 then [0, 2, 3] else if place = 1 then [2, 3] else [3]

/-- The range asks for 2 MiB pages and covers the whole block of an IA, none of which is backed (R354). -/
def wantsLarge (s : State) (r : List DWord) (ia : Nat) : Bool :=
  let b := ia / 2097152 * 2097152
  bit (rangeWord r 3) 51 && decide (bits (rangeWord r 2) 16 36 * 65536 ≤ b) &&
  decide (b + 2097152 ≤ bits (rangeWord r 2) 16 36 * 65536 + (bits (rangeWord r 1) 16 32 + 1 - bits (rangeWord r 0) 16 32) * 65536) &&
  (List.range 32).all fun i => !(s.page (b + 65536 * i)).b

/-- A page entry backed by a frame that this device holds or reaches; whether frames are encrypted is not stated (R353; free value, log
entry 67). -/
def backed (part tier frame : Nat) (lg : Bool) (p : Page) : Page :=
  { p with b := true, lg := lg, tier := BitVec.ofNat 2 tier, dev := none, frame := BitVec.ofNat 32 frame, enc := Config.encrypted part, part := part, posted := false }

/-- The pages of a 2 MiB block are backed by one frame. -/
def backBlock (s : State) (part tier f ia : Nat) : State :=
  let b := ia / 65536 / 32 * 32
  { s with pages := (List.range 32).foldl (fun m i => tput m (b + i) (backed part tier (f + i) true ((tfind m (b + i)).getD {}))) s.pages }

/-- Back an unbacked page at first touch, from the first tier that has a frame: a 2 MiB one where it is asked for and there is one
(R354); none when every pool is empty (R355). -/
def backPage (s : State) (part : Nat) (r : List DWord) (ia : Nat) : Option State :=
  if (s.page ia).b then some s
  else ((tiersOf (placeOf r)).find? fun t => hasFrame s part t none).bind fun t =>
    match if wantsLarge s r ia then takeLarge s part t none else none with
    | some (s', f) => some (backBlock s' part t f ia)
    | none => (takeFrame s part t none).map fun x => x.1.modPage ia (backed part t x.2 false)

/-! Counters, causes and fault events (R348, R426, R431, R446 to R448). -/

/-- Add 1 to a field of a counter word, saturating (R426). -/
def satField (v : DWord) (lo n : Nat) : DWord :=
  if bits v.toNat lo n = 2 ^ n - 1 then v else v + d64 (2 ^ lo)

/-- Advance a VF counter field (R431). -/
def countVf (s : State) (vf word lo n : Nat) : State :=
  s.modCtx vf fun c => { c with counters := sset 0 c.counters word (satField (sget 0 c.counters word) lo n) }

/-- Poison consumptions. -/
def countCons (s : State) (vf : Nat) : State := countVf s vf 1 0 32
/-- Pipeline errors. -/
def countPipe (s : State) (vf : Nat) : State := countVf s vf 2 32 32
/-- Rollbacks. -/
def countRback (s : State) (vf : Nat) : State := countVf s vf 2 0 32
/-- Uncorrectable and media errors. -/
def countMedia (s : State) (vf : Nat) : State := countVf s vf 0 0 32
/-- Corrected errors. -/
def countCorr (s : State) (vf : Nat) : State := countVf s vf 0 32 32

/-- The entries with the event counted, or the event added while fewer than 32 are used (R348). -/
def addCause (e : CauseEntry) : List CauseEntry → Option (List CauseEntry)
  | [] => none
  | x :: r =>
    if x.code = e.code ∧ x.queue = e.queue ∧ x.seq = e.seq ∧ x.pc = e.pc then
      some ({ x with count := if x.count = 0xFFFFFFFF then x.count else x.count + 1 } :: r)
    else (addCause e r).map (x :: ·)

/-- Write a determinism cause (R348, R349). -/
def detCause (s : State) (l : Nat) (code : Nat) (pc : DWord) : State :=
  let la := s.launch l
  let e : CauseEntry := { code := code, queue := la.queue, seq := la.seq % 65536, pc := pc, count := 1 }
  s.modCtx la.vf fun c =>
    match addCause e c.causes with
    | some l => { c with causes := l }
    | none => if c.causes.length < 32 then { c with causes := c.causes ++ [e] } else { c with causeOvf := true }

/-- Write a determinism cause of a deterministic launch only. -/
def detCauseIf (s : State) (l : Nat) (code : Nat) (pc : DWord) : State :=
  if (s.launch l).det then detCause s l code pc else s

/-- The words of a fault-event entry (R446). -/
def eventBytes (e : FaultEvent) (seq : Nat) (mark : Bool) : List Byte :=
  leBytes (e.type + e.cause * 2 ^ 8 + e.vf * 2 ^ 16 + seq % 2 ^ 32 * 2 ^ 32) 8 ++ leBytes (e.pc.toNat % 2 ^ 48) 8 ++
  leBytes (e.addr.toNat % 2 ^ 52) 8 ++ leBytes (e.detail.toNat % 2 ^ 63 + if mark then 2 ^ 63 else bits e.detail.toNat 63 1 * 2 ^ 63) 8

/-- Entries of a fault-event ring. -/
def ringSize (r : FaultRing) : Nat := 2 ^ bits r.w1.toNat 0 4

/-- A fault-event ring is enabled and has room. -/
def ringRoom (s : State) (r : FaultRing) : Bool :=
  bit r.w1.toNat 63 &&
    decide ((r.prod - BitVec.ofNat 64 (readNat s.hostMem (bits r.w0.toNat 6 58 * 64 + 32 * ringSize r + 8) 8)).toNat < ringSize r)

/-- Write an entry, then the producer index, then signal MSI-X vector 0 (R446). -/
def ringWrite (hm : Table Byte) (r : FaultRing) (e : FaultEvent) : Table Byte × FaultRing :=
  let base := bits r.w0.toNat 6 58 * 64
  let hm := writeBytes hm (base + 32 * (r.prod.toNat % ringSize r)) (eventBytes e r.seq r.dropped)
  (writeNat hm (base + 32 * ringSize r) 8 (r.prod + 1).toNat,
   { r with prod := r.prod + 1, seq := r.seq + 1, dropped := false, msix := r.msix + 1,
            outstanding := if e.reply then r.outstanding ++ [{ e with seq := r.seq }] else r.outstanding })

/-- Post to a ring, or drop, or wait (R448). -/
def ringPost (s : State) (r : FaultRing) (e : FaultEvent) : Table Byte × FaultRing :=
  if ringRoom s r then ringWrite s.hostMem r e
  else if e.reply then (s.hostMem, { r with waiting := r.waiting ++ [e] })
  else (s.hostMem, { r with dropped := true })

/-- Post an event of one context (R447). -/
def postVf (s : State) (vf : Nat) (e : FaultEvent) : State :=
  let (hm, r) := ringPost s (s.ctx vf).ring { e with vf := vf }
  ({ s with hostMem := hm }).modCtx vf fun c => { c with ring := r }

/-- Post an event of the package, on the PF's ring of host port 0 (R447). -/
def postPf (s : State) (e : FaultEvent) : State :=
  let (hm, r) := ringPost s ((tfind s.pkg.pfRings 0).getD {}) e
  ({ s with hostMem := hm }).modPkg fun k => { k with pfRings := tput k.pfRings 0 r }

/-! Lines, pins and leased copies as a CU reads them (R158, R163, R274). -/

/-- The number of a line in a store: host and foreign lines are numbered apart. -/
def lineOf (sp : Space) (ia : Nat) : Nat :=
  match sp with
  | .mem => ia / 64
  | .host => 2 ^ 48 + ia / 64
  | .foreign => 2 ^ 49 + ia / 64

/-- The store a line's number lies in. -/
def lineSpace (line : Nat) : Space := if line < 2 ^ 48 then .mem else if line < 2 ^ 49 then .host else .foreign

/-- The address of a line's first byte in its store. -/
def lineBase (line : Nat) : Nat := line % 2 ^ 48 * 64

/-- The engine that holds a pin: a core 0 to 31, or a CU as 32 + cid. -/
abbrev Holder := Nat

/-- The pins of a holder. -/
def pinsOf (s : State) (h : Holder) : List Pin := if h < 32 then (s.core h).pins else (s.cu (h - 32)).pins

/-- A pin of a line at a holder. -/
def pinAt (s : State) (h : Holder) (line : Nat) : Option Pin := (pinsOf s h).find? fun p => p.line == line

/-- The holders that serve accesses of a CU: itself and its core's engine (R158, R163). -/
def ownHolders (cid : Nat) : List Holder := [32 + cid, cid / 8]

/-- The pinned copy an access of a CU uses. -/
def ownPin (s : State) (cid line : Nat) : Option (Holder × Pin) :=
  match pinAt s (32 + cid) line with
  | some p => some (32 + cid, p)
  | none => (pinAt s (cid / 8) line).map fun p => (cid / 8, p)

/-- A copy whose lease has not ended. -/
def live (s : State) (c : CopyLine) : Bool := decide (s.now < c.leaseEnd)

/-- A copy serves a reader: its lease has not ended, and a labelled copy belongs to the reader's domain (R158, R363). -/
def serves (s : State) (dom : BitVec 8) (c : CopyLine) : Bool := live s c && (decide (c.label = 0) || decide (c.dom = dom))

/-- A live copy in the CU's L1 or the core's L2. -/
def liveCopy (s : State) (cid : Nat) (dom : BitVec 8) (line : Nat) : Option CopyLine :=
  match (tfind (s.cu cid).l1 line).filter (serves s dom) with
  | some c => some c
  | none => (tfind (s.core (cid / 8)).l2 line).filter (serves s dom)

/-! Instruction words (R25, R27, R32). -/

/-- Bytes of code as a CU reads them now: from a pin or a live copy of its own or its core's, else as memory holds them (R32, R158). -/
def codeBytes (s : State) (vf cid : Nat) (sp : Space) (ia n : Nat) : List Byte :=
  let line := lineOf sp ia
  match (ownPin s cid line).map (·.2.bytes), (liveCopy s cid (s.ctx vf).dom line).map (·.bytes) with
  | some bs, _ | none, some bs => (bs.drop (ia % 64)).take n
  | none, none => readBytes (s.store sp) ia n

/-- The word at a code address as a CU reads it now (log entry 6), or the cause a fetch is refused with. -/
def fetchWord (s : State) (vf cid : Nat) (pc : DWord) : Except Nat Word :=
  match rangeOf s vf pc with
  | none => .error 3
  | some (_, r) =>
    if permX r then .ok (BitVec.ofNat 32 (leNat (codeBytes s vf cid (spaceOf r) (iaOf r pc) 4))) else .error 4

/-- The instruction at a code address, where one is. -/
def instrAt (s : State) (vf cid : Nat) (pc : DWord) : Option Instr :=
  match fetchWord s vf cid pc with
  | .ok w => match decode w with
    | .ok i => some i
    | .error _ => none
  | .error _ => none

/-- The word is a legal PERIOD: a word of the PERIOD major whose await fields R28 does not admit starts no sentence at a transfer's
target (R27 does not say; DEDUCED, log entry 73). -/
def isPeriod : Option Instr → Bool
  | some (.period a b c) => legal (.period a b c)
  | _ => false

/-- The address is a sentence start: aligned, and the word after a PERIOD (R27). -/
def startsSentence (s : State) (vf cid : Nat) (pc : DWord) : Bool :=
  decide (pc.toNat % 4 = 0) && isPeriod (instrAt s vf cid (pc - 4))

/-- The cause a control transfer's target is refused with in a lane (R127). -/
def targetCause (s : State) (vf cid : Nat) (pc : DWord) : Option Nat :=
  match rangeOf s vf pc with
  | none => some 3
  | some (_, r) => if !permX r then some 4 else if startsSentence s vf cid pc then none else some 7

/-! Threads leave a pipe, workgroups halt, traps are taken (R133, R135 to R140). -/

/-- Remove threads from the bundles; a bundle left empty frees its pipe (R268). -/
def dropFromPipes (s : State) (tids : List Nat) : State :=
  { s with pipes := (s.pipes.map fun e => (e.1, { e.2 with tids := e.2.tids.filter fun t => !tids.contains t })).filter fun e => !e.2.tids.isEmpty }

/-- Free a pipe. -/
def freePipe (s : State) (p : Nat) : State := { s with pipes := tdel s.pipes p }

/-- A fragment of a halted workgroup ends without output. -/
def dropFrag (w : Nat) (f : Frag) : Frag :=
  match f.tid with
  | none => f
  | some t => if wgOf t = w ∧ !f.ended then { f with ended := true, discarded := true, popped := true, holding := false } else f

/-- Halt a workgroup: it ends at once (R138, R257), its fragments write nothing, reported through fault servicing (R447). -/
def haltWg (s : State) (w : Nat) (cause : Nat) (pc addr : DWord) : State :=
  if (s.wg w).halted then s
  else
    let ts := liveWg s w
    let s := dropFromPipes s ts
    let s := ts.foldl (fun s t => s.modThr t fun x => { x with picker := .exited, holds := [], jump := none }) s
    let s := s.modWg w fun x => { x with halted := true }
    let s := { s with frags := tmap s.frags fun _ f => dropFrag w f }
    let s := s.modLaunch (s.wg w).launch fun l => { l with halted := true, code := if l.code = 0 then 7 else l.code }
    postVf s (s.vfOf w) { type := 1, cause := cause, pc := pc, addr := addr }

/-- The ready time that yielding gives on a CU: later than that of every thread ready there (R134, R265). -/
def newest (s : State) (cid : Nat) : Nat :=
  s.threads.foldl (fun m e => if decide (e.2.picker = .ready) && decide (s.cidOf e.1 = cid) then max m (e.2.readyAt + 1) else m) s.cycle

/-- The cycle of the next pick on a CU: later than the ready time of every thread that waits there (R272; log entry 68). -/
def nextCycle (s : State) (cid : Nat) : Nat := max (s.cycle + 1) (newest s cid)

/-- The ready time of a thread that becomes ready now (R134, R265). -/
def readyTime (s : State) (t : Nat) : Nat := if (s.thr t).yielded then newest s (s.cidOf t) else s.cycle

/-- Threads that become ready together: those that have yielded come after the others (R134, R265). -/
def yieldedLast (s : State) (ts : List Nat) : List Nat :=
  (ts.filter fun t => !(s.thr t).yielded) ++ ts.filter fun t => (s.thr t).yielded

/-- What a trap records (R135, R136). -/
structure TrapReq where
  cause : Nat
  detail : BitVec 8 := 0
  pc : DWord
  rpc : DWord
  pos : Nat
  kind : BitVec 2 := 0
  own : List Nat := []
  addr : DWord := 0
  deriving DecidableEq, Repr

/-- A thread's frame of a trap, and its handler's sentence (R135). -/
def frameOf (s : State) (t : Nat) (q : TrapReq) (x : Thread) : Thread :=
  let g := s.grp (gidOf t)
  { x with
    cause := BitVec.ofNat 6 q.cause
    detail := q.detail
    frame :=
      { tfpc := q.pc, tfrpc := q.rpc, inh := true, own := q.own.contains t, kind := q.kind, pos := BitVec.ofNat 5 q.pos
        tw := x.written, rsd := BitVec.ofNat 5 x.rstack.length
        tfaddr := q.addr
        holds := x.holds
        tfdpc := if q.cause = 0x12 then x.dpc else 0
        tft := (upto 4).foldl (fun m k => sset {} m k (sget {} x.regs (112 + k))) []
        tftLabel := (upto 4).foldl (fun m k => sset 0 m k (sget 0 g.lreg (112 + k))) [] }
    dpc := 0
    holds := []
    pc := g.tvec
    pos := 0
    advs := {}
    jump := none
    picker := .ready
    readyAt := readyTime s t
    yielded := false
    passed := false }

/-- A thread enters its handler, or its workgroup halts: no handler, a trap in the handler, or a handler entry that is no
sentence start (R135, R138). -/
def trapThread (s : State) (t : Nat) (q : TrapReq) : State :=
  let x := s.thr t
  let tvec := (s.grp (gidOf t)).tvec
  if !alive x then s
  else if tvec = 0 ∨ x.frame.inh then haltWg s (wgOf t) q.cause q.pc q.addr
  else match targetCause s (s.vfOf (wgOf t)) (s.cidOf t) tvec with
    | some c => haltWg s (wgOf t) c tvec 0
    | none => s.modThr t (frameOf s t q)

/-- Taking a trap: every thread of the bundle enters its handler (R135); poison consumptions and pipeline errors are
counted once for the bundle (R431). -/
def takeTrap (s : State) (tids : List Nat) (q : TrapReq) : State :=
  let vf := s.vfOf (wgOf (tids.headD 0))
  let s := if q.cause = 0x12 then countCons s vf else if q.cause = 0x13 then countPipe s vf else s
  (yieldedLast s tids).foldl (fun s t => trapThread s t q) (dropFromPipes s tids)

/-- A checkpointed or paired workgroup rolls back instead of trapping on causes 0x12 and 0x13, unless the same cause arose
in this interval after a rollback (R419). -/
def rollsBack (s : State) (w : Nat) (cause : Nat) : Bool :=
  decide ((s.wg w).mode ≠ .plain) && decide (cause = 0x12 ∨ cause = 0x13) && !(s.wg w).backCauses.contains cause

/-- The word before the frame's resumption point is a PERIOD where the position is 0, and the point is aligned (R140). -/
def tretOk (s : State) (t : Nat) : Bool :=
  let f := (s.thr t).frame
  decide (f.tfrpc.toNat % 4 = 0) && (decide (f.pos ≠ 0) || isPeriod (instrAt s (s.vfOf (wgOf t)) (s.cidOf t) (f.tfrpc - 4)))

/-- Return from a trap in one thread: temporaries, written bits, inh, and where it continues (R140). -/
def tretThread (x : Thread) : Thread :=
  { x with
    regs := (upto 4).foldl (fun m k => sset {} m (112 + k) (sget {} x.frame.tft k)) x.regs
    written := x.frame.tw
    frame := { x.frame with inh := false, holds := [] }
    holds := x.frame.holds
    pc := x.frame.tfrpc
    pos := x.frame.pos.toNat
    advs := {} }

/-- The labels of the temporaries a bundle's TRET restores (R140). -/
def tretLabels (s : State) (tids : List Nat) (gid : Nat) (g : Group) : Group :=
  let mine := tids.filter fun t => gidOf t == gid
  { g with
    lreg := (upto 4).foldl (fun m k =>
      putLabel (holdsGroup s tids gid) m (112 + k) (orAll (mine.map fun t => sget 0 (s.thr t).frame.tftLabel k))) g.lreg }

/-- The thread waits on at its sentence start (R186). -/
def stillHeld (x : Thread) : Bool := decide (x.pos = 0) && !x.holds.isEmpty

/-- Return from a trap: threads that share the first one's resumption point stay one bundle on the pipe; the others are
ready at theirs, or held where a wait continues (R140, R186; log entry 18). -/
def returnTrap (s : State) (p : Nat) (tids : List Nat) : State :=
  let s1 := tids.foldl (fun s t => s.modThr t tretThread) s
  let s1 := (groupsOf tids).foldl (fun s' g => s'.modGrp g (tretLabels s tids g)) s1
  let lead := s1.thr (tids.headD 0)
  let same := fun t => decide ((s1.thr t).pc = lead.pc ∧ (s1.thr t).pos = lead.pos) && !stillHeld (s1.thr t)
  let s2 := (tids.filter fun t => !same t).foldl
    (fun s t => s.modThr t fun x => { x with picker := if stillHeld x then .held else .ready, readyAt := s.cycle }) s1
  let stay := tids.filter same
  if stay.isEmpty then freePipe s2 p
  else s2.modBundle p fun b => { b with tids := stay, pc := lead.pc, pos := lead.pos, advs := {}, stalled := false }

/-! Time. -/

/-- Device time passes (R5, R52). -/
def passTime (s : State) (n : Nat) : State := { s with now := s.now + d64 n, cycle := s.cycle + n }

end Sys2Proof.Machine
end

