-- ==== Sys2Proof/Machine/Operands.lean ====
section
/-! DEFINITION. The operands of the word a bundle issues: which lanes take effect, what they read, the result label, the
stalls and stale temporaries, and writing results (R14 to R16, R44 to R54, R71, R72). -/

namespace Sys2Proof.Machine

/-- A word on a pipe. -/
structure Wx where
  i : Instr
  pipe : Nat
  b : Bundle
  sh : Shape
  srcs : List Opnd
  vf : Nat
  deriving DecidableEq, Repr

/-- The operand an XOPND adverb adds, or the addend rd that the multiply-adds read without one (R24, R75, R91). -/
def extraSrcs (i : Instr) (a : Advs) : List Opnd :=
  match a.xopnd with
  | some f => match i with
    | .atomI64 _ _ _ _ _ | .atomN64 _ _ _ _ _ | .atomrI64 _ _ _ _ _ | .atomrN64 _ _ _ _ _ => [.pair f]
    | _ => [.r f]
  | none => match i with
    | .imad _ d _ _ | .ffma _ d _ _ | .ffms _ d _ _ | .ffnma _ d _ _ | .hfma2F16 _ d _ _ | .hfma2Bf16 _ d _ _ => [.r d]
    | _ => []

/-- The word on a pipe. -/
def mkWx (s : State) (i : Instr) (p : Nat) (b : Bundle) : Wx :=
  { i := i, pipe := p, b := b, sh := shape i, srcs := (shape i).srcs ++ extraSrcs i b.advs, vf := s.vfOf (wgOf (b.tids.headD 0)) }

/-- The guard's value in a lane (R14). -/
def guardVal (s : State) (t : Nat) (g : BitVec 4) : Bool :=
  ((readPred s t (g.toNat % 8)).val != decide (8 ≤ g.toNat))

/-- The lanes in which the word takes effect (R14, R16). -/
def Wx.act (w : Wx) (s : State) : List Nat :=
  match w.sh.guard with
  | none => w.b.tids
  | some g => if w.sh.sel then w.b.tids else w.b.tids.filter fun t => guardVal s t g

/-- The word takes effect in a lane (R14, R16). -/
def Wx.takes (w : Wx) (s : State) (t : Nat) : Bool :=
  match w.sh.guard with
  | none => true
  | some g => w.sh.sel || guardVal s t g

/-- The sources a lane reads. An ordinary word reads in the lanes where it takes effect, SEL in every lane (R86). A whole-group
word reads what it delivers in every present lane (R111): a gather reads its count and its fill in the destination lanes, RED and
SCAN read the fill in the lowest present lane; AMFREE and AMZERO deliver nothing (log entry 66). -/
def Wx.srcsOf (w : Wx) (s : State) (t : Nat) : List Opnd :=
  if w.sh.whole then
    match w.i with
    | .shflRot _ _ a b | .shflXor _ _ a b | .shflUp _ _ a b | .shflDown _ _ a b | .gbcast _ _ a b =>
      .r a :: if w.takes s t then .r b :: extraSrcs w.i w.b.advs else []
    | .red _ _ a _ | .scan _ _ a _ _ => .r a :: if minOf w.b.tids = some t then extraSrcs w.i w.b.advs else []
    | .amfree _ _ _ | .amzero _ _ _ => if w.takes s t then w.srcs else []
    | _ => w.srcs
  else if w.takes s t then w.srcs else []

/-- The label of the guard or selector predicate. -/
def Wx.guardLabel (w : Wx) (s : State) (gid : Nat) : Label :=
  match w.sh.guard with
  | none => 0
  | some g => predLabel s gid (g.toNat % 8)

/-- The label of the sources of the word, its guard and the context (R54). -/
def Wx.label (w : Wx) (s : State) (gid : Nat) : Label :=
  (s.grp gid).ctx ||| w.guardLabel s gid ||| orAll (w.srcs.map (opndLabel s gid))

/-- The guard is true in every live thread of the group, all held by the bundle: a label is set outright (R54). -/
def wholeWrite (s : State) (act : List Nat) (gid : Nat) : Bool := holdsGroup s act gid

/-- The context label is raised by the guard's label (R15, R58). -/
def raiseGuard (s : State) (w : Wx) : State :=
  if w.sh.sel then s
  else (groupsOf w.b.tids).foldl (fun s g => s.modGrp g fun x => { x with ctx := x.ctx ||| w.guardLabel s g }) s

/-- Register fields a word reads. -/
def Wx.readFields (w : Wx) : List Nat := (w.srcs.map fieldsOf).flatten

/-- Register fields a word writes. -/
def Wx.writeFields (w : Wx) : List Nat := (w.sh.dsts.map fieldsOf).flatten

/-- The word names registers only: a PERIOD, LBLR, or a label target reads none of them (R28, R146, R147). -/
def isName : Opnd → Bool
  | .name _ => true
  | _ => false

/-- The register fields whose values a lane reads. -/
def Wx.fieldsRead (w : Wx) (s : State) (t : Nat) : List Nat := (((w.srcsOf s t).filter fun o => !isName o).map fieldsOf).flatten

/-- A scoreboard bit of a register the word reads or writes is set in some lane (R47). -/
def Wx.blocked (w : Wx) (s : State) : Bool :=
  w.b.tids.any (fun t => (w.fieldsRead s t).any (sbBit (s.thr t))) || (w.act s).any (fun t => w.writeFields.any (sbBit (s.thr t)))

/-- A lane reads a temporary whose written bit is clear (R45). -/
def staleTemp (x : Thread) (fs : List Nat) : Bool :=
  fs.any fun f => decide (112 ≤ f ∧ f ≤ 115) && !x.written.getLsbD (f - 112)

/-- The failing lanes of a data-dependent check: thread, cause, address or detail. -/
structure Fail where
  tid : Nat
  cause : Nat
  addr : DWord := 0
  detail : BitVec 8 := 0
  deriving DecidableEq, Repr

/-- Lanes with a stale temporary: of a whole-group word too only those whose guard is true (R45). -/
def Wx.stale (w : Wx) (s : State) : List Fail :=
  (w.b.tids.filter fun t => w.takes s t && staleTemp (s.thr t) (w.fieldsRead s t)).map fun t => { tid := t, cause := 0x0B }

/-- Lanes with a poisoned guard or selector (R72). -/
def Wx.poisonedGuard (w : Wx) (s : State) : List Fail :=
  match w.sh.guard with
  | none => []
  | some g => (w.b.tids.filter fun t => (readPred s t (g.toNat % 8)).poison).map fun t => { tid := t, cause := 0x12 }

/-- Lanes of a group register or control word write from a bundle without the whole group (R50): every thread of such a group, also
where no lane's guard is true (DEDUCED, log entry 86). -/
def Wx.diverged (w : Wx) (s : State) : List Fail :=
  if w.sh.dsts.any fun o => (gDest o).isSome || (match o with | .c _ => true | _ => false) then
    (w.b.tids.filter fun t => !holdsGroup s w.b.tids (gidOf t)).map fun t => { tid := t, cause := 0x19 }
  else []

/-- A grain of a register a lane reads has failed uncorrectably: the word is poisoned and the lane keeps the PC
(R412, R414); the detection is counted (R431). -/
def detectReg (s : State) (pc : DWord) (vf t key : Nat) (poison : Thread → Thread) : State :=
  if sget false (s.thr t).bad key then
    countMedia (s.modThr t fun x => notePoison true pc (poison { x with bad := sset false x.bad key false })) vf
  else s

/-- Poison a register word. -/
def poisonReg (f : Nat) (x : Thread) : Thread := { x with regs := sset {} x.regs f { (sget {} x.regs f) with poison := true } }
/-- Poison a predicate. -/
def poisonPred (p : Nat) (x : Thread) : Thread := { x with preds := sset {} x.preds p { (sget {} x.preds p) with poison := true } }

/-- A failed group or control register is read: poisoned, and counted. Keys: g k, c 100 + k. -/
def detectGrp (s : State) (pc : DWord) (vf t key : Nat) : State :=
  let gid := gidOf t
  if sget false (s.grp gid).bad key then
    countMedia ((s.modGrp gid fun g =>
      let g := { g with bad := sset false g.bad key false }
      if key < 100 then { g with g := sset {} g.g key { (sget ({} : GCell) g.g key) with plo := true, phi := true } }
      else { g with c := sset {} g.c (key - 100) { (sget ({} : CCell) g.c (key - 100)) with poison := true } }).modThr t (notePoison true pc)) vf
  else s

/-- Detection of failed grains in an operand of a lane. Keys of predicates are 200 + p. -/
def detectOpnd (s : State) (pc : DWord) (vf t : Nat) : Opnd → State
  | .g k => detectGrp s pc vf t k
  | .c k => detectGrp s pc vf t (100 + k)
  | .p k => detectReg s pc vf t (200 + k) (poisonPred k)
  | .name _ => s
  | o => (fieldsOf o).foldl (fun s f =>
      if 120 ≤ f then detectGrp s pc vf t (f - 120) else detectReg s pc vf t f (poisonReg f)) s

/-- Nothing has failed in a thread or its group. -/
def soundLane (s : State) (t : Nat) : Bool := (s.thr t).bad.isEmpty && (s.grp (gidOf t)).bad.isEmpty

/-- Every grain the word reads is decoded: guards in every lane, sources in the lanes that read them (R412). -/
def detect (s : State) (w : Wx) : State :=
  if w.b.tids.all (soundLane s) then s
  else
    let s := match w.sh.guard with
      | none => s
      | some g => w.b.tids.foldl (fun s t => detectReg s w.b.pc w.vf t (200 + g.toNat % 8) (poisonPred (g.toNat % 8))) s
    w.b.tids.foldl (fun s' t => (w.srcsOf s t).foldl (fun s o => detectOpnd s w.b.pc w.vf t o) s') s

/-- Words of an operand. -/
def opndWords : Opnd → Nat
  | .pair _ => 2
  | .quad _ => 4
  | .oct _ => 8
  | _ => 1

/-- A lane's result: value, poison, flags. -/
structure LaneOut where
  tid : Nat
  val : Nat
  poison : Bool := false
  flags : BitVec 5 := 0
  deriving DecidableEq, Repr

/-- The lowest-numbered lane of a group in a list of lanes (R51). -/
def lowestIn (ts : List Nat) (gid : Nat) : Option Nat := minOf (ts.filter fun t => gidOf t == gid)

/-- The result of the lowest-numbered lane of a group (R51). -/
def firstOut (outs : List LaneOut) (gid : Nat) : Option LaneOut :=
  (lowestIn (outs.map (·.tid)) gid).bind fun t => outs.find? fun o => o.tid == t

/-- Write a group register by field: bits 31..0, bits 63..32 become 0 (R10); the lowest guard-true lane's value (R51). -/
def writeGLow (s : State) (gid k : Nat) (o : LaneOut) : State :=
  s.modGrp gid fun g => { g with g := sset {} g.g k { val := d64 (o.val % 2 ^ 32), plo := o.poison } }

/-- Write the lanes' results to a destination, then its label: set or raised per group (R54). -/
def writeOuts (s : State) (w : Wx) (dst : Opnd) (outs : List LaneOut) (label : Nat → Label) : State :=
  let act := outs.map (·.tid)
  let gids := groupsOf w.b.tids
  let s1 := match gDest dst with
    | some k => gids.foldl (fun s g => match firstOut outs g with
        | some o => writeGLow s g k o
        | none => s) s
    | none => outs.foldl (fun s o => s.modThr o.tid fun x =>
        notePoison o.poison w.b.pc (writeOpnd x dst (cellsOf o.val o.poison (opndWords dst)))) s
  gids.foldl (fun s' g => s'.modGrp g (labelOpnd (wholeWrite s act g) (label g) dst)) s1

/-- The sources of a lane as numbers, and whether one is poisoned. -/
def Wx.values (w : Wx) (s : State) (t : Nat) : List Nat × Bool :=
  let cs := w.srcs.map (readOpnd s t)
  (cs.map wordsVal, cs.any anyPoison)

/-- Each guard-true lane's result of a function of its sources: poison passes through and sets no flag (R71, R72). -/
def Wx.outs (w : Wx) (s : State) (f : List Nat → Nat × BitVec 5) : List LaneOut :=
  (w.act s).map fun t =>
    let v := w.values s t
    let r := f v.1
    { tid := t, val := r.1, poison := v.2, flags := if v.2 then 0 else r.2 }

/-- The n-th source. -/
def arg (v : List Nat) (n : Nat) : Nat := (v[n]?).getD 0

end Sys2Proof.Machine
end

