-- ==== Sys2Proof/Machine/Flags.lean ====
section
/-! DEFINITION. The flags of sr.fpflags, their label, and the FP exception trap (R55, R68, R69). -/

namespace Sys2Proof.Machine

/-- OR flags into a thread's sr.fpflags (R68). -/
def orFlags (fl : BitVec 5) (x : Thread) : Thread := { x with fpflags := x.fpflags ||| fl }

/-- OR the lanes' flags, and raise the flags' label of every group by the result label (R55). -/
def mergeFlags (s : State) (w : Wx) (outs : List LaneOut) (label : Nat → Label) : State :=
  let s1 := outs.foldl (fun s o => s.modThr o.tid (orFlags o.flags)) s
  (groupsOf w.b.tids).foldl (fun s g => s.modGrp g fun x => { x with lflags := x.lflags ||| label g }) s1

/-- Lanes that would set a flag their own thread enables: cause 0x14 (R69). -/
def fpFails (s : State) (outs : List LaneOut) : List Fail :=
  (outs.filter fun o => decide (o.flags &&& (s.thr o.tid).fpctl ≠ 0)).map fun o =>
    { tid := o.tid, cause := 0x14, detail := (o.flags &&& (s.thr o.tid).fpctl).zeroExtend 8 }

end Sys2Proof.Machine
end

