-- ==== Sys2Proof/Machine/Front.lean ====
section
/-! DEFINITION. What every word goes through before and after its own effect: the word checks, parking, stalls, the
data-dependent checks, the trap or the advance (R15, R22 to R30, R47, R135, R268 to R271, R416). -/

namespace Sys2Proof.Machine

/-- What a word's own effect answers. -/
inductive Eff where
  /-- It took effect; the bundle goes on to the next word. -/
  | done (s : State)
  /-- Lanes fail; nothing of the effect is taken (R29). -/
  | fail (l : List Fail)
  /-- Lanes of a control transfer fail, after its context label raise (R127). -/
  | failRaised (s : State) (l : List Fail)
  /-- Held at issue (R268). -/
  | hold (s : State)
  /-- It took effect and placed the bundle's threads itself. -/
  | gone (s : State)

/-- The CU of a bundle. -/
def Wx.cid (w : Wx) : Nat := w.pipe / 4

/-- The instruction after the adverbs at a code address, skipping further adverbs. -/
def adverbTarget (s : State) (vf cid : Nat) (pc : DWord) : Nat → Option Instr
  | 0 => none
  | n + 1 =>
    match instrAt s vf cid pc with
    | none => none
    | some j => if isAdverb j then adverbTarget s vf cid (pc + 4) n else some j

/-- The kind of an adverb: ADV.IMM is a kind of its own (R22). -/
def adverbKind : Instr → Option Nat
  | .advImm _ => some 0
  | .advRound _ _ _ => some 1
  | .advMemhint _ _ => some 2
  | .advXopnd _ => some 3
  | .advSched _ _ => some 4
  | _ => none

/-- The kinds of the adverbs already before a word. -/
def Advs.kinds (a : Advs) : List Nat :=
  (if a.imm.isSome then [0] else []) ++ (if a.round.isSome then [1] else []) ++ (if a.hint.isSome then [2] else []) ++
  (if a.xopnd.isSome then [3] else []) ++ (if a.sched.isSome then [4] else [])

/-- An adverb breaks R22. -/
def adverbBad (s : State) (w : Wx) : Bool :=
  match adverbKind w.i with
  | none => false
  | some k =>
    decide (2 ≤ w.b.advs.count) || w.b.advs.kinds.contains k ||
    match adverbTarget s w.vf w.cid (w.b.pc + 4) 24 with
    | none => true
    | some j => !accepts j w.i

/-- A cas without XOPND, or a 64-bit cas whose XOPND field is no pair (R24, R193). -/
def xopndBad (w : Wx) : Bool :=
  (w.sh.needX && w.b.advs.xopnd.isNone) || !(extraSrcs w.i w.b.advs).all srcOk

/-- The group of the bundle's first thread. -/
def Wx.leadGrp (w : Wx) (s : State) : Group := s.grp (gidOf (w.b.tids.headD 0))

/-- Rings, barriers and levels named beyond their declaration, and the copy ring named by a ring word: cause 0x02 (R36, R190,
R191, R294). -/
def undeclared (s : State) (w : Wx) : Bool :=
  let wg := s.wg (wgOf (w.b.tids.headD 0))
  let l := s.launch wg.launch
  let far := fun (q : BitVec 4) => decide (wg.hdr.rings ≤ q.toNat)
  let ring := fun (q : BitVec 4) => far q || (((wg.hdr.descs[q.toNat]?).map (·.copy)).getD false)
  match w.i with
  | .qput _ _ q _ => ring q
  | .qputRemote _ _ q _ _ => far q
  | .qputNb _ _ _ q _ x _ => if x = 1 then far q else ring q
  | .qget _ _ q _ => ring q
  | .qgetNb _ _ _ q _ => ring q
  | .qpeek _ _ q _ => ring q
  | .qpeekNb _ _ _ q _ => ring q
  | .bar b => decide (wg.hdr.barriers ≤ b.toNat)
  | .lbar k => decide (l.nlev < k.toNat) || !((l.levels[k.toNat]?).map (·.cores)).getD false
  | _ => false

/-- The word checks in order: 0x01, 0x0C, 0x02, 0x0E (R13, R15, R26, R30, R37, R226). -/
def wordCheck (s : State) (w : Wx) : Option Nat :=
  let g := w.leadGrp s
  if !legal w.i || xopndBad w || adverbBad s w || (w.sh.frag && (s.thr (w.b.tids.headD 0)).frag.isNone) then some 0x01
  else if (decide (24 ≤ w.b.pos) && !(isPeriod (some w.i))) ||
      (match w.i with | .land _ => decide (w.b.pos ≠ 0) | _ => false) ||
      (w.sh.period && !(match instrAt s w.vf w.cid (w.b.pc + 4) with | some (.period _ _ _) => true | _ => false)) then some 0x0C
  else if !(w.readFields ++ w.writeFields).all (allotOk g.vregs g.oregs) || undeclared s w then some 0x02
  else match w.sh.role with
    | none => none
    | some k => if k = g.kind then none else some 0x0E

/-- The address of the word's first adverb, or the word (R136). -/
def Bundle.faultPc (b : Bundle) : DWord := b.advs.first.getD b.pc

/-- A trap of the kind "fault" at the word (R136). -/
def faultReq (b : Bundle) (cause : Nat) (own : List Nat) : TrapReq :=
  { cause := cause, pc := b.pc, rpc := b.faultPc, pos := b.pos - b.advs.count, own := own }

/-- The workgroups of threads. -/
def wgsOf (tids : List Nat) : List Nat := sortNat (dedup (tids.map wgOf))

/-- Mark the bundle stalled: the word issues again. -/
def stallPipe (s : State) (p : Nat) : State := s.modBundle p fun b => { b with stalled := true }

/-- The failure of the lowest-numbered lane (R150); of two groups' lanes with one number the first thread's (log entry 69). -/
def lowestLane : List Fail → Option Fail
  | [] => none
  | f :: r => match lowestLane r with
    | none => some f
    | some e => some (if laneOf e.tid < laneOf f.tid ∨ (laneOf e.tid = laneOf f.tid ∧ e.tid < f.tid) then e else f)

/-- The trap a bundle takes when lanes fail: the smallest cause; the address of the lowest lane that failed with it; the
details of those lanes together (R135, R150, R151). -/
def failReq (w : Wx) (l : List Fail) : TrapReq :=
  let c := (minOf (l.map (·.cause))).getD 0
  let mine := l.filter fun f => f.cause = c
  { faultReq w.b c (l.map (·.tid)) with
    detail := mine.foldl (fun d f => d ||| f.detail) 0
    addr := if c = 3 ∨ c = 4 ∨ c = 6 then ((lowestLane mine).map (·.addr)).getD 0 else 0 }

/-- A data-dependent trap, or the rollback that R419 puts in its place. -/
def trapFails (s : State) (w : Wx) (l : List Fail) : State :=
  let q := failReq w l
  let back := (wgsOf w.b.tids).filter fun g => rollsBack s g q.cause
  if back.isEmpty then takeTrap s w.b.tids q
  else
    let s := if q.cause = 0x12 then countCons s w.vf else countPipe s w.vf
    stallPipe (back.foldl (fun s g => s.modWg g fun x => { x with backCauses := x.backCauses ++ [q.cause], retry := true }) s) w.pipe

/-- The thread holds a clause (R113, R228). -/
def holdsClause (s : State) (t : Nat) : Bool :=
  match (s.thr t).frag with
  | none => false
  | some f => ((tfind s.frags f).map (·.holding)).getD false

/-- The bundle is one whole group (R110, R270). -/
def wholeBundle (s : State) (tids : List Nat) : Bool :=
  match groupsOf tids with
  | [g] => holdsGroup s tids g
  | _ => false

/-- Every live thread of the group is parked, none in its handler, and not all at one word (R271). -/
def mismatched (s : State) (gid : Nat) : Bool :=
  let l := liveOf s gid
  !l.isEmpty && l.all (fun t => decide ((s.thr t).picker = .parked) && !(s.thr t).frame.inh) &&
    l.any fun t => decide ((s.thr t).pc ≠ (s.thr (l.headD 0)).pc)

/-- The trap of a parked thread at its own word (R271). -/
def parkedReq (x : Thread) (t cause : Nat) : TrapReq :=
  { cause := cause, pc := x.pc, rpc := x.advs.first.getD x.pc, pos := x.pos - x.advs.count, own := [t] }

/-- The collective-mismatch trap of a group whose threads have parked apart (R271). -/
def checkMismatch (s : State) (gid : Nat) : State :=
  if mismatched s gid then (liveOf s gid).foldl (fun s t => trapThread s t (parkedReq (s.thr t) t 0x0D)) s else s

/-- A bundle parks at a whole-group word (R270). -/
def parkBundle (s : State) (w : Wx) : State :=
  let s1 := w.b.tids.foldl (fun s t => s.modThr t fun x =>
    { x with pc := w.b.pc, pos := w.b.pos, advs := w.b.advs, picker := .parked, readyAt := s.cycle, parkRide := x.ride }) s
  (groupsOf w.b.tids).foldl checkMismatch (freePipe s1 w.pipe)

/-- The thread's fragment is registered with the clause scoreboard and not popped (R378). -/
def registeredNow (s : State) (t : Nat) : Bool :=
  match (s.thr t).frag with
  | none => false
  | some f => ((tfind s.frags f).map fun x => x.registered && !x.popped).getD false

/-- The word ends an interval of a checkpointed workgroup before it takes effect (R416); a pop of the clause acts as a release (R229). -/
def endsInterval (s : State) (w : Wx) (t : Nat) : Bool :=
  match w.i with
  | .bar _ | .lbar _ | .atomrI32 _ _ _ _ _ | .atomrN32 _ _ _ _ _ | .atomrI64 _ _ _ _ _ | .atomrN64 _ _ _ _ _ | .atomrF32 _ _ _ _
  | .cwait _ _ _ _ | .xcpy _ _ _ | .gate _ _ _ | .qputRemote _ _ _ _ _ | .mxop _ _ _ _ | .amalloc _ _ _ | .amfree _ _ _ | .amzero _ _ _
  | .amwr _ _ _ => true
  | .qputNb _ _ _ _ _ x _ => decide (x = 1)
  | .stg _ _ _ _ o | .atomF32 _ _ _ o => decide (6 ≤ o.toNat)
  | .atomI32 _ _ _ _ o | .atomN32 _ _ _ _ o | .atomI64 _ _ _ _ o | .atomN64 _ _ _ _ o => decide (6 ≤ o.toNat)
  | .fence _ o | .stsp _ _ _ _ o => decide (6 ≤ o.toNat)
  | .fenceSc _ _ | .mxfence => true
  | .ocleave _ | .discard _ | .exit _ => registeredNow s t
  | .wait _ _ st _ _ => decide (st.toNat < ((s.wg (wgOf t)).retained.filter fun r => r.tid == t).length)
  | _ => false

/-- The lanes at which the word ends an interval that has not been committed. -/
def Wx.unended (w : Wx) (s : State) : List Nat :=
  (w.act s).filter fun t => decide ((s.wg (wgOf t)).mode ≠ .plain) && endsInterval s w t && !(s.thr t).passed

/-- A workgroup's entries are being performed (R418 step 3). -/
def performing (s : State) (w : Nat) : Bool :=
  s.accs.any fun e => decide (wgOf e.2.tid = w) && e.2.retained && decide (e.2.stage ≠ .retained)

/-- The commit's stores are being performed, those of a pair for both members (R418 steps 3 and 4, R421). -/
def flushing (s : State) (w : Nat) : Bool := performing s w || ((s.wg w).twin.map (performing s)).getD false

/-- A fragment workgroup of a tile-work unit: it runs to its end through a pre-emption (R377, R406). -/
def unitWg (g : Workgroup) : Bool := g.tile.isSome && !g.resolve

/-- The budget of a CU's cooperative save is over: its threads issue nothing more, but for those of a tile-work unit (R406). -/
def budgetOver (s : State) (w : Nat) : Bool :=
  let g := s.wg w
  let v := (s.cu g.cid).save
  v.delivering && decide (11112 ≤ (s.now - v.start).toNat) && !unitWg g

/-- Threads wait at the word that ends their interval (R416, R434). -/
def reachEnd (s : State) (w : Wx) (ts : List Nat) : State :=
  stallPipe (ts.foldl (fun s t => s.modWg (wgOf t) fun x =>
    let e := x.endAt.getD {}
    { x with endAt := some { e with ends := tput e.ends t w.b.pc } }) s) w.pipe

/-- ADV.SCHED acts at the word it modifies: yield, and a priority hint for the next sentence (R24, R134, R266). -/
def schedule (v : BitVec 4) (x : Thread) : Thread :=
  let k := v.toNat / 2
  { x with yielded := x.yielded || v.getLsbD 0, hint := if k = 0 then x.hint else some (k - 1) }

/-- The word's ADV.SCHED acts in the lanes in which the word took effect (R24). -/
def scheduled (s : State) (a : Advs) (act : List Nat) : State :=
  match a.sched with
  | none => s
  | some v => act.foldl (fun s t => s.modThr t (schedule v)) s

/-- The bundle goes on to the next word; `act` are the lanes in which the word took effect. -/
def advance (s : State) (w : Wx) (act : List Nat) : State :=
  let s := scheduled s w.b.advs act
  let s := if act.any (fun t => (s.thr t).passed) then w.b.tids.foldl (fun s t => s.modThr t fun x => { x with passed := false }) s else s
  s.modBundle w.pipe fun b => { b with pc := w.b.pc + 4, pos := w.b.pos + 1, advs := {}, stalled := false }

/-- A word whose work no checker watches: the ring words, fences and waits have no address arithmetic (R193). -/
def unchecked : Instr → Bool
  | .qput _ _ _ _ | .qputRemote _ _ _ _ _ | .qputNb _ _ _ _ _ _ _ | .qget _ _ _ _ | .qgetNb _ _ _ _ _ | .qpeek _ _ _ _
  | .qpeekNb _ _ _ _ _ | .fence _ _ | .fenceSc _ _ | .wait _ _ _ _ _ | .bar _ | .lbar _ => true
  | _ => false

/-- A checker watches the word (R193, R415). -/
def Wx.checked (w : Wx) : Bool := w.sh.word && !isAdverb w.i && !unchecked w.i

/-- The lanes that fail before the word's own checks: stale temporaries, poisoned guard, a checker mismatch, a group
register written while diverged (R45, R50, R72, R415). -/
def preFails (s : State) (w : Wx) : List Fail :=
  w.stale s ++ w.poisonedGuard s ++ w.diverged s ++
  if s.mismatch && w.checked then w.b.tids.map fun t => { tid := t, cause := 0x13 } else []

/-- The word's own effect, after every check that all words share. Every cause found in a lane competes with the others (R127,
R135; log entry 70). -/
def finish (s s1 : State) (w : Wx) (pre : List Fail) (e : Eff) : State :=
  match e with
  | .fail l => trapFails s w (pre ++ l)
  | .failRaised s' l => trapFails s' w (pre ++ l)
  | .done s' => if pre.isEmpty then advance s' w (w.act s) else trapFails s w pre
  | .gone s' => if pre.isEmpty then s' else trapFails s w pre
  | .hold s' => if pre.isEmpty then stallPipe s' w.pipe else trapFails s1 w pre

/-- A word issues: checks, parking, stalls, its effect, the trap or the advance. -/
def issueWord (s : State) (w : Wx) (eff : State → Wx → Eff) : State :=
  match wordCheck s w with
  | some c => takeTrap s w.b.tids (faultReq w.b c w.b.tids)
  | none =>
    let clause := if w.sh.whole then w.b.tids.filter (holdsClause s) else []
    if !clause.isEmpty then takeTrap s w.b.tids (faultReq w.b 0x11 clause)
    else if w.sh.whole && !wholeBundle s w.b.tids then parkBundle s w
    else if (wgsOf w.b.tids).any (fun g => (s.wg g).retry || flushing s g || budgetOver s g) || w.blocked s then stallPipe s w.pipe
    else
      let ends := w.unended s
      if !ends.isEmpty then reachEnd s w ends
      else
        let s0 := detect s w
        let pre := preFails s0 w
        let sm := { s0 with mismatch := if w.checked then false else s0.mismatch }
        let s1 := raiseGuard sm w
        finish sm s1 w pre (eff s1 w)

/-- The meaning of a word: nothing where the pipe whose turn it is holds no bundle (log entry 3), or one held at a FENCE
(R183). -/
def runWord (i : Instr) (s : State) (eff : State → Wx → Eff) : Out :=
  match tfind s.pipes s.turn with
  | none => .next s
  | some b => if b.fence.isSome then .next s else .next (issueWord s (mkWx s i s.turn b) eff)

/-- An adverb takes its place before the word it modifies (R22). -/
def adverbEff (f : Advs → Advs) (s : State) (w : Wx) : Eff :=
  .gone (s.modBundle w.pipe fun b =>
    let a := f w.b.advs
    { b with pc := w.b.pc + 4, pos := w.b.pos + 1, stalled := false
             advs := { a with first := some (w.b.advs.first.getD w.b.pc), count := w.b.advs.count + 1 } })

/-- A synchronous computation: one result per lane, its label, no flag (R71). -/
def aluEff (f : List Nat → Nat) (s : State) (w : Wx) : Eff :=
  .done (writeOuts s w (w.sh.dsts.headD (.r 116#7)) (w.outs s fun v => (f v, 0)) (w.label s))

/-- A synchronous floating-point computation: results and flags, or the FP exception trap (R68, R69). -/
def fpEff (f : List Nat → Nat × BitVec 5) (s : State) (w : Wx) : Eff :=
  let outs := w.outs s f
  match fpFails s outs with
  | [] => .done (mergeFlags (writeOuts s w (w.sh.dsts.headD (.r 116#7)) outs (w.label s)) w outs (w.label s))
  | l => .fail l

/-- The awaits of a PERIOD that a thread does not meet yet (R28). -/
def awaitsOf (x : Thread) (fs : List Nat) : List Hold := (fs.filter (sbBit x)).map .await

/-- A thread ends its sentence: where its next one starts, and what holds it (R28, R265). -/
def endThread (now ready : Nat) (next : DWord) (fs : List Nat) (x : Thread) : Thread :=
  let hs := x.holds ++ awaitsOf x fs
  { x with
    pc := x.jump.getD next, jump := none, pos := 0, advs := {}, holds := hs
    picker := if hs.isEmpty then .ready else .held
    readyAt := if hs.isEmpty then ready else now, yielded := if hs.isEmpty then false else x.yielded }

/-- A bundle ends its sentence at a PERIOD and frees its pipe (R28, R268). -/
def endSentence (s : State) (p : Nat) (b : Bundle) (fs : List Nat) : State :=
  freePipe ((yieldedLast s b.tids).foldl (fun s t => s.modThr t (endThread s.cycle (readyTime s t) (b.pc + 4) fs)) s) p

end Sys2Proof.Machine
end

