-- ==== Sys2Proof/Machine/Async.lean ====
section
/-! DEFINITION. Results that arrive later: issuing the lanes of an asynchronous word, the arrival of one lane's value, and
the outstanding counters (R47, R53, R54, R153, R154). -/

namespace Sys2Proof.Machine

/-- The classes of outstanding operations (R53). -/
inductive OctClass where
  | load | store | copy | tile
  deriving DecidableEq, Repr

/-- A thread's count of a class. -/
def octOf (x : Thread) : OctClass → Nat
  | .load => x.octLoad
  | .store => x.octStore
  | .copy => x.octCopy
  | .tile => x.octTile

/-- Change a count. -/
def octMod (k : OctClass) (f : Nat → Nat) (x : Thread) : Thread :=
  match k with
  | .load => { x with octLoad := f x.octLoad }
  | .store => { x with octStore := f x.octStore }
  | .copy => { x with octCopy := f x.octCopy }
  | .tile => { x with octTile := f x.octTile }

/-- One more operation outstanding. -/
def octUp (k : OctClass) : Thread → Thread := octMod k (· + 1)
/-- One operation completed. -/
def octDown (k : OctClass) : Thread → Thread := octMod k (· - 1)

/-- A count of a lane would rise above 255 (R53). -/
def octFull (s : State) (k : OctClass) (ts : List Nat) : Bool := ts.any fun t => decide (255 ≤ octOf (s.thr t) k)

/-- The class an access counts in (R153, R194). -/
def classOf : AccKind → Option OctClass
  | .load | .atomr | .spLoad | .ringGet | .amRead | .tex | .walk => some .load
  | .store | .atom | .spStore | .ringPut | .amWrite | .insert => some .store
  | .special | .log | .fetch => none

/-- Count an access up at issue. -/
def countUp (k : AccKind) (x : Thread) : Thread := match classOf k with | some c => octUp c x | none => x
/-- Count an access down at completion. -/
def countDown (k : AccKind) (x : Thread) : Thread := match classOf k with | some c => octDown c x | none => x

/-- Some lane could not count one more access of a kind. -/
def kindFull (s : State) (k : AccKind) (ts : List Nat) : Bool := match classOf k with | some c => octFull s c ts | none => false

/-- The fields in which a lane receives a destination: for a group register only the group's lowest guard-true lane (R51). -/
def laneDest (act : List Nat) (dst : Option Opnd) (t : Nat) : List Nat :=
  match dst with
  | none => []
  | some o => match gDest o with
    | some _ => if lowestIn act (gidOf t) = some t then fieldsOf o else []
    | none => fieldsOf o

/-- Issue one access per lane of a list, with a batch per group for the label set outright (R154), the scoreboard bits
and the count. -/
def issueOn (s : State) (w : Wx) (act : List Nat) (dst : Option Opnd) (mk : Nat → Access) : State :=
  let inst := s.fresh
  (groupsOf act).foldl (fun s' g =>
    let mine := act.filter fun t => gidOf t == g
    let id := s'.fresh
    let b : Batch :=
      { left := mine.length, gid := g, dest := match dst with | some o => fieldsOf o | none => []
        whole := wholeWrite s act g, label := w.label s g }
    let s1 := { s' with batches := tput s'.batches id b, fresh := id + 1 }
    mine.foldl (fun s' t =>
      let a := mk t
      let a := { a with tid := t, pc := w.b.pc, dest := laneDest act dst t, label := w.label s g, batch := some id, inst := inst }
      (s'.addAcc a).modThr t fun x => countUp a.kind (sbSet a.dest x)) s1) s

/-- The groups of a bundle in which no lane of a list takes the word. -/
def idleGroups (w : Wx) (act : List Nat) : List Nat := (groupsOf w.b.tids).filter fun g => !(act.any fun t => gidOf t == g)

/-- In a group in which no lane takes a word, its destination's label is raised at issue (R54, R71). -/
def raiseIdle (s0 : State) (w : Wx) (act : List Nat) (dst : Option Opnd) (s : State) : State :=
  match dst with
  | none => s
  | some o => (idleGroups w act).foldl (fun s g => s.modGrp g (labelOpnd false (w.label s0 g) o)) s

/-- Issue one access per guard-true lane. -/
def issueLanes (s : State) (w : Wx) (dst : Option Opnd) (mk : Nat → Access) : State :=
  raiseIdle s w (w.act s) dst (issueOn s w (w.act s) dst mk)

/-- Write a lane's result words and clear their scoreboard bits. -/
def deliver (s : State) (a : Access) : State :=
  let s1 := (a.dest.zip a.result).foldl (fun s fc =>
    if 120 ≤ fc.1 then writeGLow s (gidOf a.tid) (fc.1 - 120) { tid := a.tid, val := fc.2.val.toNat, poison := fc.2.poison }
    else s.modThr a.tid fun x => writeField x fc.1 fc.2) s
  s1.modThr a.tid fun x => notePoison (anyPoison a.result && !a.dest.isEmpty) a.pc (sbClear a.dest x)

/-- Set or raise the labels of what an arrival writes: register fields, and p7 where it brings a predicate. -/
def labelFields (set : Bool) (l : Label) (fs : List Nat) (pred : Bool) (g : Group) : Group :=
  let g := fs.foldl (fun g f => labelOpnd set l (.r (BitVec.ofNat 7 f)) g) g
  if pred then labelOpnd set l (.p 7) g else g

/-- The label of a lane's arrival: raised, and set outright with the last lane of a whole-group write (R154, R222). -/
def arriveLabel (s : State) (a : Access) : State :=
  let l := a.label ||| a.resLabel
  match a.batch with
  | none => s.modGrp (gidOf a.tid) (labelFields false l a.dest a.pred.isSome)
  | some id =>
    match tfind s.batches id with
    | none => s.modGrp (gidOf a.tid) (labelFields false l a.dest a.pred.isSome)
    | some b =>
      let b' := { b with left := b.left - 1, label := b.label ||| l }
      let s1 := s.modGrp b.gid (labelFields (decide (b'.left = 0) && b.whole) (if b'.left = 0 then b'.label else l) b.dest a.pred.isSome)
      { s1 with batches := if b'.left = 0 then tdel s1.batches id else tput s1.batches id b' }

/-- A predicate an access writes on arrival. -/
def arrivePred (s : State) (a : Access) : State :=
  match a.pred with
  | none => s
  | some v => s.modThr a.tid fun x => { x with preds := sset {} x.preds 7 { val := v } }

/-- An access delivers its result and completes (R153, R154). -/
def arrive (s : State) (id : Nat) (a : Access) : State :=
  let s1 := arrivePred (arriveLabel (deliver s a) a) a
  (s1.delAcc id).modThr a.tid (countDown a.kind)

/-- The accesses of a thread. -/
def accsOf (s : State) (t : Nat) : List (Nat × Access) := s.accs.filter fun e => decide (e.2.tid = t)

/-- An order code has an acquire part. -/
def isAcq (o : Order) : Bool := decide (o.kind = .acquire ∨ o.kind = .acqRel)
/-- An order code has a release part. -/
def isRel (o : Order) : Bool := decide (o.kind = .release ∨ o.kind = .acqRel)

/-- An acquire of the thread has not its value yet: later memory words are held at issue (R162). -/
def acquirePending (s : State) (t : Nat) : Bool := (accsOf s t).any fun e => isAcq e.2.order && decide (e.2.kind ≠ .store)

/-- The order/scope code, decoded (R17). -/
def orderOf (o : BitVec 4) : Order :=
  if o = 0 then {}
  else
    let n := o.toNat - 1
    { kind := match n / 5 with | 0 => .acquire | 1 => .release | _ => .acqRel
      scope := match n % 5 with | 0 => .wg | 1 => .core | 2 => .dev | 3 => .part | _ => .sys }

/-- Withdraw a thread's claims of a ring: slots already handed to them stay consumed (R182). -/
def withdrawClaims (accs : List Nat) (r : Ring) : Ring :=
  { r with claims := (r.claims.map fun c => { c with accs := c.accs.filter fun a => !accs.contains a }).filter fun c => !c.accs.isEmpty }

/-- A thread ends (R133): its register results are discarded, its receives cancelled, its claims withdrawn, its clause
released, its return stack discarded, and a record it leaves is reported (R157, R213). -/
def exitThread (s : State) (t : Nat) : State :=
  let x := s.thr t
  let wg := wgOf t
  let mine := accsOf s t
  let claims := (mine.filter fun e => decide (e.2.kind = .ringGet)).map (·.1)
  let s := { s with accs := tmap s.accs fun _ a => if a.tid = t then { a with dest := [] } else a }
  let s := claims.foldl (fun s a => s.delAcc a) s
  let s := s.modMem wg fun m =>
    { m with
      rings := tmap m.rings fun _ r => withdrawClaims claims r
      slots := tmap m.slots fun _ x => { x with posted := x.posted.map fun p => { p with tids := p.tids.filter (· ≠ t) } } }
  let s := match x.frag with
    | none => s
    | some f => { s with frags := tmod s.frags f fun g => { g with ended := true, holding := false, popped := true } }
  let s := match x.deferred with
    | none => s
    | some d => postVf s (s.vfOf wg) { type := 2, cause := d.cause, pc := d.pc, addr := d.ea }
  let s := x.tiles.foldl (fun s d => match d.cause with
    | none => s
    | some c => postVf s (s.vfOf wg) { type := 2, cause := c, pc := d.pc, addr := d.addr }) s
  let s := s.modThr t fun x => { x with picker := .exited, rstack := [], holds := [], jump := none, deferred := none, tiles := [] }
  let gid := gidOf t
  if (liveOf s gid).isEmpty then
    let s := s.modMem wg fun m =>
      { m with slots := tmap m.slots fun _ x => { x with posted := x.posted.filter fun p => !decide (p.gid = gid) } }
    s.modGrp gid fun g => { g with done := true }
  else checkMismatch s gid

end Sys2Proof.Machine
end

