-- ==== Sys2Proof/Machine/Fp.lean ====
section
/-! DEFINITION. Floating point (R60 to R67): decoding of the five formats to exact values, exact sums, products, quotients
and roots, one rounding, flags; conversions to and from integers; the bracketing values of EX2, LG2, SIN and COS (R103). -/

namespace Sys2Proof.Machine

/-- A format: exponent and fraction bits; E4M3 has no infinity and one NaN pattern (R60). -/
structure Fmt where
  eb : Nat
  fb : Nat
  e4m3 : Bool := false
  deriving DecidableEq, Repr

/-- FP32 (R60). -/
def f32 : Fmt := { eb := 8, fb := 23 }
/-- FP16 (R60). -/
def f16 : Fmt := { eb := 5, fb := 10 }
/-- BF16 (R60). -/
def bf16 : Fmt := { eb := 8, fb := 7 }
/-- E4M3 (R60). -/
def e4m3 : Fmt := { eb := 4, fb := 3, e4m3 := true }
/-- E5M2 (R60). -/
def e5m2 : Fmt := { eb := 5, fb := 2 }

/-- The bias. -/
def Fmt.bias (f : Fmt) : Nat := 2 ^ (f.eb - 1) - 1
/-- The width. -/
def Fmt.width (f : Fmt) : Nat := 1 + f.eb + f.fb
/-- The bits of +infinity (no such value in E4M3, where it is one above the largest exponent's codes). -/
def Fmt.infBits (f : Fmt) : Nat := (2 ^ f.eb - 1) * 2 ^ f.fb
/-- The bits of the largest finite magnitude (R60). -/
def Fmt.maxBits (f : Fmt) : Nat := if f.e4m3 then 0x7E else f.infBits - 1
/-- The canonical NaN (R61). -/
def Fmt.nanBits (f : Fmt) : Nat := if f.e4m3 then 0x7F else f.infBits + 2 ^ (f.fb - 1)
/-- The sign bit set or not. -/
def Fmt.signed (f : Fmt) (s : Bool) (m : Nat) : Nat := if s then m + 2 ^ (f.width - 1) else m

/-- The flags v, z, o, n, x in the bit order of sr.fpflags (R53). -/
def flagV : BitVec 5 := 16#5
/-- Division by zero. -/
def flagZ : BitVec 5 := 8#5
/-- Overflow. -/
def flagO : BitVec 5 := 4#5
/-- Underflow. -/
def flagN : BitVec 5 := 2#5
/-- Inexact. -/
def flagX : BitVec 5 := 1#5

/-- A value: NaN, infinity, or sign, magnitude m · 2^e (zero when m = 0). -/
inductive Fv where
  | nan (signalling : Bool)
  | inf (s : Bool)
  | fin (s : Bool) (m : Nat) (e : Int)
  deriving DecidableEq, Repr

/-- The value of a bit pattern (R60, R61). -/
def Fmt.value (f : Fmt) (b : Nat) : Fv :=
  let s := bit b (f.width - 1)
  let ex := bits b f.fb f.eb
  let fr := bits b 0 f.fb
  if f.e4m3 && ex == 15 && fr == 7 then .nan false
  else if !f.e4m3 && ex == 2 ^ f.eb - 1 then
    if fr == 0 then .inf s else .nan (!bit fr (f.fb - 1))
  else if ex == 0 then .fin s fr (1 - (f.bias : Int) - f.fb)
  else .fin s (2 ^ f.fb + fr) ((ex : Int) - f.bias - f.fb)

/-- A nonzero number of a format below its smallest normal. -/
def Fmt.isDenormal (f : Fmt) (b : Nat) : Bool := bits b f.fb f.eb == 0 && bits b 0 f.fb != 0

/-- The options of ADV.ROUND (R24): mode (0 RNE, 1 RZ, 2 RU, 3 RD), flush, saturate. -/
structure Rnd where
  mode : Nat := 0
  ftz : Bool := false
  sat : Bool := false
  deriving DecidableEq, Repr

/-- The value read from an operand, with the flush of R65. -/
def Fmt.read (f : Fmt) (r : Rnd) (b : Nat) : Fv :=
  if r.ftz && f.isDenormal b then .fin (bit b (f.width - 1)) 0 0 else f.value b

/-- An exact result before rounding: `more` says the magnitude is a little above m · 2^e. -/
inductive Ex where
  | nan
  | inf (s : Bool)
  | zero (s : Bool)
  | num (s : Bool) (m : Nat) (e : Int) (more : Bool)
  deriving DecidableEq, Repr

/-- Round m · 2^e (plus a little if `more`) to a multiple of 2^q: the multiple and whether it is inexact (R64). -/
def roundAt (mode : Nat) (s : Bool) (m : Nat) (e q : Int) (more : Bool) : Nat × Bool :=
  if q ≤ e then
    let n := m * 2 ^ (e - q).toNat
    let up := more && ((mode == 2 && !s) || (mode == 3 && s))
    (if up then n + 1 else n, more)
  else
    let k := (q - e).toNat
    let n := m / 2 ^ k
    let r := m % 2 ^ k
    let half := 2 ^ (k - 1)
    let low := r % half != 0 || more
    let g := decide (half ≤ r)
    let inexact := g || low
    let up := match mode with
      | 0 => g && (low || n % 2 == 1)
      | 2 => inexact && !s
      | 3 => inexact && s
      | _ => false
    (if up then n + 1 else n, inexact)

/-- What an overflow or an infinity is written as (R64, R66, R67). -/
def Fmt.packInf (f : Fmt) (r : Rnd) (s : Bool) : Nat :=
  if r.sat then f.signed s f.maxBits
  else if f.e4m3 then f.nanBits
  else f.signed s f.infBits

/-- Round an exact result to a format: bits and flags (R64 to R67). -/
def Fmt.round (f : Fmt) (r : Rnd) : Ex → Nat × BitVec 5
  | .nan => (f.nanBits, 0)
  | .inf s => (f.packInf r s, 0)
  | .zero s => (f.signed s 0, 0)
  | .num s m e more =>
    if m = 0 then (f.signed s 0, 0) else
    let top : Int := e + Nat.log2 m
    let emin : Int := 1 - (f.bias : Int)
    let qu : Int := top - f.fb
    let q : Int := if qu < emin - f.fb then emin - f.fb else qu
    let (n, inexact) := roundAt r.mode s m e q more
    let (nu, _) := roundAt r.mode s m e qu more
    let tiny := decide (top < emin) && !(decide (top = emin - 1) && nu == 2 ^ (f.fb + 1))
    let code := if n < 2 ^ f.fb then n else (q + f.fb + f.bias).toNat * 2 ^ f.fb + (n - 2 ^ f.fb)
    if f.maxBits < code then
      let toMax := r.mode == 1 || (r.mode == 2 && s) || (r.mode == 3 && !s)
      (if toMax then f.signed s f.maxBits else f.packInf r s, flagO ||| flagX)
    else if r.ftz && decide (n < 2 ^ f.fb) && n != 0 then (f.signed s 0, flagN ||| flagX)
    else (f.signed s code,
      (if tiny && inexact then flagN else 0) ||| (if inexact then flagX else 0))

/-- A signalling NaN operand raises v (R61). -/
def Fv.sig : Fv → BitVec 5
  | .nan true => flagV
  | _ => 0

/-- A NaN. -/
def Fv.isNan : Fv → Bool
  | .nan _ => true
  | _ => false

/-- The negated value. -/
def Fv.neg : Fv → Fv
  | .nan q => .nan q
  | .inf s => .inf (!s)
  | .fin s m e => .fin (!s) m e

/-- The exact value as an exact result. -/
def Fv.ex : Fv → Ex
  | .nan _ => .nan
  | .inf s => .inf s
  | .fin s m e => if m = 0 then .zero s else .num s m e false

/-- The exact sum, with the zero signs of R64 and v for opposite infinities. -/
def exAdd (mode : Nat) : Fv → Fv → Ex × BitVec 5
  | .nan _, _ => (.nan, 0)
  | _, .nan _ => (.nan, 0)
  | .inf s, .inf t => if s = t then (.inf s, 0) else (.nan, flagV)
  | .inf s, _ => (.inf s, 0)
  | _, .inf t => (.inf t, 0)
  | .fin s m e, .fin t n k =>
    let b := if e < k then e else k
    let x : Int := (m * 2 ^ (e - b).toNat : Nat)
    let y : Int := (n * 2 ^ (k - b).toNat : Nat)
    let v := (if s then -x else x) + (if t then -y else y)
    if v = 0 then (.zero (if m = 0 ∧ n = 0 ∧ s = t then s else decide (mode = 3)), 0)
    else (.num (decide (v < 0)) v.natAbs b false, 0)

/-- The exact product; 0 · ∞ raises v. -/
def exMul : Fv → Fv → Fv × BitVec 5
  | .nan q, _ => (.nan q, 0)
  | _, .nan q => (.nan q, 0)
  | .inf s, .inf t => (.inf (s != t), 0)
  | .inf s, .fin t m _ => if m = 0 then (.nan false, flagV) else (.inf (s != t), 0)
  | .fin s m _, .inf t => if m = 0 then (.nan false, flagV) else (.inf (s != t), 0)
  | .fin s m e, .fin t n k => (.fin (s != t) (m * n) (e + k), 0)

/-- Sum of two operands in a format (R87). -/
def Fmt.add (f : Fmt) (r : Rnd) (a b : Nat) : Nat × BitVec 5 :=
  let x := f.read r a; let y := f.read r b
  let (e, fl) := exAdd r.mode x y
  let (v, fr) := f.round r e
  (v, fr ||| fl ||| x.sig ||| y.sig)

/-- Difference (R87). -/
def Fmt.sub (f : Fmt) (r : Rnd) (a b : Nat) : Nat × BitVec 5 :=
  let x := f.read r a; let y := f.read r b
  let (e, fl) := exAdd r.mode x y.neg
  let (v, fr) := f.round r e
  (v, fr ||| fl ||| x.sig ||| y.sig)

/-- Product (R87). -/
def Fmt.mul (f : Fmt) (r : Rnd) (a b : Nat) : Nat × BitVec 5 :=
  let x := f.read r a; let y := f.read r b
  let (p, fl) := exMul x y
  let (v, fr) := f.round r p.ex
  (v, fr ||| fl ||| x.sig ||| y.sig)

/-- Fused a · b + c with optional negations of the product and of c, rounded once (R88). -/
def Fmt.fma (f : Fmt) (r : Rnd) (negP negC : Bool) (a b c : Nat) : Nat × BitVec 5 :=
  let x := f.read r a; let y := f.read r b; let z := f.read r c
  let (p, fl) := exMul x y
  let p' := if negP then p.neg else p
  let z' := if negC then z.neg else z
  let (e, fl2) := exAdd r.mode p' z'
  let (v, fr) := f.round r e
  (v, fr ||| fl ||| fl2 ||| x.sig ||| y.sig ||| z.sig)

/-- The order of two values that are not NaN; -0 equals +0. -/
def fvLt : Fv → Fv → Bool
  | .inf s, .inf t => s && !t
  | .inf s, _ => s
  | _, .inf t => !t
  | .fin s m e, .fin t n k =>
    let b := if e < k then e else k
    let x : Int := (m * 2 ^ (e - b).toNat : Nat)
    let y : Int := (n * 2 ^ (k - b).toNat : Nat)
    decide ((if s then -x else x) < (if t then -y else y))
  | _, _ => false

/-- The order of FMIN and FMAX: -0 below +0 (R89). -/
def Fmt.below (f : Fmt) (a b : Nat) : Bool :=
  fvLt (f.value a) (f.value b) ||
    (!fvLt (f.value b) (f.value a) && bit a (f.width - 1) && !bit b (f.width - 1))

/-- FMIN and FMAX (R89), with the flush of R94. -/
def Fmt.minmax (f : Fmt) (ftz max : Bool) (a b : Nat) : Nat × BitVec 5 :=
  let fl (u : Nat) := if ftz && f.isDenormal u then f.signed (bit u (f.width - 1)) 0 else u
  let a := fl a; let b := fl b
  let x := f.value a; let y := f.value b
  let sg := x.sig ||| y.sig
  if x.isNan && y.isNan then (f.nanBits, sg)
  else if x.isNan then (b, sg)
  else if y.isNan then (a, sg)
  else if max then (if f.below a b then b else a, sg)
  else (if f.below b a then b else a, sg)

/-- The conditions of FCMP and the flags they raise (R34, R92). -/
def fcmp (c : Nat) (a b : Nat) : Bool × BitVec 5 :=
  let x := f32.value a; let y := f32.value b
  let un := x.isNan || y.isNan
  let lt := fvLt x y
  let gt := fvLt y x
  let eq := !un && !lt && !gt
  let fl := if decide (2 ≤ c ∧ c ≤ 5) then (if un then flagV else 0) else x.sig ||| y.sig
  let v := match c with
    | 0 => eq
    | 1 => !un && !eq
    | 2 => !un && lt
    | 3 => !un && !gt
    | 4 => !un && gt
    | 5 => !un && !lt
    | 6 => !un
    | 7 => un
    | 8 => un || eq
    | 9 => !eq
    | 10 => un || lt
    | 11 => un || !gt
    | 12 => un || gt
    | _ => un || !lt
  (v, fl)

/-- The one-hot class mask of an FP32 value (R91). -/
def fclass (b : Nat) : Nat :=
  match f32.value b with
  | .inf true => 1
  | .inf false => 128
  | .nan true => 256
  | .nan false => 512
  | .fin s m _ =>
    if m = 0 then (if s then 8 else 16)
    else if f32.isDenormal b then (if s then 4 else 32)
    else if s then 2 else 64

/-- Convert between formats (R96). Under saturate an infinity becomes the largest finite value also where both types are the same: R66
before R96's copy of an unchanged value (DEDUCED, log entry 82). -/
def cvtFF (src dst : Fmt) (r : Rnd) (b : Nat) : Nat × BitVec 5 :=
  let x := src.read r b
  let infV : BitVec 5 := match x with | .inf _ => if dst.e4m3 && !r.sat then flagV else 0 | _ => 0
  let (v, fl) := dst.round r x.ex
  (v, fl ||| x.sig ||| infV)

/-- Convert an integer to a format (R96). -/
def cvtIF (dst : Fmt) (r : Rnd) (i : Int) : Nat × BitVec 5 :=
  dst.round r (if i = 0 then .zero false else .num (decide (i < 0)) i.natAbs 0 false)

/-- Convert a value to an integer between bounds (R97). -/
def cvtFI (src : Fmt) (r : Rnd) (lo hi : Int) (b : Nat) : Int × BitVec 5 :=
  match src.read r b with
  | .nan _ => (0, flagV)
  | .inf s => (if s then lo else hi, flagV)
  | .fin s m e =>
    let (n, inexact) := roundAt r.mode s m e 0 false
    let y : Int := if s then -(n : Int) else n
    if y < lo then (lo, flagV) else if hi < y then (hi, flagV)
    else (y, if inexact then flagX else 0)

/-- Move a NaN into a narrower format, keeping its sign and top fraction bits (R98, R99). -/
def packNan (dst : Fmt) (b : Nat) : Nat :=
  if dst.e4m3 then dst.signed (bit b 31) 0x7F
  else
    let fr := bits b (23 - dst.fb) dst.fb
    dst.signed (bit b 31) (dst.infBits + (if fr = 0 then 1 else fr))

/-- One element of a float PACK (R98, R99). -/
def packF (dst : Fmt) (r : Rnd) (b : Nat) : Nat × BitVec 5 :=
  if (f32.value b).isNan then (packNan dst b, 0) else cvtFF f32 dst r b

/-- Widen a float element to FP32 exactly; NaNs keep their bits on top (R100). -/
def unpackF (src : Fmt) (b : Nat) : Nat :=
  if (src.value b).isNan then
    f32.signed (bit b (src.width - 1)) (f32.infBits + bits b 0 src.fb * 2 ^ (23 - src.fb))
  else (f32.round {} (src.value b).ex).1

/-- The integer square root, one bit at a time from bit k - 1. -/
def isqrtFrom (n : Nat) : Nat → Nat → Nat
  | 0, r => r
  | k + 1, r => isqrtFrom n k (if (r + 2 ^ k) * (r + 2 ^ k) ≤ n then r + 2 ^ k else r)

/-- The integer square root. -/
def isqrt (n : Nat) : Nat := isqrtFrom n (Nat.log2 n / 2 + 1) 0

/-- RCP (R101, R103, R104). -/
def rcpF (r : Rnd) (b : Nat) : Nat × BitVec 5 :=
  match f32.read r b with
  | .nan q => (f32.nanBits, (Fv.nan q).sig)
  | .inf s => (f32.signed s 0, 0)
  | .fin s m e =>
    if m = 0 then ((f32.round r (.inf s)).1, flagZ)
    else
      let k := Nat.log2 m + 64
      f32.round r (.num s (2 ^ k / m) (-(k : Int) - e) (decide (2 ^ k % m ≠ 0)))

/-- SQRT (R101, R103, R104). -/
def sqrtF (r : Rnd) (b : Nat) : Nat × BitVec 5 :=
  match f32.read r b with
  | .nan q => (f32.nanBits, (Fv.nan q).sig)
  | .inf s => if s then (f32.nanBits, flagV) else f32.round r (.inf false)
  | .fin s m e =>
    if m = 0 then (f32.signed s 0, 0)
    else if s then (f32.nanBits, flagV)
    else
      let (m1, e1) := if e % 2 = 0 then (m, e) else (2 * m, e - 1)
      let n := m1 * 2 ^ 64
      let q := isqrt n
      f32.round r (.num false q ((e1 - 64) / 2) (decide (q * q ≠ n)))

/-- RSQ (R101, R103, R104). -/
def rsqF (r : Rnd) (b : Nat) : Nat × BitVec 5 :=
  match f32.read r b with
  | .nan q => (f32.nanBits, (Fv.nan q).sig)
  | .inf s => if s then (f32.nanBits, flagV) else (0, 0)
  | .fin s m e =>
    if m = 0 then ((f32.round r (.inf s)).1, flagZ)
    else if s then (f32.nanBits, flagV)
    else
      let (m1, e1) := if e % 2 = 0 then (m, e) else (2 * m, e - 1)
      let n := 2 ^ 128 / m1
      let q := isqrt n
      f32.round r (.num false q (-64 - e1 / 2) (decide (q * q * m1 ≠ 2 ^ 128)))

/-- Where the fixed point of the transcendental functions stands. -/
def fixP : Nat := 256
/-- ln 2 in fixed point. -/
def ln2P : Nat := 0xb17217f7d1cf79abc9e3b39803f2f6af40f343267298b62d8a0d175b8baafa2b
/-- π/2 with 400 fraction bits. -/
def halfPi : Nat :=
  0x1921fb54442d18469898cc51701b839a252049c1114cf98e804177d4c76273644a29410f31c6809bbdf2a33679a7486366056

/-- The exponential series Σ tᵏ/k! in fixed point p, from term k on. -/
def expSeries (p t : Nat) : Nat → Nat → Nat → Nat → Nat
  | 0, _, _, acc => acc
  | fuel + 1, k, term, acc =>
    let nx := term * t / (k * 2 ^ p)
    expSeries p t fuel (k + 1) nx (acc + nx)

/-- The series Σ z^(2k+1)/(2k+1) in fixed point p. -/
def atanhSeries (p z2 : Nat) : Nat → Nat → Nat → Nat → Nat
  | 0, _, _, acc => acc
  | fuel + 1, k, pw, acc => atanhSeries p z2 fuel (k + 2) (pw * z2 / 2 ^ p) (acc + pw / k)

/-- The alternating series of sine (k = 1, term = t) and cosine (k = 0, term = 1) in fixed point p. -/
def trigSeries (p t2 : Nat) : Nat → Nat → Int → Int → Int
  | 0, _, _, acc => acc
  | fuel + 1, k, term, acc =>
    let nx := -(term * t2) / ((k + 1) * (k + 2) * 2 ^ p : Nat)
    trigSeries p t2 fuel (k + 2) nx (acc + nx)

/-- The FP32 value nearer to zero and the one farther from zero that bracket a magnitude m · 2^e that is not
representable; the free value says which is returned (R103, log entry 8). -/
def neighbour (fn : Nat) (x : Nat) (s : Bool) (m : Nat) (e : Int) : Nat :=
  let near := (f32.round { mode := 1 } (.num false m e false)).1
  let far := near + 1
  f32.signed s (if Config.farther fn (BitVec.ofNat 32 x) then far else near)

/-- EX2 (R101, R103 to R105). -/
def ex2F (b : Nat) : Nat × BitVec 5 :=
  match f32.value b with
  | .nan q => (f32.nanBits, (Fv.nan q).sig)
  | .inf s => (if s then 0 else f32.infBits, 0)
  | .fin s m e =>
    if m = 0 then (0x3F800000, 0) else
    let ge : Bool := decide (e + Nat.log2 m ≥ 8)
    if ge && !s then (f32.infBits, flagO ||| flagX)
    else if ge then
      (neighbour 3 b false 1 (-200), flagN ||| flagX)
    else
      let x : Int := (m * 2 ^ (e + 256).toNat : Nat)
      let v := if s then -x else x
      let n := v / (2 ^ 256 : Nat)
      let fr := (v % (2 ^ 256 : Nat)).toNat
      if n ≥ 128 then (f32.infBits, flagO ||| flagX)
      else if fr = 0 && decide (n ≥ -149) then
        ((f32.round {} (.num false 1 n false)).1, 0)
      else
        let r := expSeries fixP (fr * ln2P / 2 ^ 256) 64 1 (2 ^ 256) (2 ^ 256)
        let fl := if n < -126 then flagN ||| flagX else flagX
        if fr = 0 then (neighbour 3 b false 1 n, fl)
        else (neighbour 3 b false r (n - 256), fl)

/-- LG2 (R101, R103 to R105). -/
def lg2F (b : Nat) : Nat × BitVec 5 :=
  match f32.value b with
  | .nan q => (f32.nanBits, (Fv.nan q).sig)
  | .inf s => if s then (f32.nanBits, flagV) else (f32.infBits, 0)
  | .fin s m e =>
    if m = 0 then (f32.signed true f32.infBits, flagZ)
    else if s then (f32.nanBits, flagV)
    else
      let l := Nat.log2 m
      let ei : Int := e + l
      if m = 2 ^ l then cvtIF f32 {} ei
      else
        let y := m * 2 ^ 256 / 2 ^ l
        let z := (y - 2 ^ 256) * 2 ^ 256 / (y + 2 ^ 256)
        let lnY := 2 * atanhSeries fixP (z * z / 2 ^ 256) 90 1 z 0
        let lg : Int := ei * (2 ^ 256 : Nat) + (lnY * 2 ^ 256 / ln2P : Nat)
        (neighbour 4 b (decide (lg < 0)) lg.natAbs (-256), flagX)

/-- SIN and COS (functions 5 and 6) (R101, R103 to R105). -/
def trigF (cosine : Bool) (b : Nat) : Nat × BitVec 5 :=
  let fn := if cosine then 6 else 5
  match f32.value b with
  | .nan q => (f32.nanBits, (Fv.nan q).sig)
  | .inf _ => (f32.nanBits, flagV)
  | .fin s m e =>
    if m = 0 then (if cosine then 0x3F800000 else f32.signed s 0, 0)
    else
      let x := m * 2 ^ (e + 400).toNat
      let k := x / halfPi
      let r := x % halfPi
      let q := (if cosine then k + 1 else k) % 4
      let r2 := r * r / 2 ^ 400
      let useCos := q % 2 == 1
      let v : Int := if useCos then trigSeries 400 r2 64 0 (2 ^ 400 : Nat) (2 ^ 400 : Nat)
        else trigSeries 400 r2 64 1 r r
      let neg := (decide (q ≥ 2)) != (s && !cosine)
      let mag := v.natAbs - 2 ^ 180
      let res := neighbour fn b neg mag (-400)
      (res, flagX ||| (if bits res 23 8 = 0 then flagN else 0))

end Sys2Proof.Machine
end

