-- ==== Sys2Proof/Machine/Integer.lean ====
section
/-! DEFINITION. Integer arithmetic, logic, shifts, bit fields, moves, compares and select (R75 to R86). -/

namespace Sys2Proof.Machine

/-- A register value read as i32. -/
def i32 (n : Nat) : Int := (w32 n).toInt

/-- An integer modulo 2^32. -/
def lo32 (i : Int) : Nat := (BitVec.ofInt 32 i).toNat

/-- The high half of a 64-bit product (R75). -/
def hi64 (i : Int) : Nat := (BitVec.ofInt 64 i).toNat / 2 ^ 32

/-- Shift left by a whole amount (R80). -/
def shlN (v n : Nat) : Nat := if 32 ≤ n then 0 else v * 2 ^ n % 2 ^ 32

/-- Shift right with zero fill (R80). -/
def shrN (v n : Nat) : Nat := if 32 ≤ n then 0 else v / 2 ^ n

/-- Shift right arithmetically (R80). -/
def sarN (v n : Nat) : Nat := lo32 (i32 v / (2 ^ (if 32 ≤ n then 32 else n) : Nat))

/-- Position and clipped length of a field descriptor (R82). -/
def fieldOf (d : Nat) : Nat × Nat :=
  let pos := bits d 0 5
  let len := min (bits d 8 6) 32
  (pos, if 32 < pos + len then 32 - pos else len)

/-- BFE (R82). -/
def bfeN (v d : Nat) : Nat :=
  let (pos, len) := fieldOf d
  if len = 0 then 0
  else
    let f := bits v pos len
    if bit d 16 && bit f (len - 1) then f + (2 ^ 32 - 2 ^ len) else f

/-- BFI (R83). -/
def bfiN (v d old : Nat) : Nat :=
  let (pos, len) := fieldOf d
  let m := w32 ((2 ^ len - 1) * 2 ^ pos)
  ((w32 old &&& ~~~m) ||| (w32 (v * 2 ^ pos) &&& m)).toNat

/-- The number of 1 bits among the n low bits. -/
def popcN (v : Nat) : Nat → Nat
  | 0 => 0
  | n + 1 => v % 2 + popcN (v / 2) n

/-- The number of leading 0 bits of 32. -/
def clzN (v : Nat) : Nat := if v = 0 then 32 else 31 - Nat.log2 v

/-- The n low bits in reverse order, above an accumulator. -/
def brevN (v acc : Nat) : Nat → Nat
  | 0 => acc
  | n + 1 => brevN (v / 2) (acc * 2 + v % 2) n

/-- The immediate of an I7 word: with ADV.IMM the payload above the seven bits, else sign-extended (R23, R76). -/
def immOf (a : Advs) (i : BitVec 7) : Nat :=
  match a.imm with
  | some p => p.toNat * 128 + i.toNat
  | none => (i.signExtend 32).toNat

/-- The conditions of ICMP (R34). -/
def icmpN (c a b : Nat) : Bool :=
  match c with
  | 0 => a == b
  | 1 => a != b
  | 2 => decide (i32 a < i32 b)
  | 3 => decide (i32 a ≤ i32 b)
  | 4 => decide (i32 b < i32 a)
  | 5 => decide (i32 b ≤ i32 a)
  | 6 => decide (a < b)
  | 7 => decide (a ≤ b)
  | 8 => decide (b < a)
  | _ => decide (b ≤ a)

/-- A truth value as a register value. -/
def ofBool (b : Bool) : Nat := if b then 1 else 0

/-- IADD (R75). -/
def execIadd (g : BitVec 4) (d a b : BitVec 7) (s : State) : Out :=
  runWord (.iadd g d a b) s (aluEff fun v => (arg v 0 + arg v 1) % 2 ^ 32)

/-- IADD with an immediate (R76). -/
def execIaddImm (g : BitVec 4) (d a i : BitVec 7) (s : State) : Out :=
  runWord (.iaddImm g d a i) s fun s w => aluEff (fun v => (arg v 0 + immOf w.b.advs i) % 2 ^ 32) s w

/-- MOVI: IADD immediate with ra = z (R76). -/
def execMovi (g : BitVec 4) (d i : BitVec 7) (s : State) : Out :=
  runWord (.movi g d i) s fun s w => aluEff (fun _ => immOf w.b.advs i) s w

/-- ISUB (R75). -/
def execIsub (g : BitVec 4) (d a b : BitVec 7) (s : State) : Out :=
  runWord (.isub g d a b) s (aluEff fun v => lo32 ((arg v 0 : Int) - arg v 1))

/-- IMUL (R75). -/
def execImul (g : BitVec 4) (d a b : BitVec 7) (s : State) : Out :=
  runWord (.imul g d a b) s (aluEff fun v => arg v 0 * arg v 1 % 2 ^ 32)

/-- IMULH.i32 (R75). -/
def execImulhI32 (g : BitVec 4) (d a b : BitVec 7) (s : State) : Out :=
  runWord (.imulhI32 g d a b) s (aluEff fun v => hi64 (i32 (arg v 0) * i32 (arg v 1)))

/-- IMULH.n32 (R75). -/
def execImulhN32 (g : BitVec 4) (d a b : BitVec 7) (s : State) : Out :=
  runWord (.imulhN32 g d a b) s (aluEff fun v => arg v 0 * arg v 1 / 2 ^ 32)

/-- IMAD: the addend is rd, or the XOPND register (R75). -/
def execImad (g : BitVec 4) (d a b : BitVec 7) (s : State) : Out :=
  runWord (.imad g d a b) s (aluEff fun v => (arg v 0 * arg v 1 + arg v 2) % 2 ^ 32)

/-- IMIN.i32 (R75). -/
def execIminI32 (g : BitVec 4) (d a b : BitVec 7) (s : State) : Out :=
  runWord (.iminI32 g d a b) s (aluEff fun v => if i32 (arg v 1) < i32 (arg v 0) then arg v 1 else arg v 0)

/-- IMIN.n32 (R75). -/
def execIminN32 (g : BitVec 4) (d a b : BitVec 7) (s : State) : Out :=
  runWord (.iminN32 g d a b) s (aluEff fun v => min (arg v 0) (arg v 1))

/-- IMAX.i32 (R75). -/
def execImaxI32 (g : BitVec 4) (d a b : BitVec 7) (s : State) : Out :=
  runWord (.imaxI32 g d a b) s (aluEff fun v => if i32 (arg v 0) < i32 (arg v 1) then arg v 1 else arg v 0)

/-- IMAX.n32 (R75). -/
def execImaxN32 (g : BitVec 4) (d a b : BitVec 7) (s : State) : Out :=
  runWord (.imaxN32 g d a b) s (aluEff fun v => max (arg v 0) (arg v 1))

/-- IADD64 (R77). -/
def execIadd64 (g : BitVec 4) (d a b : BitVec 7) (s : State) : Out :=
  runWord (.iadd64 g d a b) s (aluEff fun v => (arg v 0 + arg v 1) % 2 ^ 64)

/-- ISUB64 (R77). -/
def execIsub64 (g : BitVec 4) (d a b : BitVec 7) (s : State) : Out :=
  runWord (.isub64 g d a b) s (aluEff fun v => (2 ^ 64 + arg v 0 - arg v 1) % 2 ^ 64)

/-- LEA (R78). -/
def execLea (g : BitVec 4) (d a : BitVec 7) (sh : BitVec 2) (b : BitVec 5) (s : State) : Out :=
  runWord (.lea g d a sh b) s (aluEff fun v => (arg v 0 + arg v 1 * 2 ^ sh.toNat) % 2 ^ 32)

/-- AND (R79). -/
def execAnd32 (g : BitVec 4) (d a b : BitVec 7) (s : State) : Out :=
  runWord (.and32 g d a b) s (aluEff fun v => (w32 (arg v 0) &&& w32 (arg v 1)).toNat)

/-- OR (R79). -/
def execOr32 (g : BitVec 4) (d a b : BitVec 7) (s : State) : Out :=
  runWord (.or32 g d a b) s (aluEff fun v => (w32 (arg v 0) ||| w32 (arg v 1)).toNat)

/-- XOR (R79). -/
def execXor32 (g : BitVec 4) (d a b : BitVec 7) (s : State) : Out :=
  runWord (.xor32 g d a b) s (aluEff fun v => (w32 (arg v 0) ^^^ w32 (arg v 1)).toNat)

/-- ANDN (R79). -/
def execAndn (g : BitVec 4) (d a b : BitVec 7) (s : State) : Out :=
  runWord (.andn g d a b) s (aluEff fun v => (w32 (arg v 0) &&& ~~~(w32 (arg v 1))).toNat)

/-- SHL (R80). -/
def execShl (g : BitVec 4) (d a b : BitVec 7) (s : State) : Out :=
  runWord (.shl g d a b) s (aluEff fun v => shlN (arg v 0) (arg v 1))

/-- SHR (R80). -/
def execShr (g : BitVec 4) (d a b : BitVec 7) (s : State) : Out :=
  runWord (.shr g d a b) s (aluEff fun v => shrN (arg v 0) (arg v 1))

/-- SAR (R80). -/
def execSar (g : BitVec 4) (d a b : BitVec 7) (s : State) : Out :=
  runWord (.sar g d a b) s (aluEff fun v => sarN (arg v 0) (arg v 1))

/-- SHL by an immediate amount (R81). -/
def execShlImm (g : BitVec 4) (d a : BitVec 7) (n : BitVec 5) (s : State) : Out :=
  runWord (.shlImm g d a n) s (aluEff fun v => shlN (arg v 0) n.toNat)

/-- SHR by an immediate amount (R81). -/
def execShrImm (g : BitVec 4) (d a : BitVec 7) (n : BitVec 5) (s : State) : Out :=
  runWord (.shrImm g d a n) s (aluEff fun v => shrN (arg v 0) n.toNat)

/-- SAR by an immediate amount (R81). -/
def execSarImm (g : BitVec 4) (d a : BitVec 7) (n : BitVec 5) (s : State) : Out :=
  runWord (.sarImm g d a n) s (aluEff fun v => sarN (arg v 0) n.toNat)

/-- BFE (R82). -/
def execBfe (g : BitVec 4) (d a b : BitVec 7) (s : State) : Out :=
  runWord (.bfe g d a b) s (aluEff fun v => bfeN (arg v 0) (arg v 1))

/-- BFI (R83). -/
def execBfi (g : BitVec 4) (d a b : BitVec 7) (s : State) : Out :=
  runWord (.bfi g d a b) s (aluEff fun v => bfiN (arg v 0) (arg v 1) (arg v 2))

/-- MOV (R84). -/
def execMov (g : BitVec 4) (d a : BitVec 7) (s : State) : Out :=
  runWord (.mov g d a) s (aluEff fun v => arg v 0)

/-- IABS (R84). -/
def execIabs (g : BitVec 4) (d a : BitVec 7) (s : State) : Out :=
  runWord (.iabs g d a) s (aluEff fun v => lo32 (if i32 (arg v 0) < 0 then -(i32 (arg v 0)) else i32 (arg v 0)))

/-- POPC (R84). -/
def execPopc (g : BitVec 4) (d a : BitVec 7) (s : State) : Out :=
  runWord (.popc g d a) s (aluEff fun v => popcN (arg v 0) 32)

/-- CLZ (R84). -/
def execClz (g : BitVec 4) (d a : BitVec 7) (s : State) : Out :=
  runWord (.clz g d a) s (aluEff fun v => clzN (arg v 0))

/-- BREV (R84). -/
def execBrev (g : BitVec 4) (d a : BitVec 7) (s : State) : Out :=
  runWord (.brev g d a) s (aluEff fun v => brevN (arg v 0) 0 32)

/-- MOV.64 (R84). -/
def execMov64 (g : BitVec 4) (d a : BitVec 7) (s : State) : Out :=
  runWord (.mov64 g d a) s (aluEff fun v => arg v 0)

/-- ICMP (R34, R85). -/
def execIcmp (g : BitVec 4) (p : BitVec 3) (c : BitVec 4) (a b : BitVec 7) (s : State) : Out :=
  runWord (.icmp g p c a b) s (aluEff fun v => ofBool (icmpN c.toNat (arg v 0) (arg v 1)))

/-- The words SEL writes: the selector chooses in every lane, and both sources are read (R86). A poisoned source poisons the result also
where it is not the one written: R72 speaks of the words a result was computed from (DEDUCED, log entry 81). -/
def selEff (sel : BitVec 4) (s : State) (w : Wx) : Eff :=
  let outs := w.b.tids.map fun t =>
    let v := w.values s t
    { tid := t, val := if guardVal s t sel then arg v.1 0 else arg v.1 1, poison := v.2 : LaneOut }
  .done (writeOuts s w (w.sh.dsts.headD (.r 116#7)) outs (w.label s))

/-- SEL (R16, R86). -/
def execSel (sel : BitVec 4) (d a b : BitVec 7) (s : State) : Out :=
  runWord (.sel sel d a b) s (selEff sel)

end Sys2Proof.Machine
end

