-- ==== Sys2Proof/Machine/Float.lean ====
section
/-! DEFINITION. FP32 arithmetic, packed arithmetic, conversion, special functions and random numbers (R87 to R107). -/

namespace Sys2Proof.Machine

/-- The options of the ROUND adverb before a word (R24, R64 to R66). -/
def rndOf (a : Advs) : Rnd :=
  match a.round with
  | none => {}
  | some r => { mode := r.toNat % 4, ftz := r.getLsbD 2, sat := r.getLsbD 3 }

/-- A floating-point word under its ROUND adverb. -/
def roundEff (f : Rnd → List Nat → Nat × BitVec 5) (s : State) (w : Wx) : Eff := fpEff (f (rndOf w.b.advs)) s w

/-- A packed word: the function on both 16-bit elements, and the flags of both (R93). -/
def packed (f : List Nat → Nat × BitVec 5) (v : List Nat) : Nat × BitVec 5 :=
  let lo := f (v.map (· % 65536))
  let hi := f (v.map (· / 65536))
  (lo.1 + hi.1 * 65536, lo.2 ||| hi.2)

/-- The float types of CVT (R35). -/
def cvtFmt (t : Nat) : Fmt := match t with | 0 => f32 | 1 => f16 | 2 => bf16 | 3 => e4m3 | _ => e5m2

/-- The integer types of CVT: width and signedness (R35). -/
def cvtInt (t : Nat) : Nat × Bool := (8 * 2 ^ (t % 4), decide (t < 4))

/-- The integer a source of CVT holds (R95). -/
def cvtSrcInt (t v : Nat) : Int :=
  let (w, sg) := cvtInt t
  let u := v % 2 ^ w
  if sg && bit u (w - 1) then (u : Int) - (2 ^ w : Nat) else u

/-- CVT to a float type (R95, R96). -/
def cvtF (r : Rnd) (t src v : Nat) : Nat × BitVec 5 :=
  if src < 8 then cvtIF (cvtFmt t) r (cvtSrcInt src v)
  else
    let sf := cvtFmt (src - 8)
    cvtFF sf (cvtFmt t) r (v % 2 ^ sf.width)

/-- CVT to an integer type: clamped, written extended to the register or pair (R95, R97). -/
def cvtI (r : Rnd) (t src v : Nat) : Nat × BitVec 5 :=
  let sf := cvtFmt (src - 8)
  let (w, sg) := cvtInt t
  let lo : Int := if sg then -((2 ^ (w - 1) : Nat) : Int) else 0
  let hi : Int := if sg then ((2 ^ (w - 1) : Nat) : Int) - 1 else ((2 ^ w : Nat) : Int) - 1
  let (y, fl) := cvtFI sf r lo hi (v % 2 ^ sf.width)
  (if w = 64 then (BitVec.ofInt 64 y).toNat else lo32 y, fl)

/-- The words of a pair, quad or octet value. -/
def wordN (v k : Nat) : Nat := v / 2 ^ (32 * k) % 2 ^ 32

/-- The float forms of PACK on a quad (R99). -/
def packF4 (f : Fmt) (r : Rnd) (v : Nat) : Nat × BitVec 5 :=
  (upto 4).foldl (fun acc k =>
    let e := packF f r (wordN v k)
    (acc.1 + e.1 * 2 ^ (8 * k), acc.2 ||| e.2)) (0, 0)

/-- The integer forms of PACK: n elements of w bits, clamped (R99). -/
def packInts (n w : Nat) (sg : Bool) (v : Nat) : Nat :=
  (upto n).foldl (fun acc k =>
    let x := i32 (wordN v k)
    let lo : Int := if sg then -((2 ^ (w - 1) : Nat) : Int) else 0
    let hi : Int := if sg then ((2 ^ (w - 1) : Nat) : Int) - 1 else ((2 ^ w : Nat) : Int) - 1
    let y := if x < lo then lo else if hi < x then hi else x
    acc + (y % (2 ^ w : Nat)).toNat * 2 ^ (w * k)) 0

/-- UNPACK (R100). -/
def unpackN (t k v : Nat) : Nat :=
  let w := if t ≤ 1 then 16 else if t ≤ 5 then 8 else 4
  let e := bits v (w * k) w
  match t with
  | 0 => unpackF f16 e
  | 1 => unpackF bf16 e
  | 2 => unpackF e4m3 e
  | 3 => unpackF e5m2 e
  | _ => if t % 2 = 0 && bit e (w - 1) then e + (2 ^ 32 - 2 ^ w) else e

/-- The seven special functions (R101). -/
def specialFn (fn : Nat) (r : Rnd) (v : Nat) : Nat × BitVec 5 :=
  match fn with
  | 0 => rcpF r v
  | 1 => rsqF r v
  | 2 => sqrtF r v
  | 3 => ex2F v
  | 4 => lg2F v
  | 5 => trigF false v
  | _ => trigF true v

/-- Groups in which no lane takes the word: its label enters the flags' label all the same (R55). -/
def idleFlags (w : Wx) (s : State) : State :=
  (idleGroups w (w.act s)).foldl (fun s' g => s'.modGrp g fun x => { x with lflags := x.lflags ||| w.label s g }) s

/-- The asynchronous path: one result in flight per lane, its flags with it (R102). -/
def specialAsync (fn : Nat) (s : State) (w : Wx) : Eff :=
  let dst := w.sh.dsts.headD (.r 116#7)
  .done (issueLanes (idleFlags w s) w (if dst = .r 116#7 then none else some dst) fun t =>
    let v := w.values s t
    let r := specialFn fn (rndOf w.b.advs) (arg v.1 0)
    { kind := .special, tid := t, result := cellsOf r.1 v.2 1, resFlags := if v.2 then 0 else r.2, stage := .returned })

/-- RCP, RSQ and SQRT take the synchronous path when a guard-true thread has an enable set (R102); the others never do. -/
def specialEff (fn : Nat) (s : State) (w : Wx) : Eff :=
  if decide (fn ≤ 2) && (w.act s).any (fun t => decide ((s.thr t).fpctl ≠ 0)) then
    roundEff (fun r v => specialFn fn r (arg v 0)) s w
  else specialAsync fn s w

/-- SPECIAL_FUNCTION_RESULT: the result is written, and its flags and label merge (R55, R102). -/
def execSpecialFunctionResult (acc : Nat) (s : State) : Out :=
  .next (match tfind s.accs acc with
    | some a =>
      if a.kind = .special then
        (arrive s acc a).modThr a.tid (orFlags a.resFlags) |>.modGrp (gidOf a.tid) fun g => { g with lflags := g.lflags ||| a.label }
      else s
    | none => s)

/-- One round of Philox4x32 (R106). -/
def philoxRound (c : List Nat) (k0 k1 : Nat) : List Nat :=
  let h0 := 0xD2511F53 * arg c 0
  let h1 := 0xCD9E8D57 * arg c 2
  [(w32 (h1 / 2 ^ 32) ^^^ w32 (arg c 1) ^^^ w32 k0).toNat, h1 % 2 ^ 32,
   (w32 (h0 / 2 ^ 32) ^^^ w32 (arg c 3) ^^^ w32 k1).toNat, h0 % 2 ^ 32]

/-- The rounds of Philox4x32, the keys bumped between them (R106). -/
def philox : Nat → List Nat → Nat → Nat → List Nat
  | 0, c, _, _ => c
  | n + 1, c, k0, k1 => philox n (philoxRound c k0 k1) ((k0 + 0x9E3779B9) % 2 ^ 32) ((k1 + 0xBB67AE85) % 2 ^ 32)

/-- The four words of RNG4 as one number. -/
def rng4N (ctr k0 k1 : Nat) : Nat :=
  let c := philox 10 [wordN ctr 0, wordN ctr 1, wordN ctr 2, wordN ctr 3] k0 k1
  arg c 0 + arg c 1 * 2 ^ 32 + arg c 2 * 2 ^ 64 + arg c 3 * 2 ^ 96

/-- The lanes of RNG4: poisoned by any counter word or either key register, whichever half of it is (R107). -/
def rngEff (k : Nat) (s : State) (w : Wx) : Eff :=
  let outs := (w.act s).map fun t =>
    let k0 := readG s (gidOf t) k
    let k1 := readG s (gidOf t) (k + 1)
    let c := readOpnd s t (w.srcs.headD (.r 116#7))
    ({ tid := t, val := rng4N (wordsVal c) (k0.val.toNat % 2 ^ 32) (k1.val.toNat % 2 ^ 32)
       poison := anyPoison c || k0.plo || k0.phi || k1.plo || k1.phi } : LaneOut)
  .done (writeOuts s w (w.sh.dsts.headD (.r 116#7)) outs (w.label s))

/-- FADD (R87). -/
def execFadd (g : BitVec 4) (d a b : BitVec 7) (s : State) : Out :=
  runWord (.fadd g d a b) s (roundEff fun r v => f32.add r (arg v 0) (arg v 1))

/-- FSUB (R87). -/
def execFsub (g : BitVec 4) (d a b : BitVec 7) (s : State) : Out :=
  runWord (.fsub g d a b) s (roundEff fun r v => f32.sub r (arg v 0) (arg v 1))

/-- FMUL (R87). -/
def execFmul (g : BitVec 4) (d a b : BitVec 7) (s : State) : Out :=
  runWord (.fmul g d a b) s (roundEff fun r v => f32.mul r (arg v 0) (arg v 1))

/-- FFMA (R88). -/
def execFfma (g : BitVec 4) (d a b : BitVec 7) (s : State) : Out :=
  runWord (.ffma g d a b) s (roundEff fun r v => f32.fma r false false (arg v 0) (arg v 1) (arg v 2))

/-- FFMS (R88). -/
def execFfms (g : BitVec 4) (d a b : BitVec 7) (s : State) : Out :=
  runWord (.ffms g d a b) s (roundEff fun r v => f32.fma r false true (arg v 0) (arg v 1) (arg v 2))

/-- FFNMA (R88). -/
def execFfnma (g : BitVec 4) (d a b : BitVec 7) (s : State) : Out :=
  runWord (.ffnma g d a b) s (roundEff fun r v => f32.fma r true false (arg v 0) (arg v 1) (arg v 2))

/-- FMIN (R89). -/
def execFmin (g : BitVec 4) (d a b : BitVec 7) (s : State) : Out :=
  runWord (.fmin g d a b) s (fpEff fun v => f32.minmax false false (arg v 0) (arg v 1))

/-- FMAX (R89). -/
def execFmax (g : BitVec 4) (d a b : BitVec 7) (s : State) : Out :=
  runWord (.fmax g d a b) s (fpEff fun v => f32.minmax false true (arg v 0) (arg v 1))

/-- FNEG (R90). -/
def execFneg (g : BitVec 4) (d a : BitVec 7) (s : State) : Out :=
  runWord (.fneg g d a) s (aluEff fun v => (w32 (arg v 0) ^^^ 0x80000000#32).toNat)

/-- FABS (R90). -/
def execFabs (g : BitVec 4) (d a : BitVec 7) (s : State) : Out :=
  runWord (.fabs g d a) s (aluEff fun v => arg v 0 % 2 ^ 31)

/-- FCLASS (R91). -/
def execFclass (g : BitVec 4) (d a : BitVec 7) (s : State) : Out :=
  runWord (.fclass g d a) s (aluEff fun v => Sys2Proof.Machine.fclass (arg v 0))

/-- FCMP (R34, R92). -/
def execFcmp (g : BitVec 4) (p : BitVec 3) (c : BitVec 4) (a b : BitVec 7) (s : State) : Out :=
  runWord (.fcmp g p c a b) s (fpEff fun v =>
    let r := Sys2Proof.Machine.fcmp c.toNat (arg v 0) (arg v 1)
    (ofBool r.1, r.2))

/-- HADD2.f16 (R93). -/
def execHadd2F16 (g : BitVec 4) (d a b : BitVec 7) (s : State) : Out :=
  runWord (.hadd2F16 g d a b) s (roundEff fun r => packed fun v => f16.add r (arg v 0) (arg v 1))

/-- HMUL2.f16 (R93). -/
def execHmul2F16 (g : BitVec 4) (d a b : BitVec 7) (s : State) : Out :=
  runWord (.hmul2F16 g d a b) s (roundEff fun r => packed fun v => f16.mul r (arg v 0) (arg v 1))

/-- HFMA2.f16 (R93). -/
def execHfma2F16 (g : BitVec 4) (d a b : BitVec 7) (s : State) : Out :=
  runWord (.hfma2F16 g d a b) s (roundEff fun r => packed fun v => f16.fma r false false (arg v 0) (arg v 1) (arg v 2))

/-- HMIN2.f16 (R93, R94). -/
def execHmin2F16 (g : BitVec 4) (d a b : BitVec 7) (s : State) : Out :=
  runWord (.hmin2F16 g d a b) s (roundEff fun r => packed fun v => f16.minmax r.ftz false (arg v 0) (arg v 1))

/-- HMAX2.f16 (R93, R94). -/
def execHmax2F16 (g : BitVec 4) (d a b : BitVec 7) (s : State) : Out :=
  runWord (.hmax2F16 g d a b) s (roundEff fun r => packed fun v => f16.minmax r.ftz true (arg v 0) (arg v 1))

/-- HADD2.bf16 (R93). -/
def execHadd2Bf16 (g : BitVec 4) (d a b : BitVec 7) (s : State) : Out :=
  runWord (.hadd2Bf16 g d a b) s (roundEff fun r => packed fun v => bf16.add r (arg v 0) (arg v 1))

/-- HMUL2.bf16 (R93). -/
def execHmul2Bf16 (g : BitVec 4) (d a b : BitVec 7) (s : State) : Out :=
  runWord (.hmul2Bf16 g d a b) s (roundEff fun r => packed fun v => bf16.mul r (arg v 0) (arg v 1))

/-- HFMA2.bf16 (R93). -/
def execHfma2Bf16 (g : BitVec 4) (d a b : BitVec 7) (s : State) : Out :=
  runWord (.hfma2Bf16 g d a b) s (roundEff fun r => packed fun v => bf16.fma r false false (arg v 0) (arg v 1) (arg v 2))

/-- HMIN2.bf16 (R93, R94). -/
def execHmin2Bf16 (g : BitVec 4) (d a b : BitVec 7) (s : State) : Out :=
  runWord (.hmin2Bf16 g d a b) s (roundEff fun r => packed fun v => bf16.minmax r.ftz false (arg v 0) (arg v 1))

/-- HMAX2.bf16 (R93, R94). -/
def execHmax2Bf16 (g : BitVec 4) (d a b : BitVec 7) (s : State) : Out :=
  runWord (.hmax2Bf16 g d a b) s (roundEff fun r => packed fun v => bf16.minmax r.ftz true (arg v 0) (arg v 1))

/-- CVT to a float type (R95, R96). -/
def execCvtToFloat (g : BitVec 4) (d a : BitVec 7) (t : BitVec 3) (src : BitVec 4) (s : State) : Out :=
  runWord (.cvtToFloat g d a t src) s (roundEff fun r v => cvtF r t.toNat src.toNat (arg v 0))

/-- CVT to an integer type (R95, R97). -/
def execCvtToInt (g : BitVec 4) (d a : BitVec 7) (t : BitVec 3) (src : BitVec 4) (s : State) : Out :=
  runWord (.cvtToInt g d a t src) s (roundEff fun r v => cvtI r t.toNat src.toNat (arg v 0))

/-- PACK.f16x2 (R98). -/
def execPackF16x2 (g : BitVec 4) (d a b : BitVec 7) (s : State) : Out :=
  runWord (.packF16x2 g d a b) s (roundEff fun r v =>
    let lo := packF f16 r (arg v 0)
    let hi := packF f16 r (arg v 1)
    (lo.1 + hi.1 * 65536, lo.2 ||| hi.2))

/-- PACK.bf16x2 (R98). -/
def execPackBf16x2 (g : BitVec 4) (d a b : BitVec 7) (s : State) : Out :=
  runWord (.packBf16x2 g d a b) s (roundEff fun r v =>
    let lo := packF bf16 r (arg v 0)
    let hi := packF bf16 r (arg v 1)
    (lo.1 + hi.1 * 65536, lo.2 ||| hi.2))

/-- PACK.e4m3x4 (R99). -/
def execPackE4m3x4 (g : BitVec 4) (d a : BitVec 7) (s : State) : Out :=
  runWord (.packE4m3x4 g d a) s (roundEff fun r v => packF4 e4m3 r (arg v 0))

/-- PACK.e5m2x4 (R99). -/
def execPackE5m2x4 (g : BitVec 4) (d a : BitVec 7) (s : State) : Out :=
  runWord (.packE5m2x4 g d a) s (roundEff fun r v => packF4 e5m2 r (arg v 0))

/-- PACK of integers (R99). -/
def execPackI8x4 (g : BitVec 4) (d a : BitVec 7) (s : State) : Out :=
  runWord (.packI8x4 g d a) s (aluEff fun v => packInts 4 8 true (arg v 0))

/-- PACK of integers (R99). -/
def execPackN8x4 (g : BitVec 4) (d a : BitVec 7) (s : State) : Out :=
  runWord (.packN8x4 g d a) s (aluEff fun v => packInts 4 8 false (arg v 0))

/-- PACK of integers (R99). -/
def execPackI4x8 (g : BitVec 4) (d a : BitVec 7) (s : State) : Out :=
  runWord (.packI4x8 g d a) s (aluEff fun v => packInts 8 4 true (arg v 0))

/-- PACK of integers (R99). -/
def execPackN4x8 (g : BitVec 4) (d a : BitVec 7) (s : State) : Out :=
  runWord (.packN4x8 g d a) s (aluEff fun v => packInts 8 4 false (arg v 0))

/-- UNPACK (R100). -/
def execUnpack (g : BitVec 4) (d a : BitVec 7) (t k : BitVec 3) (s : State) : Out :=
  runWord (.unpack g d a t k) s (aluEff fun v => unpackN t.toNat k.toNat (arg v 0))

/-- RCP (R101 to R105). -/
def execRcp (g : BitVec 4) (d a : BitVec 7) (s : State) : Out :=
  runWord (.rcp g d a) s (specialEff 0)

/-- RSQ (R101 to R105). -/
def execRsq (g : BitVec 4) (d a : BitVec 7) (s : State) : Out :=
  runWord (.rsq g d a) s (specialEff 1)

/-- SQRT (R101 to R105). -/
def execSqrt (g : BitVec 4) (d a : BitVec 7) (s : State) : Out :=
  runWord (.sqrt g d a) s (specialEff 2)

/-- EX2 (R101 to R105). -/
def execEx2 (g : BitVec 4) (d a : BitVec 7) (s : State) : Out :=
  runWord (.ex2 g d a) s (specialEff 3)

/-- LG2 (R101 to R105). -/
def execLg2 (g : BitVec 4) (d a : BitVec 7) (s : State) : Out :=
  runWord (.lg2 g d a) s (specialEff 4)

/-- SIN (R101 to R105). -/
def execSin (g : BitVec 4) (d a : BitVec 7) (s : State) : Out :=
  runWord (.sin g d a) s (specialEff 5)

/-- COS (R101 to R105). -/
def execCos (g : BitVec 4) (d a : BitVec 7) (s : State) : Out :=
  runWord (.cos g d a) s (specialEff 6)

/-- RNG4 (R106, R107). -/
def execRng4 (g : BitVec 4) (d a : BitVec 7) (k : BitVec 6) (s : State) : Out :=
  runWord (.rng4 g d a k) s (rngEff k.toNat)

end Sys2Proof.Machine
end

