-- ==== Sys2Proof/Machine/Lanes.lean ====
section
/-! DEFINITION. Whole-group words: shuffles, permutations, reductions, scans, votes, and the transfer slots (R110 to
R126), and the execution of a parked group (R270). -/

namespace Sys2Proof.Machine

/-- The thread of a lane of a group. -/
def tidAt (gid lane : Nat) : Nat := gid * 64 + lane

/-- The word of a present lane; absent lanes give none (R111). -/
def laneCell (s : State) (tids : List Nat) (gid : Nat) (o : Opnd) (lane : Nat) : Option Cell :=
  if tids.contains (tidAt gid lane) then (readOpnd s (tidAt gid lane) o).head? else none

/-- The fill word as a lane reads it (R111). -/
def fillCell (s : State) (w : Wx) (t : Nat) : Cell :=
  match w.b.advs.xopnd with
  | none => {}
  | some f => readReg s t f.toNat

/-- What a destination lane takes: a word, and whether it consumes a poisoned word of another lane (R113). -/
structure Taken where
  tid : Nat
  cell : Cell
  consumed : Bool
  flags : BitVec 5 := 0
  deriving DecidableEq, Repr

/-- Write what lanes took, or trap on consumed poison (R113): the lanes that fail, and so have the own bit, are those that receive the
poisoned word, not the lane that holds it (DEDUCED, log entry 84). -/
def takenEff (s : State) (w : Wx) (ts : List Taken) (dst : Opnd) (fl : Bool) : Eff :=
  match ts.filter (·.consumed) with
  | [] =>
    let outs := ts.map fun t => ({ tid := t.tid, val := t.cell.val.toNat, poison := t.cell.poison, flags := t.flags } : LaneOut)
    let s1 := writeOuts s w dst outs (w.label s)
    .done (if fl then mergeFlags s1 w outs (w.label s) else s1)
  | bad => .fail (bad.map fun t => { tid := t.tid, cause := 0x12 })

/-- The group a whole-group bundle holds. -/
def Wx.gid (w : Wx) : Nat := gidOf (w.b.tids.headD 0)

/-- A gather: each guard-true lane takes the word of the lane its count chooses, or its fill (R114, R115). -/
def gatherEff (src : Nat → Nat → Option Nat) (d a b : BitVec 7) (s : State) (w : Wx) : Eff :=
  let gid := w.gid
  let ts := (w.act s).map fun t =>
    let n := readReg s t b.toNat
    let from_ := match src (laneOf t) n.val.toNat with
      | some l => (laneCell s w.b.tids gid (.r a) l).map fun c => (l, c)
      | none => none
    match from_ with
    | some (l, c) => ({ tid := t, cell := c, consumed := n.poison || (c.poison && decide (l ≠ laneOf t)) } : Taken)
    | none => { tid := t, cell := fillCell s w t, consumed := n.poison }
  takenEff s w ts (.r d) false

/-- SHFL.rot (R114). -/
def execShflRot (g : BitVec 4) (d a b : BitVec 7) (s : State) : Out :=
  runWord (.shflRot g d a b) s (gatherEff (fun l n => some ((l + n % 64) % 64)) d a b)

/-- SHFL.xor (R114). -/
def execShflXor (g : BitVec 4) (d a b : BitVec 7) (s : State) : Out :=
  runWord (.shflXor g d a b) s (gatherEff (fun l n => some (BitVec.ofNat 6 l ^^^ BitVec.ofNat 6 n).toNat) d a b)

/-- SHFL.up (R114). -/
def execShflUp (g : BitVec 4) (d a b : BitVec 7) (s : State) : Out :=
  runWord (.shflUp g d a b) s (gatherEff (fun l n => if n ≤ l then some (l - n) else none) d a b)

/-- SHFL.down (R114). -/
def execShflDown (g : BitVec 4) (d a b : BitVec 7) (s : State) : Out :=
  runWord (.shflDown g d a b) s (gatherEff (fun l n => if l + n < 64 then some (l + n) else none) d a b)

/-- GBCAST (R115). -/
def execGbcast (g : BitVec 4) (d a b : BitVec 7) (s : State) : Out :=
  runWord (.gbcast g d a b) s (gatherEff (fun _ n => if n < 64 then some n else none) d a b)

/-- The 352 bits PERMSET loads (R116). -/
def permWord (s : State) (gid k : Nat) : BitVec 352 :=
  BitVec.ofNat 352 ((upto 5).foldl (fun acc i => acc + (readG s gid (k + i)).val.toNat * 2 ^ (64 * i)) 0 +
    (readG s gid (k + 5)).val.toNat % 2 ^ 32 * 2 ^ 320)

/-- A half that PERMSET reads is poisoned (R116). -/
def permPoison (s : State) (gid k : Nat) : Bool :=
  (upto 5).any (fun i => (readG s gid (k + i)).plo || (readG s gid (k + i)).phi) || (readG s gid (k + 5)).plo

/-- PERMSET loads a control word in every group whose guard is true in some lane (R51, R116). -/
def permsetEff (n k : Nat) (s : State) (w : Wx) : Eff :=
  let act := w.act s
  match act.filter fun t => permPoison s (gidOf t) k with
  | [] =>
    let s1 := (groupsOf act).foldl (fun s g => s.modGrp g fun x => { x with c := sset {} x.c n { val := permWord s g k } }) s
    .done ((groupsOf w.b.tids).foldl (fun s' g => s'.modGrp g (labelOpnd (wholeWrite s act g) (w.label s g) (.c n))) s1)
  | bad => .fail (bad.map fun t => { tid := t, cause := 0x12 })

/-- PERMSET (R116). -/
def execPermset (g : BitVec 4) (n k : BitVec 7) (s : State) : Out := runWord (.permset g n k) s (permsetEff n.toNat k.toNat)

/-- The dimension of a stage (R117). -/
def stageDim (st : Nat) : Nat := if st ≤ 5 then 5 - st else st - 5

/-- Where the network's output i comes from before a stage: the switch of its pair exchanges them or not (R117). -/
def stageFrom (c : BitVec 352) (st i : Nat) : Nat :=
  let d := stageDim st
  let lo := if i / 2 ^ d % 2 = 1 then i - 2 ^ d else i
  let j := lo / 2 ^ (d + 1) * 2 ^ d + lo % 2 ^ d
  if c.getLsbD (32 * st + j) then (if i / 2 ^ d % 2 = 1 then i - 2 ^ d else i + 2 ^ d) else i

/-- The input position that reaches output i, stages 10 down to 0. -/
def permFrom (c : BitVec 352) (i : Nat) : Nat := (upto 11).foldl (fun p st => stageFrom c (10 - st) p) i

/-- PERM: each guard-true lane takes the word its control word routes to it, 0 for an absent lane (R118). -/
def permEff (d a : BitVec 7) (n : Nat) (s : State) (w : Wx) : Eff :=
  let gid := w.gid
  let c := sget ({} : CCell) (s.grp gid).c n
  let ts := (w.act s).map fun t =>
    let l := permFrom c.val (laneOf t)
    let x := (laneCell s w.b.tids gid (.r a) l).getD {}
    ({ tid := t, cell := { x with poison := x.poison || c.poison }, consumed := x.poison && decide (l ≠ laneOf t) } : Taken)
  takenEff s w ts (.r d) false

/-- PERM (R117, R118). -/
def execPerm (g : BitVec 4) (d a : BitVec 7) (c : BitVec 3) (s : State) : Out := runWord (.perm g d a c) s (permEff d a c.toNat)

/-- The operations of RED and SCAN, with the flags of a step (R119, R121). -/
def redOp (o : Nat) (a b : Nat) : Nat × BitVec 5 :=
  match o with
  | 0 => ((a + b) % 2 ^ 32, 0)
  | 1 => f32.add {} a b
  | 2 => (if i32 b < i32 a then b else a, 0)
  | 3 => (if i32 a < i32 b then b else a, 0)
  | 4 => (min a b, 0)
  | 5 => (max a b, 0)
  | 6 => ((w32 a &&& w32 b).toNat, 0)
  | _ => ((w32 a ||| w32 b).toNat, 0)

/-- The identities of the operations (R120). -/
def redId (o : Nat) : Nat :=
  match o with
  | 2 => 0x7FFFFFFF
  | 3 => 0x80000000
  | 4 | 6 => 0xFFFFFFFF
  | _ => 0

/-- One level of the pairwise tree, left operand first (R120). -/
def redLevel (o : Nat) : List Nat → List Nat × BitVec 5
  | a :: b :: r =>
    let x := redOp o a b
    let y := redLevel o r
    (x.1 :: y.1, x.2 ||| y.2)
  | l => (l, 0)

/-- The levels of the tree. -/
def redTree (o : Nat) : Nat → List Nat → BitVec 5 → Nat × BitVec 5
  | 0, l, fl => (l.headD 0, fl)
  | n + 1, l, fl => let r := redLevel o l; redTree o n r.1 (fl ||| r.2)

/-- One step of the prefix at a distance: x[i - d] with x[i] (R120). -/
def scanLevel (o d : Nat) (x : List Nat) : List Nat × BitVec 5 :=
  let pairs := (x.zip (x.drop d)).map fun p => redOp o p.1 p.2
  (x.take d ++ pairs.map (·.1), pairs.foldl (fun f p => f ||| p.2) 0)

/-- The log-step prefix. -/
def scanTree (o : Nat) : Nat → Nat → List Nat → BitVec 5 → List Nat × BitVec 5
  | 0, _, x, fl => (x, fl)
  | n + 1, d, x, fl => let r := scanLevel o d x; scanTree o n (2 * d) r.1 (fl ||| r.2)

/-- The 64 source words, the fill at absent positions, and which positions are poisoned (R111, R120). The fill is read in
the lowest-numbered present lane. -/
def redSources (s : State) (w : Wx) (a : BitVec 7) : List Cell :=
  let fill := fillCell s w ((minOf w.b.tids).getD 0)
  (upto 64).map fun l => (laneCell s w.b.tids w.gid (.r a) l).getD fill

/-- The lane that reads the word of a position: its own, or the lowest present one for a fill (R111). -/
def readerOf (w : Wx) (l : Nat) : Nat := if w.b.tids.contains (tidAt w.gid l) then tidAt w.gid l else (minOf w.b.tids).getD 0

/-- A poisoned word at one of the first n positions is delivered to another lane than t (R113). -/
def deliveredPoison (w : Wx) (xs : List Cell) (t n : Nat) : Bool :=
  (((upto 64).zip xs).take n).any fun e => e.2.poison && decide (readerOf w e.1 ≠ t)

/-- Lane t has a poisoned source: one of the first n positions, which its result takes, or a word it reads itself. It sets no flag (R72). -/
def sourcePoison (w : Wx) (xs : List Cell) (t n : Nat) : Bool :=
  ((upto 64).zip xs).any fun e => e.2.poison && (decide (e.1 < n) || decide (readerOf w e.1 = t))

/-- RED (R119 to R121). -/
def redEff (d a : BitVec 7) (o : Nat) (s : State) (w : Wx) : Eff :=
  let xs := redSources s w a
  let r := redTree o 6 (xs.map (·.val.toNat)) 0
  let ts := (w.act s).map fun t =>
    ({ tid := t, cell := { val := w32 r.1, poison := anyPoison xs }, consumed := deliveredPoison w xs t 64
       flags := if sourcePoison w xs t 64 then 0 else r.2 } : Taken)
  takenEff s w ts (.r d) (decide (o = 1))

/-- SCAN, inclusive or exclusive (R119 to R121). -/
def scanEff (d a : BitVec 7) (o : Nat) (excl : Bool) (s : State) (w : Wx) : Eff :=
  let xs := redSources s w a
  let r := scanTree o 6 1 (xs.map (·.val.toNat)) 0
  let ts := (w.act s).map fun t =>
    let l := laneOf t
    let n := if excl then l else l + 1
    ({ tid := t
       cell := { val := w32 (if excl then (if l = 0 then redId o else arg r.1 (l - 1)) else arg r.1 l), poison := anyPoison (xs.take n) }
       consumed := deliveredPoison w xs t n
       flags := if sourcePoison w xs t n then 0 else r.2 } : Taken)
  takenEff s w ts (.r d) (decide (o = 1))

/-- RED (R119). -/
def execRed (g : BitVec 4) (d a : BitVec 7) (o : BitVec 3) (s : State) : Out := runWord (.red g d a o) s (redEff d a o.toNat)

/-- SCAN (R119). -/
def execScan (g : BitVec 4) (d a : BitVec 7) (o : BitVec 3) (x : BitVec 1) (s : State) : Out :=
  runWord (.scan g d a o x) s (scanEff d a o.toNat (decide (x = 1)))

/-- A vote: the result of the present lanes' predicates, written to each guard-true lane (R122). -/
def voteEff (p : Nat) (f : List (Nat × Bool) → Nat) (s : State) (w : Wx) : Eff :=
  let ps := w.b.tids.map fun t => (t, readPred s t p)
  let v := f (ps.map fun e => (laneOf e.1, e.2.val))
  let bad := (w.act s).filter fun t => ps.any fun e => e.2.poison && decide (e.1 ≠ t)
  match bad with
  | [] => .done (writeOuts s w (w.sh.dsts.headD (.p 1)) ((w.act s).map fun t =>
      { tid := t, val := v, poison := (readPred s t p).poison }) (w.label s))
  | _ => .fail (bad.map fun t => { tid := t, cause := 0x12 })

/-- VOTE.any (R122). -/
def execVoteAny (g : BitVec 4) (p q : BitVec 3) (s : State) : Out :=
  runWord (.voteAny g p q) s (voteEff q.toNat fun l => ofBool (l.any (·.2)))

/-- VOTE.all (R122). -/
def execVoteAll (g : BitVec 4) (p q : BitVec 3) (s : State) : Out :=
  runWord (.voteAll g p q) s (voteEff q.toNat fun l => ofBool (l.all (·.2)))

/-- VOTE.ballot (R122). -/
def execVoteBallot (g : BitVec 4) (d : BitVec 7) (q : BitVec 3) (s : State) : Out :=
  runWord (.voteBallot g d q) s (voteEff q.toNat fun l => l.foldl (fun acc e => acc + if e.2 then 2 ^ e.1 else 0) 0)

/-- VOTE.eq (R122). -/
def execVoteEq (g : BitVec 4) (p q : BitVec 3) (s : State) : Out :=
  runWord (.voteEq g p q) s (voteEff q.toNat fun l => ofBool (l.all (·.2) || l.all (!·.2)))

/-! Transfer slots (R123 to R126). -/

/-- A transfer slot of a workgroup. -/
def slotOf (s : State) (w k : Nat) : XSlot := (tfind (s.wg w).mem.slots k).getD {}

/-- Change a transfer slot. -/
def modSlot (s : State) (w k : Nat) (f : XSlot → XSlot) : State :=
  s.modMem w fun m => { m with slots := tput m.slots k (f ((tfind m.slots k).getD {})) }

/-- What a send puts into a slot: the word of every present lane with its poison bit, 0 elsewhere, and the label (R124). -/
def sendData (s : State) (w : Wx) (a : BitVec 7) : XData :=
  { gid := w.gid, label := w.label s w.gid, since := s.now.toNat
    data := w.b.tids.foldl (fun m t => sset {} m (laneOf t) (readReg s t a.toNat)) [] }

/-- XGSEND fills an empty slot for which nobody waits, else the group waits, parked (R124). -/
def xgsendEff (a : BitVec 7) (k : Nat) (s : State) (w : Wx) : Eff :=
  let wg := wgOf (w.b.tids.headD 0)
  let x := slotOf s wg k
  let d := sendData s w a
  if x.full.isNone && x.senders.isEmpty then .done (modSlot s wg k fun x => { x with full := some d })
  else .gone (modSlot (parkBundle s w) wg k fun x => { x with senders := x.senders ++ [d] })

/-- XGSEND (R123, R124). -/
def execXgsend (g : BitVec 4) (a : BitVec 7) (k : BitVec 4) (s : State) : Out := runWord (.xgsend g a k) s (xgsendEff a k.toNat)

/-- XGRECV posts a receive and sets the scoreboard bits, or waits, parked, while another is posted (R124). -/
def xgrecvEff (d : BitVec 7) (k : Nat) (s : State) (w : Wx) : Eff :=
  let wg := wgOf (w.b.tids.headD 0)
  let act := w.act s
  if (slotOf s wg k).posted.isSome then .gone (parkBundle s w)
  else
    let s1 := act.foldl (fun s t => s.modThr t (sbSet [d.toNat])) s
    let p : Posted :=
      { gid := w.gid, reg := d.toNat, tids := act, label := w.label s w.gid, whole := wholeWrite s act w.gid, pc := w.b.pc }
    .done (modSlot s1 wg k fun x => { x with posted := some p })

/-- XGRECV (R123, R124). -/
def execXgrecv (g : BitVec 4) (d : BitVec 7) (k : BitVec 4) (s : State) : Out := runWord (.xgrecv g d k) s (xgrecvEff d k.toNat)

/-- The lanes of a group parked at a word in which the word takes effect. -/
def parkedAct (s : State) (gid : Nat) : List Nat :=
  let l := liveOf s gid
  let x := s.thr (l.headD 0)
  let cid := (s.wg (gid / 16)).cid
  match instrAt s (s.vfOf (gid / 16)) cid x.pc with
  | some i => (mkWx s i (cid * 4) { tids := l, pc := x.pc, pos := x.pos, advs := x.advs }).act s
  | none => l

/-- A group whose word has taken effect while it was parked, its ADV.SCHED with it, goes on after the word when it is next executed
(R24, R270). -/
def passParked (s : State) (gid : Nat) : State :=
  let l := liveOf s gid
  l.foldl (fun s t => s.modThr t fun x => { x with pc := x.pc + 4, pos := x.pos + 1, advs := {} })
    ((scheduled s (s.thr (l.headD 0)).advs (parkedAct s gid)).modGrp gid fun g => { g with ready := true })

/-- The sender served next: oldest wait first, then ascending group (R124). -/
def firstSender : List XData → Option XData
  | [] => none
  | x :: r => match firstSender r with
    | none => some x
    | some y => some (if y.since < x.since ∨ (y.since = x.since ∧ y.gid < x.gid) then y else x)

/-- A waiting send can fill its slot. -/
def canFill (s : State) (wg k : Nat) : Bool := (slotOf s wg k).full.isNone && !(slotOf s wg k).senders.isEmpty

/-- XGSEND_SLOT_FILL: a waiting send finds its slot empty (R124). -/
def execXgsendSlotFill (wg slot : Nat) (s : State) : Out :=
  .next (match canFill s wg slot, firstSender (slotOf s wg slot).senders with
    | true, some d => passParked (modSlot s wg slot fun x =>
        { x with full := some d, senders := x.senders.filter fun e => !decide (e.gid = d.gid) }) d.gid
    | _, _ => s)

/-- A posted receive can take its slot. -/
def canTake (s : State) (wg k : Nat) : Bool := (slotOf s wg k).full.isSome && (slotOf s wg k).posted.isSome

/-- A lane takes its word of a slot. -/
def takeSlot (s : State) (p : Posted) (d : XData) (t : Nat) : State :=
  let c := sget ({} : Cell) d.data (laneOf t)
  s.modThr t fun x => notePoison c.poison p.pc (sbClear [p.reg] (writeField x p.reg c))

/-- XGRECV_DELIVERY: a posted receive takes a full slot and empties it (R124). -/
def execXgrecvDelivery (wg slot : Nat) (s : State) : Out :=
  let x := slotOf s wg slot
  .next (match x.full, x.posted with
    | some d, some p =>
      let s1 := (p.tids.filter fun t => alive (s.thr t)).foldl (fun s t => takeSlot s p d t) s
      let s2 := s1.modGrp p.gid (labelFields p.whole (p.label ||| d.label) [p.reg] false)
      modSlot s2 wg slot fun x => { x with full := none, posted := none }
    | _, _ => s)

/-! Parked groups (R267, R270). -/

/-- The group waits for a slot: a send that is queued, or a receive while another is posted. -/
def slotWaits (s : State) (gid : Nat) : Bool :=
  (s.wg (gid / 16)).mem.slots.any fun e => e.2.senders.any fun d => decide (d.gid = gid)

/-- The group waits for an AM bank (R217). -/
def bankWaits (s : State) (gid : Nat) : Bool :=
  (s.cu (s.wg (gid / 16)).cid).banks.any fun e => e.2.waits.any fun w => decide (w.gid = gid)

/-- The word a group has parked at is a receive on a slot that has one posted. -/
def recvBlocked (s : State) (gid : Nat) (x : Thread) : Bool :=
  match instrAt s (s.vfOf (gid / 16)) (s.wg (gid / 16)).cid x.pc with
  | some (.xgrecv _ _ k) => (slotOf s (gid / 16) k.toNat).posted.isSome
  | _ => false

/-- A group's live threads are all parked at one word and nothing else holds them (R270). -/
def parkedTogether (s : State) (gid : Nat) : Bool :=
  let l := liveOf s gid
  let x := s.thr (l.headD 0)
  !l.isEmpty && l.all (fun t => decide ((s.thr t).picker = .parked ∧ (s.thr t).pc = x.pc)) && (s.grp gid).arrival.isNone &&
  !bankWaits s gid && !slotWaits s gid && ((s.grp gid).ready || !recvBlocked s gid x)

/-- A workgroup that a context's pre-emption rolls back and stops: checkpointed or paired, outside tile-work units (R406,
R419). -/
def stoppedBy (s : State) (w : Nat) : Bool :=
  let g := s.wg w
  (s.ctx (s.vfOf w)).preempting.isSome && decide (g.mode ≠ .plain) && !unitWg g

/-- A workgroup's threads may be picked: not halted, its context resident, no rollback, commit or save under way
(R402, R406, R418). -/
def wgRuns (s : State) (w : Nat) : Bool :=
  let g := s.wg w
  !g.halted && !g.retry && (s.ctx (s.vfOf w)).resident && !(s.cu g.cid).save.saved && !stoppedBy s w && !flushing s w && !budgetOver s w

/-- The same thread of the other member of a pair. -/
def twinThr (s : State) (t : Nat) : Thread := match (s.wg (wgOf t)).twin with | some h => s.thr (h * 1024 + tixOf t) | none => {}

/-- How the other member's interval has ended. -/
def twinEnd (s : State) (w : Nat) : Option IntervalEnd := (s.wg w).twin.bind fun h => (s.wg h).endAt

/-- A parked group of a workgroup whose interval has ended stays as it is (R418); an anaphor follows an antecedent that has
been stopped by the buffer or the limit, up to where its thread stands (R434). -/
def groupStays (s : State) (gid : Nat) : Bool :=
  let w := gid / 16
  let g := s.wg w
  match g.mode, twinEnd s w with
  | .ana, some e =>
    if e.limit then
      let t := (liveOf s gid).headD 0
      decide ((twinThr s t).picker = .parked ∧ (twinThr s t).pc = (s.thr t).pc ∧ (twinThr s t).sentences ≤ (s.thr t).sentences)
    else g.endAt.isSome
  | _, _ => g.endAt.isSome

/-- A parked group may execute now. -/
def groupRuns (s : State) (gid : Nat) : Bool := wgRuns s (gid / 16) && !groupStays s gid && parkedTogether s gid

/-- The parked groups of a CU that can execute, with the cycle they became whole. -/
def wholeParked (s : State) (cid : Nat) : List (Nat × Nat) :=
  (s.groups.filter fun e => decide ((s.wg (e.1 / 16)).cid = cid) && groupRuns s e.1).map
    fun e => (e.1, (liveOf s e.1).foldl (fun m t => max m (s.thr t).readyAt) 0)

/-- A parked group comes before another: it became whole earlier, then workgroup index, then gi (R267, R270; log entry 69). -/
def parkedBefore (s : State) (a b : Nat × Nat) : Bool :=
  let i := (s.wg (a.1 / 16)).index; let j := (s.wg (b.1 / 16)).index
  decide (a.2 < b.2 ∨ (a.2 = b.2 ∧ (i < j ∨ (i = j ∧ (a.1 % 16 < b.1 % 16 ∨ (a.1 % 16 = b.1 % 16 ∧ a.1 < b.1))))))

/-- The first of the parked groups (R267). -/
def oldestParked (s : State) : List (Nat × Nat) → Option (Nat × Nat)
  | [] => none
  | e :: r => match oldestParked s r with
    | none => some e
    | some f => some (if parkedBefore s f e then f else e)

/-- Another group that parked in one bundle with this one stands at the same word on a pipe and has not executed it yet (R270). -/
def mateRuns (s : State) (gid : Nat) : Bool :=
  let l := liveOf s gid
  let pc := (s.thr (l.headD 0)).pc
  s.pipes.any fun e => decide (e.2.pc = pc) && e.2.tids.any fun t => decide (gidOf t ≠ gid) &&
    l.any fun u => decide ((s.thr u).parkRide = (s.thr t).parkRide)

/-- The parked group of a CU that executes next: the oldest that can, one after another where they parked in one bundle (R267,
R270). -/
def parkedChoice (s : State) (cid : Nat) : Option Nat :=
  (oldestParked s ((wholeParked s cid).filter fun e => !mateRuns s e.1)).map (·.1)

/-- A pipe of the group's CU is free. -/
def pipeFree (s : State) (gid pipe : Nat) : Bool := decide (pipe < 4) && (tfind s.pipes ((s.wg (gid / 16)).cid * 4 + pipe)).isNone

/-- PARKED_GROUP_EXECUTE: the group whose turn it is becomes one bundle at the word (R267, R270); its next issue executes it (log
entry 7). -/
def execParkedGroupExecute (gid pipe : Nat) (s : State) : Out :=
  let cid := (s.wg (gid / 16)).cid
  .next (if groupRuns s gid && pipeFree s gid pipe && decide (parkedChoice s cid = some gid) then
    let l := liveOf s gid
    let x := s.thr (l.headD 0)
    let n := nextCycle s cid
    let s1 := l.foldl (fun s t => s.modThr t fun x => { x with picker := .running, ride := n }) s
    let s2 := s1.modGrp gid fun g => { g with ready := false }
    { s2 with pipes := tput s2.pipes (cid * 4 + pipe) { tids := l, pc := x.pc, pos := x.pos, advs := x.advs }, cycle := n }
  else s)

end Sys2Proof.Machine
end

