-- ==== Sys2Proof/Machine/Control.lean ====
section
/-! DEFINITION. Control transfers, PERIOD, LAND, traps, special registers, time, labels and adverbs (R22 to R28, R127 to
R147). -/

namespace Sys2Proof.Machine

/-- What a lane's transfer finds: the causes with their addresses, and where it goes. -/
structure Transfer where
  tid : Nat
  fails : List (Nat × DWord) := []
  target : DWord := 0
  push : Bool := false
  pop : Bool := false
  deriving DecidableEq, Repr

/-- A full return stack (R132). -/
def stackFull (s : State) (t : Nat) : Bool := decide ((s.grp (gidOf t)).retdepth ≤ (s.thr t).rstack.length)

/-- The failing causes of a target (R127). -/
def targetFails (s : State) (vf cid : Nat) (pc : DWord) : List (Nat × DWord) :=
  match targetCause s vf cid pc with
  | none => []
  | some c => [(c, pc)]

/-- A lane that transfers: its stack changes, and where its next sentence starts. -/
def transferLane (s : State) (w : Wx) (x : Transfer) : State :=
  s.modThr x.tid fun t =>
    let ctx := (s.grp (gidOf x.tid)).ctx
    { t with
      jump := some x.target
      rstack := if x.push then (w.b.pc + 8, ctx) :: t.rstack else if x.pop then t.rstack.tail else t.rstack }

/-- The lanes transfer, or trap with the causes found, after the context label raise (R58, R127). -/
def transferEff (s : State) (w : Wx) (l : List Transfer) : Eff :=
  match (l.map fun x => x.fails.map fun c => ({ tid := x.tid, cause := c.1, addr := c.2 } : Fail)).flatten with
  | [] => .done (l.foldl (fun s x => transferLane s w x) s)
  | bad => .failRaised s bad

/-- Raise the context label of a group. -/
def raiseCtx (s : State) (gid : Nat) (l : Label) : State := s.modGrp gid fun g => { g with ctx := g.ctx ||| l }

/-- The target of BRA and CALL (R31). -/
def branchTarget (pc : DWord) (o : BitVec 21) : DWord := pc + (o.signExtend 64) * 4

/-- BRA (R31, R128). -/
def execBra (g : BitVec 4) (o : BitVec 21) (s : State) : Out :=
  runWord (.bra g o) s fun s w =>
    let tg := branchTarget w.b.pc o
    transferEff s w ((w.act s).map fun t => { tid := t, fails := targetFails s w.vf w.cid tg, target := tg })

/-- CALL (R128, R132). -/
def execCall (g : BitVec 4) (o : BitVec 21) (s : State) : Out :=
  runWord (.call g o) s fun s w =>
    let tg := branchTarget w.b.pc o
    transferEff s w ((w.act s).map fun t =>
      { tid := t, fails := (if stackFull s t then [(0x0A, 0)] else []) ++ targetFails s w.vf w.cid tg, target := tg, push := true })

/-- Lanes whose words of an operand are poisoned consume them: cause 0x12 (R414). -/
def poisonFails (s : State) (ts : List Nat) (o : Opnd) : List Fail :=
  (ts.filter fun t => anyPoison (readOpnd s t o)).map fun t => { tid := t, cause := 0x12 }

/-- One lane of CALLX: poisoned pair, stack, target, landing pad (R127, R130, R132, R414). -/
def callxLane (s : State) (w : Wx) (a : BitVec 7) (t : Nat) : Transfer :=
  let v := wordsVal (readOpnd s t (.pair a))
  let tg := d64 (v % 2 ^ 48)
  let tf := targetFails s w.vf w.cid tg
  let pad := match instrAt s w.vf w.cid tg with
    | some (.land l) => decide (l.toNat = v / 2 ^ 48)
    | _ => false
  { tid := t, target := tg, push := true
    fails := (if stackFull s t then [(0x0A, 0)] else []) ++ tf ++ (if tf.isEmpty && !pad then [(0x08, 0)] else []) ++
      if anyPoison (readOpnd s t (.pair a)) then [(0x12, 0)] else [] }

/-- CALLX (R58, R130). -/
def callxEff (a : BitVec 7) (s : State) (w : Wx) : Eff :=
  let s1 := (groupsOf w.b.tids).foldl (fun s g => raiseCtx s g (opndLabel s g (.pair a))) s
  transferEff s1 w ((w.act s).map (callxLane s1 w a))

/-- CALLX (R130). -/
def execCallx (g : BitVec 4) (a : BitVec 7) (s : State) : Out := runWord (.callx g a) s (callxEff a)

/-- RET: pops the top entry, raises the context label by its label, transfers (R58, R132). -/
def retEff (s : State) (w : Wx) : Eff :=
  let act := w.act s
  let s1 := act.foldl (fun s t => match (s.thr t).rstack with
    | [] => s
    | e :: _ => raiseCtx s (gidOf t) e.2) s
  transferEff s1 w (act.map fun t => match (s.thr t).rstack with
    | [] => { tid := t, fails := [(0x0A, 0)] }
    | e :: _ => { tid := t, fails := targetFails s1 w.vf w.cid e.1, target := e.1, pop := true })

/-- RET (R132). -/
def execRet (g : BitVec 4) (s : State) : Out := runWord (.ret g) s retEff

/-- NOP (R134). -/
def execNop (g : BitVec 4) (s : State) : Out := runWord (.nop g) s fun s _ => .done s

/-- YIELD (R134). -/
def execYield (g : BitVec 4) (s : State) : Out :=
  runWord (.yield g) s fun s w => .done ((w.act s).foldl (fun s t => s.modThr t fun x => { x with yielded := true }) s)

/-- LAND (R131). -/
def execLand (l : BitVec 16) (s : State) : Out := runWord (.land l) s fun s _ => .done s

/-- PERIOD: its own checks, then the sentence ends (R25, R28). -/
def execPeriod (x y z : BitVec 7) (s : State) : Out :=
  match tfind s.pipes s.turn with
  | none => .next s
  | some b =>
    if b.fence.isSome then .next s
    else
      let w := mkWx s (.period x y z) s.turn b
      let fs := ([x, y, z].map (·.toNat)).filter (· < 112)
      if !legal w.i then .next (takeTrap s b.tids (faultReq b 0x01 b.tids))
      else if !fs.all (allotOk (w.leadGrp s).vregs (w.leadGrp s).oregs) then .next (takeTrap s b.tids (faultReq b 0x02 b.tids))
      else .next (endSentence s s.turn b fs)

/-- A trap of the kind "after", raised only if some lane's guard is true (R136, R141). -/
def afterEff (cause : Nat) (detail : BitVec 8) (s : State) (w : Wx) : Eff :=
  let act := w.act s
  if act.isEmpty then .done s
  else .gone (takeTrap (scheduled s w.b.advs act) w.b.tids
    { cause := cause, detail := detail, pc := w.b.pc, rpc := w.b.pc + 4, pos := min 24 (w.b.pos + 1), kind := 1, own := act })

/-- TRAP (R141). -/
def execTrap (g : BitVec 4) (c : BitVec 7) (s : State) : Out := runWord (.trap g c) s (afterEff 0x15 (c.zeroExtend 8))

/-- BKPT (R141). -/
def execBkpt (g : BitVec 4) (s : State) : Out := runWord (.bkpt g) s (afterEff 0x16 0)

/-- TRET: legal in a handler only; the resumption point is checked before any effect (R140). -/
def tretEff (s : State) (w : Wx) : Eff :=
  let bad := (w.b.tids.map fun t =>
    if !(s.thr t).frame.inh then [({ tid := t, cause := 0x01 } : Fail)]
    else if !tretOk s t then [{ tid := t, cause := 0x07 }] else []).flatten
  if bad.isEmpty then .gone (returnTrap (scheduled s w.b.advs w.b.tids) w.pipe w.b.tids) else .fail bad

/-- TRET (R140). -/
def execTret (s : State) : Out := runWord .tret s tretEff

/-- CTXYIELD ends the thread's cooperative save (R142). It asks for inh and the cause code 0x17 alone, so a thread that has them while no
pre-emption is under way is not picked again before the next restore (DEDUCED, log entry 85). -/
def ctxyieldEff (s : State) (w : Wx) : Eff :=
  match w.b.tids.filter fun t => !((s.thr t).frame.inh && decide ((s.thr t).cause = 0x17)) with
  | [] => .done (w.b.tids.foldl (fun s t => s.modThr t fun x => { x with saved := true }) s)
  | bad => .fail (bad.map fun t => { tid := t, cause := 0x01 })

/-- CTXYIELD (R142). -/
def execCtxyield (s : State) : Out := runWord .ctxyield s ctxyieldEff

/-! Special registers (R52, R53, R137, R143, R144). -/

/-- The trap-frame status register (R137). -/
def tfstat (f : TrapFrame) : Nat :=
  ofBool f.inh * 2 ^ 31 + ofBool f.own * 2 ^ 30 + f.kind.toNat * 2 ^ 28 + f.pos.toNat * 2 ^ 20 + f.tw.toNat * 2 ^ 16 + f.rsd.toNat

/-- What a lane reads of a special register (R52, R53, R137). -/
def srValue (s : State) (t n : Nat) : Nat :=
  let x := s.thr t
  let g := s.grp (gidOf t)
  if 0x40 ≤ n then (readG s (gidOf t) (n - 0x40)).val.toNat
  else match n with
    | 0x00 => 64
    | 0x01 => 16
    | 0x02 => x.fpflags.toNat
    | 0x03 => x.fpctl.toNat
    | 0x04 => x.wct.toNat
    | 0x05 => s.now.toNat
    | 0x06 => g.dom.toNat * 2 ^ 24 + g.ctx.toNat
    | 0x07 => x.detail.toNat * 2 ^ 8 + x.cause.toNat
    | 0x08 => s.cidOf t % 8
    | 0x09 => Config.devIndex.toNat * 2 ^ 8 + s.cidOf t / 8
    | 0x0A => x.octTile * 2 ^ 24 + x.octCopy * 2 ^ 16 + x.octStore * 2 ^ 8 + x.octLoad
    | 0x0B => ofBool x.unalloc
    | 0x10 => x.frame.tfpc.toNat
    | 0x11 => x.frame.tfrpc.toNat
    | 0x12 => tfstat x.frame
    | 0x13 => x.frame.tfaddr.toNat
    | 0x14 => x.frame.tfdpc.toNat
    | 0x15 | 0x16 | 0x17 | 0x18 => (sget ({} : Cell) x.frame.tft (n - 0x15)).val.toNat
    | 0x19 => g.tvec.toNat
    | _ => 0

/-- A special register read is poisoned: a group register's halves, a saved temporary. -/
def srPoison (s : State) (t n : Nat) : Bool :=
  if 0x40 ≤ n then (readG s (gidOf t) (n - 0x40)).plo || (readG s (gidOf t) (n - 0x40)).phi
  else if 0x15 ≤ n ∧ n ≤ 0x18 then (sget ({} : Cell) (s.thr t).frame.tft (n - 0x15)).poison else false

/-- The label a special register reads with (R52, R137). -/
def srLabel (s : State) (tids : List Nat) (gid n : Nat) : Label :=
  let g := s.grp gid
  if 0x40 ≤ n then sget 0 g.lg (n - 0x40)
  else match n with
    | 0x02 => g.lflags
    | 0x03 => g.lfpctl
    | 0x00 | 0x01 | 0x05 | 0x08 | 0x09 => 0
    | 0x15 | 0x16 | 0x17 | 0x18 =>
      orAll ((tids.filter fun t => gidOf t == gid).map fun t => sget 0 (s.thr t).frame.tftLabel (n - 0x15))
    | _ => g.ctx

/-- A transcript binds the launch's placement (R344). -/
def transcriptApplied (l : Launch) : Bool := decide (l.tvec ≠ 0) && l.treplay && !l.tskip

/-- The determinism cause an SRD writes (R349). -/
def srCause (s : State) (w : Wx) (n : Nat) : State :=
  let l := (s.wg (wgOf (w.b.tids.headD 0))).launch
  if (w.act s).isEmpty then s
  else if n = 0x05 then detCauseIf s l 0x06 w.b.pc
  else if (n = 0x08 ∨ n = 0x09) ∧ !transcriptApplied (s.launch l) then detCauseIf s l 0x07 w.b.pc
  else s

/-- SRD (R143; the label on read is the source's label in R54, log entry 15). -/
def srdEff (n : Nat) (s : State) (w : Wx) : Eff :=
  let act := w.act s
  let outs := act.map fun t => ({ tid := t, val := srValue s t n, poison := srPoison s t n } : LaneOut)
  .done (srCause (writeOuts s w (w.sh.dsts.headD (.r 116#7)) outs fun g => w.label s g ||| srLabel s act g n) w n)

/-- SRD (R143). -/
def execSrd (g : BitVec 4) (d sr : BitVec 7) (s : State) : Out := runWord (.srd g d sr) s (srdEff sr.toNat)

/-- SWR's change of a thread's register (R53, R137, R143). -/
def swrThread (n : Nat) (cs : List Cell) (set : Bool) (l : Label) (x : Thread) : Thread :=
  let v := wordsVal cs
  match n with
  | 0x02 => { x with fpflags := BitVec.ofNat 5 v }
  | 0x03 => { x with fpctl := BitVec.ofNat 5 v }
  | 0x07 => { x with cause := BitVec.ofNat 6 v, detail := BitVec.ofNat 8 (v / 2 ^ 8) }
  | 0x0B => { x with unalloc := x.unalloc && !bit v 0 }
  | 0x11 => { x with frame := { x.frame with tfrpc := d64 v } }
  | 0x12 => { x with frame := { x.frame with pos := BitVec.ofNat 5 (v / 2 ^ 20), tw := BitVec.ofNat 4 (v / 2 ^ 16) } }
  | 0x15 | 0x16 | 0x17 | 0x18 =>
    let f := x.frame
    let lb := if set then l else sget 0 f.tftLabel (n - 0x15) ||| l
    { x with frame := { f with tft := sset ({} : Cell) f.tft (n - 0x15) (cs.headD ({} : Cell)), tftLabel := sset 0 f.tftLabel (n - 0x15) lb } }
  | _ => x

/-- SWR's change of a group's register: the lowest guard-true lane's value (R51). -/
def swrGroup (n : Nat) (cs : List Cell) (g : Group) : Group :=
  if 0x40 ≤ n then
    let v : GCell := { val := d64 (wordsVal cs), plo := (cs.headD ({} : Cell)).poison, phi := ((cs[1]?).getD ({} : Cell)).poison }
    { g with g := sset {} g.g (n - 0x40) v }
  else if n = 0x19 then { g with tvec := d64 (bits (wordsVal cs) 2 46 * 4) } else g

/-- The label SWR gives a group's special register (R54, R55). -/
def swrLabel (n : Nat) (set : Bool) (l : Label) (g : Group) : Group :=
  if 0x40 ≤ n then { g with lg := putLabel set g.lg (n - 0x40) l }
  else match n with
    | 0x02 => { g with lflags := if set then l else g.lflags ||| l }
    | 0x03 => { g with lfpctl := if set then l else g.lfpctl ||| l }
    | _ => g

/-- A register that only a whole-group bundle may write (R50, R143). -/
def groupSr (n : Nat) : Bool := decide (0x40 ≤ n ∨ n = 0x19)

/-- SWR: flags wait for special functions in flight (R144); steering registers take no label beyond the context's (R139);
group registers need the whole group (R50). -/
def swrEff (n : Nat) (s : State) (w : Wx) : Eff :=
  let act := w.act s
  let src := w.srcs.headD (.r 116#7)
  if decide (n = 0x02) && act.any (fun t => (accsOf s t).any fun e => decide (e.2.kind = .special)) then .hold s
  else
    let lbl := if n = 0x11 ∨ n = 0x12 ∨ n = 0x19 then
        (act.filter fun t => decide (opndLabel s (gidOf t) src &&& ~~~(s.grp (gidOf t)).ctx ≠ 0)).map fun t => ({ tid := t, cause := 0x05 } : Fail)
      else []
    let div := if groupSr n then
        (w.b.tids.filter fun t => !holdsGroup s w.b.tids (gidOf t)).map fun t => ({ tid := t, cause := 0x19 } : Fail)
      else []
    if !(lbl ++ div).isEmpty then .fail (lbl ++ div)
    else
      let s1 := if groupSr n then
          (groupsOf act).foldl (fun s' g => match lowestIn act g with
            | some t => s'.modGrp g (swrGroup n (readOpnd s t src))
            | none => s') s
        else act.foldl (fun s' t => s'.modThr t (swrThread n (readOpnd s t src) (wholeWrite s act (gidOf t)) (w.label s (gidOf t)))) s
      .done ((groupsOf w.b.tids).foldl (fun s' g => s'.modGrp g (swrLabel n (wholeWrite s act g) (w.label s g))) s1)

/-- SWR (R143). -/
def execSwr (g : BitVec 4) (a sr : BitVec 7) (s : State) : Out := runWord (.swr g a sr) s (swrEff sr.toNat)

/-- DTIME: device time at issue, and a hold at the boundary when a time is named (R145). -/
def dtimeEff (d a : BitVec 7) (s : State) (w : Wx) : Eff :=
  let act := w.act s
  match poisonFails s act (.pair a) with
  | [] =>
    let s1 := writeOuts s w (.pair d) (act.map fun t => { tid := t, val := s.now.toNat }) (w.label s)
    let s2 := if a = 116#7 then s1 else act.foldl (fun s' t => s'.modThr t fun x =>
      { x with holds := x.holds ++ [.dtime (d64 (wordsVal (readOpnd s t (.pair a))))] }) s1
    .done (if act.isEmpty then s2 else detCauseIf s2 (s.wg (wgOf (w.b.tids.headD 0))).launch 0x06 w.b.pc)
  | bad => .fail bad

/-- DTIME (R145). -/
def execDtime (g : BitVec 4) (d a : BitVec 7) (s : State) : Out := runWord (.dtime g d a) s (dtimeEff d a)

/-- LBLR: domain and label of the register named; the result's label is the context label (R146). -/
def lblrEff (d a : BitVec 7) (s : State) (w : Wx) : Eff :=
  .done (writeOuts s w (.r d) ((w.act s).map fun t =>
    { tid := t, val := (s.grp (gidOf t)).dom.toNat * 2 ^ 24 + (fieldLabel s (gidOf t) a.toNat).toNat }) fun g => (s.grp g).ctx)

/-- LBLR (R146). -/
def execLblr (g : BitVec 4) (d a : BitVec 7) (s : State) : Out := runWord (.lblr g d a) s (lblrEff d a)

/-- LBLRAISE: the mask of the guard-true lanes and the sources' labels are ORed in (R147). -/
def lblraiseEff (t a : BitVec 7) (s : State) (w : Wx) : Eff :=
  let act := w.act s
  match poisonFails s act (.r a) with
  | [] => .done ((groupsOf w.b.tids).foldl (fun s' g =>
      let mask := orAll ((act.filter fun x => gidOf x == g).map fun x => (readReg s x a.toNat).val.truncate 16)
      let l := mask ||| w.label s g
      if t = 116#7 then raiseCtx s' g l else s'.modGrp g (labelOpnd false l (.r t))) s)
  | bad => .fail bad

/-- LBLRAISE (R147). -/
def execLblraise (g : BitVec 4) (t a : BitVec 7) (s : State) : Out := runWord (.lblraise g t a) s (lblraiseEff t a)

/-! Adverbs (R22 to R24) and undecodable words (R33). -/

/-- ADV.IMM (R23). -/
def execAdvImm (p : BitVec 25) (s : State) : Out := runWord (.advImm p) s (adverbEff fun a => { a with imm := some p })

/-- ADV.ROUND (R24): saturate, flush, mode. -/
def execAdvRound (x f : BitVec 1) (m : BitVec 2) (s : State) : Out :=
  runWord (.advRound x f m) s (adverbEff fun a => { a with round := some (x ++ f ++ m) })

/-- ADV.MEMHINT (R24): cache policy and lease request. -/
def execAdvMemhint (l : BitVec 4) (c : BitVec 2) (s : State) : Out :=
  runWord (.advMemhint l c) s (adverbEff fun a => { a with hint := some (l ++ c) })

/-- ADV.XOPND (R24). -/
def execAdvXopnd (r : BitVec 7) (s : State) : Out := runWord (.advXopnd r) s (adverbEff fun a => { a with xopnd := some r })

/-- ADV.SCHED (R24): priority hint and yield. -/
def execAdvSched (p : BitVec 3) (y : BitVec 1) (s : State) : Out :=
  runWord (.advSched p y) s (adverbEff fun a => { a with sched := some (p ++ y) })

/-- ILLEGAL_ENCODING: a bundle reaches a word that is no instruction (R30, R33, R135). -/
def execIllegalEncoding (_word : Word) (s : State) : Out :=
  .next (match tfind s.pipes s.turn with
    | none => s
    | some b => if b.fence.isSome then s else takeTrap s b.tids (faultReq b 0x01 b.tids))

end Sys2Proof.Machine
end

