-- ==== Sys2Proof/Machine/Picker.lean ====
section
/-! DEFINITION. The picker: forming bundles, and the end of the holds at a sentence boundary (R28, R265 to R267). -/

namespace Sys2Proof.Machine

/-- A thread may start a sentence: no interval of its workgroup has ended (R418). An anaphor trails its antecedent, so that it
can stop where that stopped (R434; log entry 34); where the antecedent was stopped by the buffer or the limit, it goes on to
the same number of sentences. -/
def mayStart (s : State) (t : Nat) (x : Thread) : Bool :=
  let g := s.wg (wgOf t)
  match g.mode, twinEnd s (wgOf t) with
  | .ana, some e => if e.limit then decide (x.sentences < (twinThr s t).sentences) else g.endAt.isNone
  | .ana, none => g.endAt.isNone && (decide (x.sentences < (twinThr s t).sentences) || !alive (twinThr s t))
  | _, _ => g.endAt.isNone

/-- A thread is ready and nothing keeps the picker from it (R265, R406). -/
def pickable (s : State) (cid t : Nat) (x : Thread) : Bool :=
  decide (x.picker = .ready) && decide ((s.wg (wgOf t)).cid = cid) && !x.saved && !(x.signalled && !x.frame.inh && decide (x.pos = 0)) &&
    wgRuns s (wgOf t) && (decide (x.pos ≠ 0) || mayStart s t x)

/-- The ready threads of a CU. -/
def readyOf (s : State) (cid : Nat) : List Nat := (s.threads.filter fun e => pickable s cid e.1 e.2).map (·.1)

/-- A thread's priority: its launch's, lowered by a hint (R266). -/
def prioOf (s : State) (t : Nat) : Nat :=
  let p := (s.launchOf (wgOf t)).prio
  match (s.thr t).hint with
  | none => p
  | some k => min p k

/-- The order of ready times, ties by workgroup index, gi, lane (R267), and of two launches' threads that agree in these by
workgroup number (log entry 69). -/
def readyBefore (s : State) (a b : Nat) : Bool :=
  let x := (s.thr a).readyAt; let y := (s.thr b).readyAt
  let i := (s.wg (wgOf a)).index; let j := (s.wg (wgOf b)).index
  decide (x < y ∨ (x = y ∧ (i < j ∨ (i = j ∧ (tixOf a < tixOf b ∨ (tixOf a = tixOf b ∧ a < b))))))

/-- Insert a thread in ready order. -/
def insertReady (s : State) (a : Nat) : List Nat → List Nat
  | [] => [a]
  | b :: r => if readyBefore s a b then a :: b :: r else b :: insertReady s a r

/-- Threads in ready order. -/
def sortReady (s : State) (l : List Nat) : List Nat := l.foldr (insertReady s) []

/-- The lead of the next bundle (R267). -/
def leadOf (s : State) (l : List Nat) : Option Nat :=
  let p := l.foldl (fun m t => max m (prioOf s t)) 0
  (sortReady s (l.filter fun t => decide (prioOf s t = p))).head?

/-- A thread may ride the lead's bundle: same next word, launch and role (R267); inside a sentence only with the threads of its own
bundle (R140, R268). -/
def rides (s : State) (lead t : Nat) : Bool :=
  let x := s.thr lead; let y := s.thr t
  decide (x.pc = y.pc ∧ x.pos = y.pos ∧ x.advs = y.advs ∧ (s.wg (wgOf lead)).launch = (s.wg (wgOf t)).launch ∧ (s.wg (wgOf lead)).hdr = (s.wg (wgOf t)).hdr ∧
    (s.grp (gidOf lead)).role = (s.grp (gidOf t)).role ∧ (x.pos = 0 ∨ x.ride = y.ride))

/-- Fill the bundle: at most 64 threads, at most four in a slot (R267). -/
def fillBundle : List Nat → List Nat → List Nat
  | b, [] => b
  | b, t :: r =>
    if b.length < 64 ∧ (b.filter fun u => laneOf u % 16 == laneOf t % 16).length < 4 then fillBundle (b ++ [t]) r
    else fillBundle b r

/-- A thread starts to run in the bundle of a number; at position 0 it starts a sentence (R45, R266). -/
def startThread (ride : Nat) (x : Thread) : Thread :=
  if x.pos = 0 then { x with picker := .running, written := 0, sentences := x.sentences + 1, hint := none, yielded := false, ride := ride }
  else { x with picker := .running }

/-- Put threads on a pipe: a pick, after which every thread that waits on the CU is older than what becomes ready (R272). -/
def runOn (s : State) (p : Nat) (ts : List Nat) : State :=
  let x := s.thr (ts.headD 0)
  let n := nextCycle s (p / 4)
  let s1 := ts.foldl (fun s t => s.modThr t (startThread n)) s
  { s1 with pipes := tput s1.pipes p { tids := ts, pc := x.pc, pos := x.pos, advs := x.advs }, cycle := n }

/-- The bundle of ready threads the picker forms (R267). -/
def formBundle (s : State) (cid : Nat) : Option (List Nat) :=
  let l := readyOf s cid
  match leadOf s l with
  | none => none
  | some lead => some (fillBundle [lead] ((sortReady s l).filter fun t => decide (t ≠ lead) && rides s lead t))

/-- BUNDLE_PICK: a free pipe takes a parked group that can execute, else a bundle of ready threads (R267). -/
def execBundlePick (cid pipe : Nat) (s : State) : Out :=
  if pipe < 4 ∧ (tfind s.pipes (cid * 4 + pipe)).isNone then
    match parkedChoice s cid with
    | some gid => execParkedGroupExecute gid pipe s
    | none => .next (match formBundle s cid with
      | none => s
      | some ts => runOn s (cid * 4 + pipe) ts)
  else .next s

/-- A held thread whose holds have ended becomes ready (R265). -/
def releaseHolds (s : State) (t : Nat) (keep : Hold → Bool) : State :=
  let hs := (s.thr t).holds.filter keep
  let r := readyTime s t
  s.modThr t fun x => if hs.isEmpty then { x with holds := [], picker := .ready, readyAt := r, yielded := false } else { x with holds := hs }

/-- An await that is still unmet (R28). -/
def awaitUnmet (x : Thread) : Hold → Bool
  | .await r => sbBit x r
  | _ => true

/-- THREAD_READY: the last PERIOD await of a held thread ends (R28, R265). -/
def execThreadReady (tid : Nat) (s : State) : Out :=
  let x := s.thr tid
  .next (if decide (x.picker = .held) && !x.holds.any (awaitUnmet x) then releaseHolds s tid (awaitUnmet x) else s)

/-- A DTIME wait that has ended (R145). -/
def dtimeOver (s : State) : Hold → Bool
  | .dtime t => decide (t.toNat ≤ s.now.toNat)
  | _ => false

/-- DTIME_WAIT_END: device time has reached the target (R145). Awaits met by then end with it. -/
def execDtimeWaitEnd (tid : Nat) (s : State) : Out :=
  let x := s.thr tid
  .next (if decide (x.picker = .held) && x.holds.any (dtimeOver s) then
    releaseHolds s tid fun h => !dtimeOver s h && awaitUnmet x h else s)

end Sys2Proof.Machine
end

