-- ==== Sys2Proof/Machine/Mem.lean ====
section
/-! DEFINITION. The memory side: homes, leases, copies, pins, page labels, refusals, scratchpad (R154 to R166, R169, R274
to R291, R298, R352 to R364, R412, R413, R428). -/

namespace Sys2Proof.Machine

/-- The cores whose L2 slices the device has (R3, R453). -/
def slicesOf (s : State) : List Nat := (upto 32).filter fun k => s.pkg.enabledCores.getLsbD k

/-- The core whose L2 slice is the home of a line: the hash over the slices is not stated (R3, R274; free value, log entry 5). -/
def homeOf (s : State) (line : Nat) : Nat := ((slicesOf s)[Config.homeHash line % (slicesOf s).length]?).getD 0

/-- A line of a host range (R279). -/
def hostLine (line : Nat) : Bool := decide (lineSpace line = .host)

/-- The line is homed on another device of the pod: only of such lines does an L2 slice hold copies (R274). -/
def peerLine (s : State) (line : Nat) : Bool := decide (lineSpace line = .mem) && (s.page (64 * line)).dev.isSome

/-! Bytes (R428). -/

/-- The shadow of a page that a replayable launch has written (R428). -/
def shadowOf (s : State) (l : Nat) (ia : Nat) : Option (Table Byte) :=
  if (s.launch l).replay then tfind (s.launch l).shadowPages (ia / 65536) else none

/-- Where the argument block of a launch lies. -/
def argPlace (s : State) (la : Launch) : Option (Space × Nat) := (rangeOf s la.vf la.args).map fun r => (spaceOf r.2, iaOf r.2 la.args)

/-- A launch queued again after a reset reads its argument block from the saved copy (R428). -/
def argPatch (s : State) (l : Nat) (sp : Space) (m : Table Byte) : Table Byte :=
  let la := s.launch l
  if la.requeued then
    match argPlace s la with
    | some (sp', a) => if sp = sp' then writeBytes m a la.argCopy else m
    | none => m
  else m

/-- Bytes as a launch reads them. -/
def memRead (s : State) (l : Nat) (sp : Space) (ia n : Nat) : List Byte :=
  match sp with
  | .mem => match shadowOf s l ia with
    | some m => readBytes m ia n
    | none => readBytes (argPatch s l .mem s.mem) ia n
  | sp => readBytes (argPatch s l sp (s.store sp)) ia n

/-- The bytes of a page. -/
def pageBytes (m : Table Byte) (page : Nat) : Table Byte := m.filter fun e => decide (e.1 / 65536 = page)

/-- Write bytes as a launch writes them: the first write of a replayable launch to a page copies it (R428). -/
def memWrite (s : State) (l : Nat) (sp : Space) (ia : Nat) (bs : List Byte) : State :=
  match sp with
  | .mem =>
    if (s.launch l).replay then
      let m := (shadowOf s l ia).getD (pageBytes (argPatch s l .mem s.mem) (ia / 65536))
      s.modLaunch l fun x => { x with shadowPages := tput x.shadowPages (ia / 65536) (writeBytes m ia bs) }
    else clearMarks { s with mem := writeBytes s.mem ia bs } ia bs.length
  | sp => s.setStore sp (writeBytes (s.store sp) ia bs)

/-- Words of bytes, each poisoned where its bytes are (R412). -/
def cellsOfBytes (bs : List Byte) (bad : Nat → Bool) : Nat → Nat → List Cell
  | 0, _ => []
  | n + 1, k => { val := BitVec.ofNat 32 (leNat ((bs.drop (4 * k)).take 4)), poison := bad k } :: cellsOfBytes bs bad n (k + 1)

/-- The result words of a load of w bytes (R19). -/
def loadCells (bs : List Byte) (w : Nat) (signed : Bool) (bad : Nat → Bool) : List Cell :=
  if 4 ≤ w then cellsOfBytes bs bad (w / 4) 0
  else
    let v := leNat bs
    [{ val := w32 (if signed && bit v (8 * w - 1) then v + (2 ^ 32 - 2 ^ (8 * w)) else v), poison := bad 0 }]

/-- The 8-byte grains of a line of memory that fail or carry markers, by number in the line (R412). -/
def failedGrains (s : State) (sp : Space) (base : Nat) : List Nat :=
  (upto 8).filter fun i => decide (sp = .mem) && byteBad s (base + 8 * i)

/-- A part of a line, byte by byte, and whether each byte comes poisoned. -/
def LineView.part (v : LineView) (off n : Nat) : List (Byte × Bool) :=
  ((v.bytes.drop off).take n).zip ((upto n).map fun i => v.bad.contains ((off + i) / 8))

/-- The result words of a load of w bytes: a word is poisoned where one of its bytes is (R19, R412). -/
def cellsOfPart (l : List (Byte × Bool)) (w : Nat) (signed : Bool) : List Cell :=
  loadCells (l.map (·.1)) w signed fun k => ((l.drop (4 * k)).take 4).any (·.2)

/-- Some context can write an IA page. -/
def writable (s : State) (page : Nat) : Bool :=
  s.ctxs.any fun e => e.2.ranges.any fun r => bit (rangeWord r.2 3) 63 && permW r.2 && decide (spaceOf r.2 = .mem) &&
    decide (bits (rangeWord r.2 2) 16 36 ≤ page) &&
    decide (page ≤ bits (rangeWord r.2 2) 16 36 + bits (rangeWord r.2 1) 16 32 - bits (rangeWord r.2 0) 16 32)

/-- The frame of a page that no party writes is retired: counted, kept from every pool, and its page migrates, or waits for the
host's reply in host-assisted mode (R425, R449). -/
def retireFrame (s : State) (vf ia : Nat) : State :=
  let p := s.page ia
  if p.retired || !p.b || writable s (ia / 65536) then s
  else
    let host := bit (s.part (s.partOf vf)).mode.toNat 3
    let s1 := (countVf s vf 3 0 16).modPkg fun k => { k with retired := k.retired ++ [(p.tier, p.dev, p.frame)] }
    let s2 := s1.modPage ia fun p => { p with retired := true, goal := if host then none else some (0, none) }
    if host then postPf s2 { type := 0x0A, vf := vf, addr := d64 (ia / 65536 * 65536), reply := true } else s2

/-- A grain that has been read, counted and reported: a media error, an integrity violation, a correction (R412, R424, R431). -/
def noteGrain (vf : Nat) (s : State) (g : Grain) (a : Nat) : State :=
  match g with
  | .good => s
  | .correctable => countCorr s vf
  | .marker => countMedia s vf
  | .uncorrectable => retireFrame (postPf (countMedia s vf) { type := 8, addr := d64 a }) vf a
  | .badTag => postPf (countVf s vf 1 32 32) { type := 8, addr := d64 a }

/-- Grains that have been read are corrected where they can be (R412). -/
def correctGrains (ks : List Nat) (m : Table Grain) : Table Grain :=
  ks.foldl (fun m k => if sget .good m k = .correctable then sset .good m k .good else m) m

/-- Sectors of memory that have been read (R412, R424). -/
def noteSectors (s : State) (vf : Nat) (cs : List Nat) : State :=
  let s1 := cs.foldl (fun s k => noteGrain vf s (sget .good s.sectors k) (64 * k)) s
  { s1 with sectors := correctGrains cs s1.sectors }

/-- The failed grains of a span of memory, counted and reported (R412, R424, R431). -/
def detectMem (s : State) (vf : Nat) (sp : Space) (ia n : Nat) : State :=
  if sp ≠ .mem then s
  else
    let gs := dedup ((upto n).map fun i => (ia + i) / 8)
    let s1 := gs.foldl (fun s k => noteGrain vf s (sget .good s.grains k) (8 * k)) s
    noteSectors { s1 with grains := correctGrains gs s1.grains } vf (dedup ((upto n).map fun i => (ia + i) / 64))

/-- A write to part of a sector of an encrypted frame reads and checks the sector (R424). -/
def checkSectors (s : State) (vf : Nat) (sp : Space) (ia n : Nat) : State :=
  if sp = .mem ∧ (s.page ia).enc then
    noteSectors s vf ((dedup ((upto n).map fun i => (ia + i) / 64)).filter fun k => decide (64 * k < ia ∨ ia + n < 64 * k + 64))
  else s

/-! Leases (R279, R280). -/

/-- The lease entry of a line at its home; a new one starts at rung 5 and the retired bound; host lines stay at rung 1. -/
def leaseOf (s : State) (line : Nat) : Lease :=
  let c := s.core (homeOf s line)
  (tfind c.leases line).getD { rung := if hostLine line then 1 else 5, le := c.retired }

/-- Keep a lease entry; a slice that tracks 131 072 drops its first and keeps the later of the bounds (R280). -/
def putLease (s : State) (line : Nat) (e : Lease) : State :=
  s.modCore (homeOf s line) fun c =>
    let c := if 131072 ≤ c.leases.length && (tfind c.leases line).isNone then
        match c.leases with
        | (_, x) :: r => { c with leases := r, retired := if c.retired < x.le then x.le else c.retired }
        | [] => c
      else c
    { c with leases := tput c.leases line e }

/-- The length of a rung in ticks (R159). -/
def rungLen (j : Nat) : Nat := 16 * 2 ^ (j - 1)

/-- Grant a lease: the state and the lease end; the home records 2 ticks more for a requester on another device (R279, R281). -/
def grantLease (s : State) (line k : Nat) : State × DWord :=
  let e := leaseOf s line
  let len := if k = 0 then rungLen e.rung else min (rungLen e.rung) (rungLen k)
  let lend := s.now + d64 len
  let kept := lend + if peerLine s line then 2 else 0
  let e1 := { e with le := if e.le < kept then kept else e.le }
  let e2 := if e.quiet = 7 then { e1 with rung := if hostLine line then 1 else min 9 (e.rung + 1), quiet := 0 } else { e1 with quiet := e.quiet + 1 }
  (putLease s line e2, lend)

/-- A write at the home at this moment: the state and the write-completion time (R279). -/
def leaseWrite (s : State) (line : Nat) : State × DWord :=
  let e := leaseOf s line
  let wct := if e.le < s.now then s.now else e.le
  let rung := if s.now < e.le then max 1 (e.rung - 2) else e.rung
  (putLease s line { e with rung := if hostLine line then 1 else rung, quiet := 0 }, wct)

/-! Pins (R163, R288). -/

/-- Replace the pins of a holder. -/
def setPins (s : State) (h : Holder) (l : List Pin) : State :=
  if h < 32 then s.modCore h fun c => { c with pins := l } else s.modCu (h - 32) fun c => { c with pins := l }

/-- Every holder of a pin on a line. -/
def pinHolders (s : State) (line : Nat) : List Holder :=
  ((s.cores.filter fun e => e.2.pins.any fun p => p.line == line).map (·.1)) ++
  ((s.cus.filter fun e => e.2.pins.any fun p => p.line == line).map fun e => 32 + e.1)

/-- A pin held elsewhere than the holders named refuses an access (R163, R288). -/
def pinnedElsewhere (s : State) (own : List Holder) (line : Nat) : Bool := (pinHolders s line).any fun h => !own.contains h

/-- One who has waited on a pin waits still (R288). -/
def waitsStill (s : State) (w : Waiter) : Bool :=
  match w with
  | .acc id => match tfind s.accs id with | some a => decide (a.stage = .retry ∨ a.stage = .issued) | none => false
  | .cwait t => decide ((s.thr t).picker = .held) && (s.thr t).holds.any fun h => match h with | .cwait _ _ _ _ _ _ => true | _ => false
  | .bundle p pc => match tfind s.pipes p with | some b => decide (b.pc = pc) | none => false
  | .engine => true

/-- Somebody waits: the waiting is continuous while one of those noted before waits still (R288). -/
def Pin.noted (s : State) (w : Waiter) (p : Pin) : Pin :=
  let l := p.waiters.filter (waitsStill s)
  { p with waiters := if l.contains w then l else l ++ [w], waitSince := if l.isEmpty then some s.now else p.waitSince }

/-- An outside access waits on the pins of a line (R288). -/
def noteWait (s : State) (own : List Holder) (line : Nat) (w : Waiter) : State :=
  ((pinHolders s line).filter fun h => !own.contains h).foldl (fun s h =>
    setPins s h ((pinsOf s h).map fun p => if p.line = line then p.noted s w else p)) s

/-! Pages and labels (R154, R291, R352, R353, R362 to R364). -/

/-- The label data of a location carries at its home: the page's, or the range's for host and foreign memory (R364). -/
def storedLabel (s : State) (sp : Space) (r : List DWord) (ia : Nat) : Label :=
  match sp with
  | .mem => (s.page ia).label
  | _ => inlabelOf r

/-- Raise a page label: the domain is set when the label was 0 (R363); the page is dirty (R353). -/
def raisePage (s : State) (ia : Nat) (l : Label) (dom : BitVec 8) : State :=
  s.modPage ia fun p =>
    let p1 := if p.label = 0 ∧ l ≠ 0 then { p with dom := dom, domSet := true } else p
    { p1 with label := p.label ||| l, dirty := true }

/-- The IA lies in one of the partition's windows (R352). -/
def inWindows (s : State) (part ia : Nat) : Bool := (s.part part).windows.any fun e => decide (e.1 ≤ ia ∧ ia ≤ e.2)

/-- What the memory side answers to an access before it is performed. -/
inductive Side where
  | ok (s : State)
  | retry (s : State)
  | refused (cause : Nat)

/-- The memory side's checks of an access: windows, nr and nw, domains, principals; then backing, freezing (R156, R163,
R352 to R364). -/
def memSide (s : State) (vf : Nat) (dom : BitVec 8) (sp : Space) (r : List DWord) (ia : Nat) (wr : Bool) (l : Label) : Side :=
  match sp with
  | .mem =>
    let p := s.page ia
    if p.mov then .retry s
    else if !inWindows s (s.partOf vf) ia || (if wr then p.nw else p.nr) then .refused 4
    else if (decide (p.label ≠ 0) && decide (p.dom ≠ dom)) ||
        (wr && decide (l ≠ 0) && decide (p.label = 0) && p.domSet && decide (p.dom ≠ dom)) then .refused 5
    else if wr && linkDown s ia then .refused 4
    else match backPage s (s.partOf vf) r ia with
      | some s' => .ok s'
      | none => .retry (if p.posted || !bit (s.part (s.partOf vf)).mode.toNat 1 then s else postPf (s.modPage ia fun p => { p with posted := true }) { type := 3, vf := vf, addr := d64 ia })
  | _ => if wr && decide (l &&& ~~~(1#16 <<< prinOf r) ≠ 0) then .refused 5 else .ok s

/-- A device of the pod as a page entry's holder. -/
def devOf (d : BitVec 6) : Option (BitVec 6) := if d = Config.devIndex then none else some d

/-- A candidate count has reached the threshold of the page's partition: the page is to migrate to the candidate where the partition's
pool there has a frame, or the host is told (R357, R449). -/
def migrationTrigger (s : State) (ia : Nat) : State :=
  let p := s.page ia
  let q := s.part p.part
  let th := bits q.migrate.toNat 32 9
  if th = 0 ∨ p.cnt < th ∨ p.goal.isSome then s
  else if bit q.mode.toNat 0 then
    postPf (s.modPage ia fun p => { p with cnt := 0 }) { type := 4, addr := d64 (ia / 65536 * 65536), detail := d64 (p.cand.toNat * 2 ^ 16 + p.cnt) }
  else s.modPage ia fun x =>
    if hasFrame s p.part (if (devOf p.cand).isSome then 1 else 0) (devOf p.cand) then { x with goal := some (if (devOf p.cand).isSome then 1 else 0, devOf p.cand) }
    else { x with cnt := 0 }

/-- A page counts an access of another device than its holder: the candidate's count (R356). -/
def countForeign (p : Page) : Page :=
  let q := { p with racc := min 65535 (p.racc + 1) }
  if p.cnt = 0 then { q with cand := Config.devIndex, cnt := 1 }
  else if p.cand = Config.devIndex then { q with cnt := min 511 (p.cnt + 1) }
  else { q with cnt := p.cnt - 1 }

/-- The home counts an access, whose requester is this device (R356). -/
def countAccess (s : State) (sp : Space) (ia : Nat) : State :=
  match sp with
  | .mem =>
    if (s.page ia).dev.isSome then migrationTrigger (s.modPage ia countForeign) ia
    else s.modPage ia fun p => { p with lacc := min 65535 (p.lacc + 1) }
  | _ => s

/-- Perform a write at the home in one step: label, bytes, lease; the write-completion time (R160, R291). -/
def performWrite (s : State) (lch : Nat) (dom : BitVec 8) (sp : Space) (ia : Nat) (bs : List Byte) (l : Label) : State × DWord :=
  let s1 := match sp with | .mem => raisePage (countAccess s sp ia) ia l dom | _ => s
  leaseWrite (memWrite s1 lch sp ia bs) (lineOf sp ia)

/-- A write of a party that has not read the place before: of part of an encrypted sector it reads and checks the whole (R424). -/
def performStore (s : State) (vf lch : Nat) (dom : BitVec 8) (sp : Space) (ia : Nat) (bs : List Byte) (l : Label) : State × DWord :=
  performWrite (checkSectors s vf sp ia bs.length) lch dom sp ia bs l

/-- The copies of a line that a CU's threads can read go, after a write of theirs that does not reach the copies: the threads of a
CU, or of a core, never read what is older (R278; log entry 50). Holder numbers as for pins. -/
def dropCopies (s : State) (h : Holder) (line : Nat) : State :=
  let core := if h < 32 then h else (h - 32) / 8
  let s1 := if h < 32 then (upto 8).foldl (fun s i => s.modCu (core * 8 + i) fun u => { u with l1 := tdel u.l1 line }) s
    else s.modCu (h - 32) fun u => { u with l1 := tdel u.l1 line }
  s1.modCore core fun c => { c with l2 := tdel c.l2 line }

/-- A thread's largest write-completion time (R160). -/
def raiseWct (v : DWord) (x : Thread) : Thread := { x with wct := if x.wct < v then v else x.wct }

/-- A launch keeps the largest write-completion time of what its engines and the device write for it (R263). -/
def raiseLaunch (s : State) (l : Nat) (v : DWord) : State := s.modLaunch l fun x => { x with wct := if x.wct < v then v else x.wct }

/-- The marks of a line after a pin's data has reached it: a grain the pin's writes covered whole is clean, a failed sector stays
(R169, R413). -/
def pinMarks (old new : State) (p : Pin) : State :=
  { new with
    grains := (upto 8).foldl (fun m i =>
      let k := p.line * 8 + i
      sset .good m k (if p.bad.contains i then sget .good old.grains k else sget .good new.grains k)) new.grains
    sectors := sset .good new.sectors p.line (sget .good old.sectors p.line) }

/-- Perform a pin at the home and end it; the write-completion time enters the thread whose release performs it, and the threads
whose writes it holds (R163, R285). -/
def performPin (s : State) (h : Holder) (p : Pin) (tid : Option Nat) : State :=
  let s1 := setPins s h ((pinsOf s h).filter fun q => !decide (q.line = p.line))
  let sp := lineSpace p.line
  let (s2, wct) := performWrite (dropCopies s1 h p.line) (s.wg p.wg).launch p.dom sp (lineBase p.line) p.bytes p.label
  let s3 := if sp = .mem then pinMarks s1 s2 p else s2
  (dedup (tid.toList ++ p.writers)).foldl (fun s t => s.modThr t (raiseWct wct)) s3

/-- A workgroup holds a pin: it took it, or a thread of it has written there (R163, R285). -/
def Pin.heldBy (p : Pin) (w : Nat) : Bool := decide (p.wg = w) || p.writers.any fun t => wgOf t == w

/-- The pins a workgroup holds that are narrower than a scope (R163, R184). -/
def narrowPins (s : State) (w : Nat) (sc : Scope) : List (Holder × Pin) :=
  let cid := (s.wg w).cid
  let mine := fun h => ((pinsOf s h).filter fun p => p.heldBy w).map fun p => (h, p)
  match sc with
  | .wg => []
  | .core => mine (32 + cid)
  | _ => mine (32 + cid) ++ mine (cid / 8)

/-- Perform the narrower pins of a workgroup for a releasing thread (R163). -/
def performPins (s : State) (w : Nat) (sc : Scope) (tid : Nat) : State :=
  (narrowPins s w sc).foldl (fun s e => performPin s e.1 e.2 (some tid)) s

/-- A write into a pin: its bytes, label and writer; a marker leaves a grain that the write covers whole, where it writes over
poison at all (R163, R169, R413). -/
def Pin.write (p : Pin) (off : Nat) (bs : List Byte) (l : Label) (t : Nat) (marks : Bool) : Pin :=
  { p with
    bytes := p.bytes.take off ++ bs ++ p.bytes.drop (off + bs.length), label := p.label ||| l
    bad := if marks then p.bad else p.bad.filter fun i => !decide (off ≤ 8 * i ∧ 8 * i + 8 ≤ off + bs.length)
    writers := if p.writers.contains t then p.writers else p.writers ++ [t] }

/-- Take a pin, or write into the one held: a holder's 65th displaces its oldest (R163, R288). -/
def writePin (s : State) (h : Holder) (line off : Nat) (bs : List Byte) (l : Label) (dom : BitVec 8) (w t : Nat) (pc : DWord) (marks : Bool) : State :=
  match pinAt s h line with
  | some _ => setPins s h ((pinsOf s h).map fun p => if p.line = line then p.write off bs l t marks else p)
  | none =>
    let sp := lineSpace line
    let p : Pin :=
      { line := line, bytes := memRead s (s.wg w).launch sp (lineBase line) 64, bad := failedGrains s sp (lineBase line), label := 0, dom := dom
        wg := w, tid := t, pc := pc }
    let s1 := match pinsOf s h with
      | o :: _ => if 64 ≤ (pinsOf s h).length then performPin s h o (some o.tid) else s
      | [] => s
    setPins s1 h (pinsOf s1 h ++ [p.write off bs l t marks])

/-! Atomic operations (R169, R170). -/

/-- The operation of an atomic on w bytes: 0 add, 1 min, 2 max, 3 and, 4 or, 5 xor, 6 exch, 7 cas. -/
def atomOp (op w : Nat) (signed fp : Bool) (old x cmp : Nat) : Nat :=
  let sv := fun n => if signed then (if bit n (8 * w - 1) then (n : Int) - (2 ^ (8 * w) : Nat) else n) else (n : Int)
  match op with
  | 0 => if fp then (f32.add {} old x).1 else (old + x) % 2 ^ (8 * w)
  | 1 => if sv x < sv old then x else old
  | 2 => if sv old < sv x then x else old
  | 3 => (d64 old &&& d64 x).toNat
  | 4 => (d64 old ||| d64 x).toNat
  | 5 => (d64 old ^^^ d64 x).toNat
  | 6 => x
  | _ => if old = cmp then x else old

/-! Store forwarding (R277, R291, R417). -/

/-- Overlay the bytes of a store on those of a load. -/
def overlay {α : Type} (ea : Nat) (bs : List α) (sa : Nat) (ss : List α) : List α :=
  ((upto bs.length).zip bs).map fun e =>
    let a := ea + e.1
    if sa ≤ a ∧ a < sa + ss.length then (ss[a - sa]?).getD e.2 else e.2

/-- Two spans overlap. -/
def spansMeet (a n b m : Nat) : Bool := decide (a < b + m) && decide (b < a + n)

/-- The clean bytes of a number. -/
def cleanBytes (v n : Nat) : List (Byte × Bool) := (leBytes v n).map fun b => (b, false)

/-- A thread's own stores not yet complete, and its retained entries, applied in program order to what a load reads: the bytes and
the labels that come with them (R277, R291, R417). -/
def forward (s : State) (t before : Nat) (sp : Space) (ia : Nat) (bs : List (Byte × Bool)) : List (Byte × Bool) × Label :=
  (accsOf s t).foldl (fun r e =>
    let a := e.2
    let bs := r.1
    if e.1 < before ∧ a.space = sp ∧ spansMeet ia bs.length a.ia a.width then
      if a.kind = .store then (overlay ia bs a.ia (cleanBytes a.data a.width), r.2 ||| a.label)
      else if a.kind = .atom ∧ a.stage = .retained ∧ ia ≤ a.ia ∧ a.ia + a.width ≤ ia + bs.length then
        let part := (bs.drop (a.ia - ia)).take a.width
        if part.any (·.2) && decide (a.op ≠ 6) then (bs, r.2 ||| a.label)
        else (overlay ia bs a.ia (cleanBytes (atomOp a.op a.width a.signed a.fp (leNat (part.map (·.1))) a.data a.cmp) a.width), r.2 ||| a.label)
      else r
    else r) (bs, 0)

/-! Leased copies (R158, R277, R278). -/

/-- The view of a copy. -/
def CopyLine.view (c : CopyLine) : LineView := { bytes := c.bytes, bad := c.bad, label := c.label }

/-- Writes of a core to a line that have been performed and whose completions are on their way. -/
def performedStores (s : State) (core line : Nat) : List (Nat × Access) :=
  s.accs.filter fun e => decide (e.2.kind = .store) && decide (e.2.stage = .returned) && decide (s.cidOf e.2.tid / 8 = core) &&
    decide (lineOf e.2.space e.2.ia = line)

/-- A fetched line replaces the CU's L1 copy, and the core's L2 copy of a line homed on another device; an L1 that is not wanted
allocates none (R274, R277; log entry 50). -/
def fillCopies (s : State) (cid line : Nat) (c : CopyLine) (noL1 : Bool) : State :=
  let c := { c with seen := (performedStores s (cid / 8) line).map (·.1) }
  let s1 := if noL1 && (tfind (s.cu cid).l1 line).isNone then s else s.modCu cid fun u => { u with l1 := tput u.l1 line c }
  if peerLine s line then s1.modCore (cid / 8) fun x => { x with l2 := tput x.l2 line c } else s1

/-- An L1 without a live copy is filled from the core's L2, with the same lease end (R277). -/
def fillFromL2 (s : State) (cid line : Nat) : State :=
  match (tfind (s.cu cid).l1 line).filter (live s), (tfind (s.core (cid / 8)).l2 line).filter (live s) with
  | none, some c => s.modCu cid fun u => { u with l1 := tput u.l1 line c }
  | _, _ => s

/-- Expire every leased copy of a CU's L1, and of its core's L2 (R185, R282, R289). -/
def expireCopies (s : State) (cid : Nat) (l2 : Bool) : State :=
  let s1 := s.modCu cid fun u => { u with l1 := [] }
  if l2 then s1.modCore (cid / 8) fun c => { c with l2 := [] } else s1

/-- A copy after a store's bytes have been written into it: its label is raised, a grain covered whole is clean. -/
def CopyLine.stored (c : CopyLine) (ia : Nat) (bs : List Byte) (l : Label) : CopyLine :=
  { c with
    bytes := overlay (ia / 64 * 64) c.bytes ia bs, label := c.label ||| l
    bad := c.bad.filter fun i => !decide (ia % 64 ≤ 8 * i ∧ 8 * i + 8 ≤ ia % 64 + bs.length) }

/-- Write a store's bytes into the issuer's copies, which keep their leases; a copy filled since has them (R160, R277). -/
def updateCopies (s : State) (id : Nat) (a : Access) : State :=
  let cid := s.cidOf a.tid
  let line := lineOf a.space a.ia
  let up := fun (c : CopyLine) => if c.seen.contains id then c else c.stored a.ia (leBytes a.data a.width) a.label
  (s.modCu cid fun u => { u with l1 := tmod u.l1 line up }).modCore (cid / 8) fun c => { c with l2 := tmod c.l2 line up }

/-! Fetching a line (R158, R279, R288, R291). -/

/-- The pinned or leased copy that serves a read of a CU; a replayable launch reads its own pages (R158, R428). -/
def cachedLine (s : State) (cid lch : Nat) (dom : BitVec 8) (sp : Space) (r : List DWord) (ia : Nat) : Option LineView :=
  let line := lineOf sp ia
  match ownPin s cid line with
  | some (_, p) => some { bytes := p.bytes, bad := p.bad, label := p.label ||| storedLabel s sp r ia }
  | none => if (s.launch lch).replay then none else (liveCopy s cid dom line).map CopyLine.view

/-- What fetching a line answers. -/
inductive LineRead where
  | wait (s : State)
  | refused (cause : Nat)
  | ok (s : State) (v : LineView)

/-- The fetch of a line: a pin elsewhere refuses it, the memory side checks it, the home grants a lease, and the copy replaces an
older one (R158, R277, R279, R288). -/
def fetchLine (s : State) (who : Waiter) (vf : Nat) (dom : BitVec 8) (cid lch : Nat) (sp : Space) (r : List DWord) (ia lease : Nat) (noL1 : Bool) : LineRead :=
  let line := lineOf sp ia
  let base := ia / 64 * 64
  match ownPin s cid line with
  | some (_, p) => .ok s { bytes := p.bytes, bad := p.bad, label := p.label ||| storedLabel s sp r ia }
  | none =>
    if pinnedElsewhere s (ownHolders cid) line then .wait (noteWait s (ownHolders cid) line who)
    else match memSide s vf dom sp r ia false 0 with
      | .refused c => .refused c
      | .retry s' => .wait s'
      | .ok s' =>
        let bad := failedGrains s' sp base
        let s1 := countAccess (detectMem s' vf sp base 64) sp ia
        let (s2, lend) := grantLease s1 line lease
        let v : LineView := { bytes := memRead s2 lch sp base 64, bad := bad, label := storedLabel s2 sp r ia }
        .ok (if (s.launch lch).replay then s2
          else fillCopies s2 cid line { bytes := v.bytes, label := v.label, leaseEnd := lend, dom := (s2.page ia).dom, bad := bad } noL1) v

/-- The label of the page at a VA. -/
def vaLabel (s : State) (vf va : Nat) : Label :=
  match rangeOf s vf (d64 va) with
  | none => 0
  | some (_, r) => storedLabel s (spaceOf r) r (iaOf r (d64 va))

/-! Scratchpad (R165, R166, R298). -/

/-- Slots and scratchpad offset of the words of the copy ring (R298). -/
def memCopyWords (m : WgMem) : Option (Nat × Nat × Nat) :=
  match m.copy.ring with
  | none => none
  | some r =>
    let d := ((tfind m.rings r).getD {}).desc
    some (d.base, d.n, d.base + 64 * d.n)

/-- The same of a workgroup. -/
def copyWords (s : State) (w : Nat) : Option (Nat × Nat × Nat) := memCopyWords (s.wg w).mem

/-- The notify and status words as 16 bytes (R298). -/
def copyRegBytes (c : CopyRing) : List Byte :=
  leBytes c.pub.toNat 8 ++ leBytes (c.con.toNat + c.cause.toNat * 2 ^ 32 + ofBool c.stop * 2 ^ 40) 8

/-- A byte of scratchpad as LDSP reads it: the copy ring's words are engine registers (R298). -/
def spadByte (s : State) (w a : Nat) : Byte :=
  match copyWords s w with
  | some (_, _, x) => if x ≤ a ∧ a < x + 16 then ((copyRegBytes (s.wg w).mem.copy)[a - x]?).getD 0 else sget 0 (s.wg w).mem.spad a
  | none => sget 0 (s.wg w).mem.spad a

/-- Bytes of scratchpad. -/
def spadRead (s : State) (w a n : Nat) : List Byte := (upto n).map fun i => spadByte s w (a + i)

/-- Write bytes of scratchpad: the copy ring's words stay as they are (R298), the block labels are raised with the data
(R154), a granule written whole is clean (R413). -/
def memSpadWrite (a : Nat) (bs : List Byte) (l : Label) (m : WgMem) : WgMem :=
  let keep := match memCopyWords m with | some (_, _, x) => fun k => decide (x ≤ k ∧ k < x + 16) | none => fun _ => false
  { m with
    spad := ((upto bs.length).zip bs).foldl (fun p e => if keep (a + e.1) then p else sset 0 p (a + e.1) e.2) m.spad
    blockLabel := (dedup ((upto bs.length).map fun i => (a + i) / 4096)).foldl (fun t k => sset 0 t k (sget 0 t k ||| l)) m.blockLabel
    bad := (upto bs.length).foldl (fun t i => if (a + i) % 8 = 0 ∧ i + 8 ≤ bs.length then sset false t ((a + i) / 8) false else t) m.bad }

/-- Write bytes of a workgroup's scratchpad. -/
def spadWrite (s : State) (w a : Nat) (bs : List Byte) (l : Label) : State := s.modMem w (memSpadWrite a bs l)

/-- The granules of a span take markers (R413). -/
def memSpadMark (a n : Nat) (m : WgMem) : WgMem :=
  { m with bad := (upto n).foldl (fun t i => sset false t ((a + i) / 8) true) m.bad }

/-- An engine's arrival reaches the live part of a workgroup and its shadow (R418). -/
def State.modBoth (s : State) (w : Nat) (f : WgMem → WgMem) : State :=
  s.modWg w fun g => { g with mem := f g.mem, shadow := g.shadow.map fun h => { h with mem := f h.mem } }

/-- The labels of the blocks of a span. -/
def spadLabel (s : State) (w a n : Nat) : Label :=
  orAll ((dedup ((upto n).map fun i => (a + i) / 4096)).map fun k => sget 0 (s.wg w).mem.blockLabel k)

/-- A granule of a span has failed. -/
def spadBad (s : State) (w a n : Nat) : Bool := (upto n).any fun i => sget false (s.wg w).mem.bad ((a + i) / 8)

/-- The bytes of a workgroup's scratchpad allotment (R150). -/
def spadSize (s : State) (w : Nat) : Nat := (s.wg w).hdr.spad * 4096

/-- The engine acts on a release of the notify word: it stops on a bad count, else it has commands to read (R299). -/
def notifyEngine (s : State) (w : Nat) : State :=
  match copyWords s w with
  | none => s
  | some (_, n, _) => s.modMem w fun m =>
      let c := m.copy
      if c.stop then m
      else if n < (c.pub - c.con).toNat then { m with copy := { c with stop := true, cause := 1 } }
      else { m with copy := { c with active := true } }

/-- A store to the words of the copy ring: the notify word takes pub, the status word takes only a 0 of stop, on which the engine
acts on pub anew (R298, R299). -/
def copyRegWrite (s : State) (w a : Nat) (bs : List Byte) : State :=
  match copyWords s w with
  | none => s
  | some (_, _, x) =>
    if spansMeet a bs.length x 16 then
      let old := copyRegBytes (s.wg w).mem.copy
      let new := overlay x old a bs
      let clear := decide (a ≤ x + 13 ∧ x + 13 < a + bs.length) && !bit (leNat (new.drop 13)) 0
      let s1 := s.modMem w fun m => { m with copy := { m.copy with pub := BitVec.ofNat 32 (leNat (new.take 4)), stop := m.copy.stop && !clear } }
      if (s.wg w).mem.copy.stop && clear then notifyEngine s1 w else s1
    else s

/-- An STSP to a byte of a slot clears its kind bit (R297). -/
def clearKind (s : State) (w a n : Nat) : State :=
  match copyWords s w with
  | none => s
  | some (b, k, _) => s.modMem w fun m =>
      let c := m.copy
      { m with copy := { c with kind := (upto k).foldl (fun t i => if spansMeet a n (b + 64 * i) 64 then sset false t i false else t) c.kind } }

/-- An STSP to the notify word. -/
def touchesNotify (s : State) (w a n : Nat) : Bool :=
  match copyWords s w with
  | none => false
  | some (_, _, x) => spansMeet a n x 8

/-- One lane's STSP: bytes, label, engine registers, kind bits, and the engine on a release of the notify word (R165,
R166, R297 to R299). -/
def stspWrite (s : State) (w a : Nat) (bs : List Byte) (l : Label) (rel : Bool) : State :=
  let s1 := clearKind (copyRegWrite (spadWrite s w a bs l) w a bs) w a bs.length
  if rel && touchesNotify s1 w a bs.length then notifyEngine s1 w else s1

end Sys2Proof.Machine
end

