-- ==== Sys2Proof/Machine/Memory.lean ====
section
/-! DEFINITION. Loads, stores, scratchpad accesses, prefetch and atomics, and the steps that perform them (R149 to R173,
R277 to R291, R345, R417, R421, R432, R435). -/

namespace Sys2Proof.Machine

/-- Bytes of a size field (R19). -/
def sizeBytes (z : BitVec 3) : Nat := match z.toNat with | 0 | 5 => 1 | 1 | 6 => 2 | 2 => 4 | 3 => 8 | _ => 16
/-- A size field of a sign-extended load (R19). -/
def sizeSigned (z : BitVec 3) : Bool := decide (z = 5#3 ∨ z = 6#3)

/-- The byte offset of an M form (R21). -/
def offsetOf (a : Advs) : DWord := match a.imm with | some p => p.signExtend 64 | none => 0

/-- The effective address of a global access in a lane (R149). -/
def eaOf (s : State) (w : Wx) (t : Nat) (base : BitVec 7) : DWord := d64 (wordsVal (readOpnd s t (.pair base))) + offsetOf w.b.advs

/-- The scratchpad address of an access in a lane, in 33 bits (R149). -/
def saOf (s : State) (w : Wx) (t : Nat) (base : BitVec 7) : Nat :=
  ((readReg s t base.toNat).val.toNat + (((offsetOf w.b.advs).truncate 33 : BitVec 33)).toNat) % 2 ^ 33

/-- The causes a lane's global access fails with at issue (R149 to R151, R155). -/
def globalFails (s : State) (w : Wx) (base : BitVec 7) (n : Nat) (need : Need) (words : List Opnd) (t : Nat) : List Fail :=
  let ea := eaOf s w t base
  (match spanCause s w.vf ea n need with | some c => [({ tid := t, cause := c, addr := ea } : Fail)] | none => []) ++
  (if ea.toNat % n = 0 then [] else [{ tid := t, cause := 6, addr := ea }]) ++
  (if (Opnd.pair base :: words).any fun o => anyPoison (readOpnd s t o) then [{ tid := t, cause := 0x12 }] else [])

/-- The causes a lane's scratchpad access fails with (R150, R155). -/
def spadFails (s : State) (w : Wx) (base : BitVec 7) (n : Nat) (words : List Opnd) (t : Nat) : List Fail :=
  let sa := saOf s w t base
  (if spadSize s (wgOf t) < sa + n then [({ tid := t, cause := 2 } : Fail)] else []) ++
  (if sa % n = 0 then [] else [{ tid := t, cause := 6, addr := d64 sa }]) ++
  (if (Opnd.r base :: words).any fun o => anyPoison (readOpnd s t o) then [{ tid := t, cause := 0x12 }] else [])

/-- Cache policy and lease request of the MEMHINT before a word (R24). -/
def hintOf (a : Advs) : Nat × Nat := match a.hint with | some h => (h.toNat % 4, h.toNat / 4) | none => (0, 0)

/-- A global access of a lane, translated (R350, R351). -/
def accessAt (s : State) (w : Wx) (kind : AccKind) (ea : DWord) (n : Nat) : Access :=
  let h := hintOf w.b.advs
  let a : Access := { kind := kind, tid := 0, ea := ea, width := n, cache := h.1, lease := h.2, sentAt := s.now.toNat }
  match rangeOf s w.vf ea with
  | some (k, r) => { a with ia := iaOf r ea, space := spaceOf r, range := k }
  | none => a

/-- The range an access was translated through. -/
def rangeRec (s : State) (vf k : Nat) : List DWord := (tfind (s.ctx vf).ranges k).getD []

/-- The result of a load from a line: the thread's own stores lie over it, with their labels (R154, R277, R291, R412). -/
def loadFrom (s : State) (t before : Nat) (a : Access) (v : LineView) : Access :=
  let r := forward s t before a.space a.ia (v.part (a.ia % 64) a.width)
  { a with stage := .returned, resLabel := v.label ||| r.2, result := cellsOfPart r.1 a.width a.signed }

/-- An access waits for the antecedent's result (R422). -/
def awaitsTwin (s : State) (a : Access) : Bool := a.fwd.isSome && decide ((s.wg (wgOf a.tid)).mode = .ana)

/-- An earlier atomic of the thread to the same bytes has not been performed, and is not held (R161, R278). -/
def atomWaits (s : State) (id : Nat) (a : Access) : Bool :=
  (accsOf s a.tid).any fun e => decide (e.1 < id) && decide (e.2.kind = .atom ∨ e.2.kind = .atomr) && decide (e.2.stage = .issued ∨ e.2.stage = .retry) &&
    decide (e.2.space = a.space) && spansMeet e.2.ia e.2.width a.ia a.width && !awaitsTwin s e.2

/-- An earlier load of the thread to the same bytes has not its value yet (R278). -/
def loadWaits (s : State) (id : Nat) (a : Access) : Bool :=
  (accsOf s a.tid).any fun e => decide (e.1 < id) && decide (e.2.kind = .load) && decide (e.2.stage = .issued ∨ e.2.stage = .retry) &&
    decide (e.2.inst ≠ a.inst) && decide (e.2.space = a.space) && spansMeet e.2.ia e.2.width a.ia a.width

/-- A store of the thread to the bytes is not complete, and not retained: the thread's load would read it (R277). -/
def ownStore (s : State) (id : Nat) (a : Access) : Bool :=
  (accsOf s a.tid).any fun e => decide (e.1 < id) && decide (e.2.kind = .store) && decide (e.2.stage ≠ .retained) &&
    decide (e.2.space = a.space) && spansMeet e.2.ia e.2.width a.ia a.width

/-- A load may be served at issue (R158, R278). -/
def localOk (s : State) (t : Nat) (a : Access) : Bool :=
  !atomWaits s s.fresh { a with tid := t } && !loadWaits s s.fresh { a with tid := t, inst := s.fresh }

/-- A load served at issue: from the pinned copy, or a live leased copy (R158). -/
def loadLocal (s : State) (t : Nat) (a : Access) : Option Access :=
  let lch := (s.wg (wgOf t)).launch
  (cachedLine s (s.cidOf t) lch (s.grp (gidOf t)).dom a.space (rangeRec s (s.vfOf (wgOf t)) a.range) a.ia).map (loadFrom s t s.fresh a)

/-- The key of a forwarded result: thread index, and its number in the interval (R422, R435). -/
def fwdKey (s : State) (t : Nat) : Nat := tixOf t * 65536 + (s.thr t).fwdSeq

/-- A result kept with the commit is delivered again (R435); else the access goes on, waiting in the anaphor. -/
def withRecord (s : State) (t key : Nat) (a : Access) : Access :=
  match tfind (s.wg (wgOf t)).record key with
  | some (cs, l) => { a with stage := .returned, result := cs, resLabel := l, fwd := none }
  | none => { a with fwd := some key }

/-- The key of the result of the ATOMR that ended the interval: one in each thread (R435). -/
def atomKey (t : Nat) : Nat := tixOf t * 65536 + 65535

/-- Results are forwarded and kept in checkpointed and paired workgroups (R422, R435). -/
def forwards (s : State) (t : Nat) : Bool := decide ((s.wg (wgOf t)).mode ≠ .plain)

/-- Count a thread's forwarded results. -/
def bumpFwd (s : State) (ts : List Nat) : State :=
  ts.foldl (fun s t => if forwards s t then s.modThr t fun x => { x with fwdSeq := x.fwdSeq + 1 } else s) s

/-- The other lanes of the word that read the same bytes (R152). -/
def sameBytes (s : State) (w : Wx) (b : BitVec 7) (act : List Nat) (t : Nat) : List Nat := act.filter fun u => u != t && eaOf s w u b == eaOf s w t b

/-- A lane of LDG: the lanes that read the same bytes are served at issue together or not at all (R152, R158, R422). -/
def ldgLane (s : State) (w : Wx) (b : BitVec 7) (z : BitVec 3) (o : Order) (act : List Nat) (t : Nat) : Access :=
  let a := { accessAt s w .load (eaOf s w t b) (sizeBytes z) with signed := sizeSigned z, order := o }
  let mates := sameBytes s w b act t
  if isAcq o && forwards s t then withRecord s t (fwdKey s t) a
  else if (t :: mates).all (fun u => localOk s u a) && (mates.isEmpty || !(t :: mates).any fun u => ownStore s s.fresh { a with tid := u }) then
    (loadLocal s t a).getD a
  else a

/-- LDG (R149 to R162). -/
def ldgEff (d b : BitVec 7) (z : BitVec 3) (o : BitVec 4) (s : State) (w : Wx) : Eff :=
  let act := w.act s
  if act.any (acquirePending s) || kindFull s .load act then .hold s
  else match (act.map (globalFails s w b (sizeBytes z) { rd := true } [])).flatten with
    | [] =>
      let s1 := issueLanes s w (some (sizedOpnd z d)) fun t => ldgLane s w b z (orderOf o) act t
      .done (if isAcq (orderOf o) then bumpFwd s1 act else s1)
    | bad => .fail bad

/-- LDG. -/
def execLdg (g : BitVec 4) (d b : BitVec 7) (z : BitVec 3) (o : BitVec 4) (s : State) : Out :=
  runWord (.ldg g d b z o) s (ldgEff d b z o)

/-! Stores and retention (R160, R161, R417, R421, R432). -/

/-- The data of an entry under the pair-injection register, which counts the target's executions (R432). -/
def injected (s : State) (t : Nat) (pc : DWord) (n data : Nat) : State × Nat :=
  let vf := s.vfOf (wgOf t)
  let c := s.ctx vf
  let w0 := c.inject0.toNat
  let mode := (s.wg (wgOf t)).mode
  if bit w0 63 && decide (mode = if bit w0 62 then .ana else .ante) && decide (bits w0 56 6 = laneOf t) && decide (bits w0 0 48 = pc.toNat) then
    let k := c.injectCount + 1
    let occ := max 1 (bits w0 48 8)
    if k = occ then
      (s.modCtx vf fun c => { c with inject0 := c.inject0 &&& 0x7FFFFFFFFFFFFFFF#64, injectCount := k },
       (BitVec.ofNat (8 * n) data ^^^ BitVec.ofNat (8 * n) (c.inject1.toNat)).toNat)
    else (s.modCtx vf fun c => { c with injectCount := k }, data)
  else (s, data)

/-- Entries a buffer holds: retention 256, compare 2048 (R417, R421). -/
def bufferCap (m : WgMode) : Nat := if m = .ckpt then 256 else 2048

/-- The retention buffer has no room for the lanes of an instruction: the interval ends first (R416, R417). The compare buffer
pauses its antecedent at the boundary instead (R422). -/
def bufferFull (s : State) (act : List Nat) (t : Nat) : Bool :=
  let g := s.wg (wgOf t)
  decide (g.mode = .ckpt) && !g.retained.isEmpty && decide (bufferCap .ckpt < g.retained.length + (act.filter fun u => wgOf u == wgOf t).length)

/-- A lane's retained entries alone fill its count of outstanding stores, which can fall only at a commit: the interval ends
as for a full buffer (R53, R416; log entry 34). -/
def countFull (s : State) (t : Nat) : Bool :=
  decide ((s.wg (wgOf t)).mode ≠ .plain) && decide (255 ≤ (s.thr t).octStore) && (s.wg (wgOf t)).retained.any fun r => r.tid == t

/-- Lanes end their interval at the word they stand at. -/
def endHere (s : State) (w : Wx) (ts : List Nat) : Eff :=
  .hold (ts.foldl (fun s t => s.modWg (wgOf t) fun x =>
    let e := x.endAt.getD {}
    { x with endAt := some { e with ends := tput e.ends t w.b.pc } }) s)

/-- Put a lane's last access into the buffer of its workgroup (R417, R421). -/
def retainLane (s : State) (t id : Nat) : State :=
  match tfind s.accs id with
  | none => s
  | some a =>
    let (s1, d) := injected s t a.pc a.width a.data
    let s2 := s1.modAcc id fun a => { a with stage := .retained, retained := true }
    s2.modWg (wgOf t) fun g =>
      let g1 := { g with retained := g.retained ++ [{ tid := t, acc := id, addr := a.ea.toNat, size := a.width, data := d }] }
      if g1.mode = .ante ∧ 2048 ≤ g1.retained.length ∧ g1.endAt.isNone then { g1 with endAt := some { limit := true } } else g1

/-- Earlier stores and atomics of a thread not yet complete (R161). -/
def earlierStores (s : State) (t : Nat) : List Nat :=
  ((accsOf s t).filter fun e => decide (e.2.kind = .store ∨ e.2.kind = .atom ∨ e.2.kind = .atomr ∨ e.2.kind = .insert) && decide (e.2.stage ≠ .retained)).map (·.1)

/-- The holder that performs an access: the CU for scope wg, the core for scope core, else the home's engine (R163, R171). -/
def holderOf (s : State) (t : Nat) (o : BitVec 4) (sp : Space) (ia : Nat) : Nat :=
  let od := orderOf o
  if o = 0 then homeOf s (lineOf sp ia)
  else match od.scope with
    | .wg => 32 + s.cidOf t
    | .core => s.cidOf t / 8
    | _ => homeOf s (lineOf sp ia)

/-- An order code that pins (R163). -/
def pins (o : Order) : Bool := decide (o.kind ≠ .relaxed) && decide (o.scope = .wg ∨ o.scope = .core)

/-- The order of the threads of a word: workgroup index, gi, lane (R152). -/
def laneOrder (s : State) (t : Nat) : List Nat := [(s.wg (wgOf t)).index, tixOf t, t]

/-- The last lane of a word that writes the bytes of a lane (R152). -/
def lastWriter (s : State) (w : Wx) (b : BitVec 7) (act : List Nat) (t : Nat) : Nat :=
  (sameBytes s w b act t).foldl (fun x u => if keyBefore (laneOrder s x) (laneOrder s u) then u else x) t

/-- The lanes whose stores are merged before they leave: not those of a workgroup that retains its stores with those of another
(R152, R417; log entry 71). -/
def mergesWith (s : State) (t u : Nat) : Bool :=
  wgOf t == wgOf u || (decide ((s.wg (wgOf t)).mode = .plain) && decide ((s.wg (wgOf u)).mode = .plain))

/-- A lane of STG: the last lane to its bytes gives the data, and its write is the one that leaves (R152, R160, R161). -/
def stgLane (s : State) (w : Wx) (d : Opnd) (b : BitVec 7) (z : BitVec 3) (o : BitVec 4) (act : List Nat) (t : Nat) : Access :=
  let ea := eaOf s w t b
  let a := accessAt s w .store ea (sizeBytes z)
  let od := orderOf o
  let last := lastWriter s w b act t
  { a with
    data := wordsVal (readOpnd s last d) % 2 ^ (8 * sizeBytes z), order := od, merged := last != t && mergesWith s t last
    engine := if pins od then some (holderOf s t o a.space a.ia) else none
    stage := if isRel od then .held else .issued, after := if isRel od then earlierStores s t else [] }

/-- Retain the accesses an instruction has issued in checkpointed and paired workgroups. -/
def retainInst (s : State) (inst : Nat) : State :=
  (s.accs.filter fun e => decide (e.2.inst = inst) && decide ((s.wg (wgOf e.2.tid)).mode ≠ .plain)).foldl (fun s e => retainLane s e.2.tid e.1) s

/-- STG (R149 to R163, R417). -/
def stgEff (d b : BitVec 7) (z : BitVec 3) (o : BitVec 4) (s : State) (w : Wx) : Eff :=
  let act := w.act s
  let data := sizedOpnd z d
  let stuck := act.filter (countFull s)
  if !stuck.isEmpty then endHere s w stuck
  else if act.any (acquirePending s) || kindFull s .store act then .hold s
  else match (act.map (globalFails s w b (sizeBytes z) { wr := true } [data])).flatten with
    | [] =>
      match act.filter (bufferFull s act) with
      | [] => .done (retainInst (issueLanes s w none fun t => stgLane s w data b z o act t) s.fresh)
      | full => endHere s w full
    | bad => .fail bad

/-- STG. -/
def execStg (g : BitVec 4) (d b : BitVec 7) (z : BitVec 3) (o : BitVec 4) (s : State) : Out :=
  runWord (.stg g d b z o) s (stgEff d b z o)

/-! Scratchpad (R165, R166). -/

/-- A lane of LDSP: performed at issue, in program order (R166; log entry 12). -/
def ldspLane (s : State) (w : Wx) (b : BitVec 7) (z : BitVec 3) (o : BitVec 4) (t : Nat) : Access :=
  let sa := saOf s w t b
  let n := sizeBytes z
  let g := wgOf t
  { kind := .spLoad, tid := t, ea := d64 sa, ia := sa, width := n, order := orderOf o, stage := .returned
    result := loadCells (spadRead s g sa n) n (sizeSigned z) fun k => spadBad s g (sa + 4 * k) (min 4 (n - 4 * k))
    resLabel := spadLabel s g sa n }

/-- LDSP. -/
def ldspEff (d b : BitVec 7) (z : BitVec 3) (o : BitVec 4) (s : State) (w : Wx) : Eff :=
  let act := w.act s
  if act.any (acquirePending s) || kindFull s .spLoad act then .hold s
  else match (act.map (spadFails s w b (sizeBytes z) [])).flatten with
    | [] => .done (issueLanes s w (some (sizedOpnd z d)) fun t => ldspLane s w b z o t)
    | bad => .fail bad

/-- LDSP. -/
def execLdsp (g : BitVec 4) (d b : BitVec 7) (z : BitVec 3) (o : BitVec 4) (s : State) : Out :=
  runWord (.ldsp g d b z o) s (ldspEff d b z o)

/-- Earlier global accesses of a thread not yet performed (R166). -/
def globalPending (s : State) (t : Nat) : Bool :=
  (accsOf s t).any fun e => decide (e.2.kind = .load ∨ e.2.kind = .store ∨ e.2.kind = .atom ∨ e.2.kind = .atomr) && decide (e.2.stage ≠ .retained)

/-- STSP: performed in one step, the last thread's bytes remaining (R152, R165, R166; log entry 12). -/
def stspEff (d b : BitVec 7) (z : BitVec 3) (o : BitVec 4) (s : State) (w : Wx) : Eff :=
  let act := w.act s
  let n := sizeBytes z
  let data := sizedOpnd z d
  if act.any (acquirePending s) || kindFull s .spStore act || (isRel (orderOf o) && act.any (globalPending s)) then .hold s
  else match (act.map (spadFails s w b n [data])).flatten with
    | [] => .done ((sortNat act).foldl (fun s' t =>
        stspWrite s' (wgOf t) (saOf s w t b) (leBytes (wordsVal (readOpnd s t data)) n) (w.label s (gidOf t)) (isRel (orderOf o))) s)
    | bad => .fail bad

/-- STSP. -/
def execStsp (g : BitVec 4) (d b : BitVec 7) (z : BitVec 3) (o : BitVec 4) (s : State) : Out :=
  runWord (.stsp g d b z o) s (stspEff d b z o)

/-! Prefetch (R167). -/

/-- The lines a lane prefetches: those that would fail are skipped (R167). -/
def pfetchLines (s : State) (w : Wx) (b : BitVec 7) (k t : Nat) : List Access :=
  let ea0 := (eaOf s w t b).toNat / 64 * 64
  ((upto (2 ^ k)).map fun i => d64 (ea0 + 64 * i)).filterMap fun ea =>
    match rangeOf s w.vf ea with
    | some (_, r) => if permR r then some { accessAt s w .fetch ea 64 with tid := t, pc := w.b.pc, inst := s.fresh } else none
    | none => none

/-- PFETCH: only a poisoned base traps. -/
def pfetchEff (b : BitVec 7) (k : Nat) (s : State) (w : Wx) : Eff :=
  let act := w.act s
  if act.any (acquirePending s) then .hold s
  else match poisonFails s act (.pair b) with
    | [] => .done (act.foldl (fun s' t => (pfetchLines s w b k t).foldl (fun s' a => s'.addAcc a) s') s)
    | bad => .fail bad

/-- PFETCH. -/
def execPfetch (g : BitVec 4) (b : BitVec 7) (k : BitVec 3) (s : State) : Out := runWord (.pfetch g b k) s (pfetchEff b k.toNat)

/-- Fill a thread's deferred-fault record if it is empty (R156); in a pair, in both members (R418). -/
def fillDeferred (s : State) (t : Nat) (d : Deferred) : State :=
  let put := fun (x : Thread) => if alive x && x.deferred.isNone then { x with deferred := some d } else x
  let s1 := s.modThr t put
  match (s.wg (wgOf t)).twin with
  | some h => s1.modThr (h * 1024 + tixOf t) put
  | none => s1

/-- A record that a rollback keeps: of engine work, and of the entries a commit performs (R418, R419). -/
def fillShadow (s : State) (t : Nat) (d : Deferred) : State :=
  let put := fun (x : Thread) => if alive x && x.deferred.isNone then { x with deferred := some d } else x
  let keep := fun (s : State) (w : Nat) => s.modWg w fun g => { g with shadow := g.shadow.map fun h => { h with threads := tmod h.threads (w * 1024 + tixOf t) put } }
  let s1 := keep (fillDeferred s t d) (wgOf t)
  match (s.wg (wgOf t)).twin with
  | some h => keep s1 h
  | none => s1

/-! Atomics (R168 to R173). -/

/-- The form of an atomic. -/
structure AtomForm where
  ret : Bool
  width : Nat
  signed : Bool
  fp : Bool
  op : Nat
  o : BitVec 4
  deriving DecidableEq, Repr

/-- The operand of an atomic's register field. -/
def AtomForm.opnd (f : AtomForm) (x : BitVec 7) : Opnd := if f.width = 8 then .pair x else .r x

/-- A lane of an atomic (R168, R171). -/
def atomLane (s : State) (w : Wx) (f : AtomForm) (x b : BitVec 7) (t : Nat) : Access :=
  let a := accessAt s w (if f.ret then .atomr else .atom) (eaOf s w t b) f.width
  let od := orderOf f.o
  let a :=
    { a with
      data := wordsVal (readOpnd s t (f.opnd x)), op := f.op, fp := f.fp, signed := f.signed, order := od
      cmp := match w.b.advs.xopnd with | some c => wordsVal (readOpnd s t (f.opnd c)) | none => 0
      engine := some (holderOf s t f.o a.space a.ia)
      stage := if isRel od then .held else .issued, after := if isRel od then earlierStores s t else [] }
  if f.ret && forwards s t then withRecord s t (atomKey t) a else a

/-- The bytes of a log entry (R345). -/
def logBytesOf (e : LogEntry) : List Byte :=
  leBytes e.ea.toNat 8 ++ leBytes (e.operand.toNat + e.tix * 2 ^ 32 + e.seq % 65536 * 2 ^ 48) 8

/-- Where the log's k-th next entry goes, while the log has room and its area can be written (R345). -/
def logSpot (s : State) (w : Wx) (t k : Nat) : Option (List DWord × DWord) :=
  let g := s.wg (wgOf t)
  let l := s.launchOf (wgOf t)
  let n := g.log.length + k
  if l.logbytes < 16 * (n + 1) then none
  else
    let va := l.logva + d64 (g.index * l.logbytes + 16 * n)
    ((rangeOf s w.vf va).map fun e => (e.2, va)).filter fun e => permits { wr := true } e.1

/-- The write of a log entry waits, for a pin on its line or at the memory side (R288, R355). -/
def logBlocked (s : State) (w : Wx) (t k : Nat) : Option State :=
  match logSpot s w t k with
  | none => none
  | some (r, va) =>
    let line := lineOf (spaceOf r) (iaOf r va)
    if !(pinHolders s line).isEmpty then some (noteWait s [] line (.bundle w.pipe w.b.pc))
    else match memSide s w.vf (s.grp (gidOf t)).dom (spaceOf r) r (iaOf r va) true (w.label s (gidOf t)) with
      | .retry s' => some s'
      | _ => none

/-- The lanes of a deterministic launch whose float add is deferred, with how many lanes of their workgroup come before (R173). -/
def deferring (s : State) (act : List Nat) : List (Nat × Nat) :=
  (act.filter fun t => decide ((s.wg (wgOf t)).mode ≠ .ana)).map fun t => (t, (act.filter fun u => wgOf u == wgOf t && decide (u < t)).length)

/-- A deferred float add appended to the workgroup's log: the entry is written as a store of its thread, and one that the memory side
refuses is dropped with its add (R154, R156, R173, R345). None where the log is full or cannot be written. -/
def logAppend (s : State) (w : Wx) (t : Nat) (a : Access) : Option State :=
  let g := s.wg (wgOf t)
  let e : LogEntry :=
    { ea := a.ea, ia := a.ia, operand := w32 a.data, tix := tixOf t, seq := (s.thr t).logSeq, label := w.label s (gidOf t), pc := w.b.pc }
  let dom := (s.grp (gidOf t)).dom
  (logSpot s w t 0).map fun x =>
    match memSide s w.vf dom (spaceOf x.1) x.1 (iaOf x.1 x.2) true e.label with
    | .refused c => fillDeferred s t { cause := c, pc := w.b.pc, ea := a.ea }
    | .retry s' | .ok s' =>
      let (s1, wct) := performStore s' w.vf g.launch dom (spaceOf x.1) (iaOf x.1 x.2) (logBytesOf e) e.label
      (s1.modWg (wgOf t) fun g => { g with log := g.log ++ [e] }).modThr t fun x => raiseWct wct { x with logSeq := x.logSeq + 1 }

/-- ATOM.f32 of a deterministic launch is deferred (R173). -/
def defersAdds (s : State) (w : Wx) (f : AtomForm) : Bool := f.fp && !f.ret && (s.launchOf (wgOf (w.b.tids.headD 0))).det

/-- The deferred adds are appended; where the log is full or absent a lane's is performed at once. An anaphor's are discarded
(R421). -/
def deferredLanes (s : State) (w : Wx) (f : AtomForm) (x b : BitVec 7) (act : List Nat) : State × List Nat :=
  if defersAdds s w f then
    (deferring s act).foldl (fun r e =>
      match logAppend r.1 w e.1 (atomLane s w f x b e.1) with
      | some s' => (s', r.2)
      | none => (detCause r.1 (s.wg (wgOf e.1)).launch 0x03 w.b.pc, r.2 ++ [e.1])) (s, [])
  else (s, act)

/-- The state in which a word waits for its log entries' places, if it must. -/
def logsBlocked (s : State) (w : Wx) (f : AtomForm) (act : List Nat) : Option State :=
  if defersAdds s w f then (deferring s act).findSome? fun e => logBlocked s w e.1 e.2 else none

/-- Issue the lanes of an atomic that are performed, those of the list only. -/
def issueAtoms (s : State) (w : Wx) (f : AtomForm) (x b : BitVec 7) (ts : List Nat) : State :=
  if f.ret then issueLanes s w (some (f.opnd x)) fun t => atomLane s w f x b t
  else ts.foldl (fun s' t =>
    let a := { atomLane s w f x b t with tid := t, pc := w.b.pc, label := w.label s (gidOf t), inst := s.fresh }
    (s'.addAcc a).modThr t (countUp .atom)) s

/-- An atomic word (R149 to R151, R155, R168 to R173). -/
def atomEff (f : AtomForm) (x b : BitVec 7) (s : State) (w : Wx) : Eff :=
  let act := w.act s
  let cmp := match w.b.advs.xopnd with | some c => [f.opnd c] | none => []
  let stuck := if f.ret then [] else act.filter (countFull s)
  if !stuck.isEmpty then endHere s w stuck
  else if act.any (acquirePending s) || kindFull s (if f.ret then .atomr else .atom) act then .hold s
  else match (act.map (globalFails s w b f.width { rd := f.ret, wr := true } (f.opnd x :: cmp))).flatten with
    | [] =>
      match if f.ret then [] else act.filter (bufferFull s act), logsBlocked s w f act with
      | [], some s' => .hold s'
      | [], none =>
        let (s1, ts) := deferredLanes s w f x b act
        let inst := s1.fresh
        let s2 := issueAtoms s1 w f x b ts
        let s3 := if f.ret then s2 else retainInst s2 inst
        .done (if f.ret && f.fp && !act.isEmpty then detCauseIf s3 (s.wg (wgOf (w.b.tids.headD 0))).launch 0x02 w.b.pc else s3)
      | full, _ => endHere s w full
    | bad => .fail bad

/-- ATOM.i32 (R168). -/
def execAtomI32 (g : BitVec 4) (x b : BitVec 7) (z : BitVec 3) (o : BitVec 4) (s : State) : Out :=
  runWord (.atomI32 g x b z o) s (atomEff { ret := false, width := 4, signed := true, fp := false, op := z.toNat, o := o } x b)
/-- ATOM.n32 (R168). -/
def execAtomN32 (g : BitVec 4) (x b : BitVec 7) (z : BitVec 3) (o : BitVec 4) (s : State) : Out :=
  runWord (.atomN32 g x b z o) s (atomEff { ret := false, width := 4, signed := false, fp := false, op := z.toNat, o := o } x b)
/-- ATOM.i64 (R168). -/
def execAtomI64 (g : BitVec 4) (x b : BitVec 7) (z : BitVec 3) (o : BitVec 4) (s : State) : Out :=
  runWord (.atomI64 g x b z o) s (atomEff { ret := false, width := 8, signed := true, fp := false, op := z.toNat, o := o } x b)
/-- ATOM.n64 (R168). -/
def execAtomN64 (g : BitVec 4) (x b : BitVec 7) (z : BitVec 3) (o : BitVec 4) (s : State) : Out :=
  runWord (.atomN64 g x b z o) s (atomEff { ret := false, width := 8, signed := false, fp := false, op := z.toNat, o := o } x b)
/-- ATOM.f32.add (R170). -/
def execAtomF32 (g : BitVec 4) (x b : BitVec 7) (o : BitVec 4) (s : State) : Out :=
  runWord (.atomF32 g x b o) s (atomEff { ret := false, width := 4, signed := false, fp := true, op := 0, o := o } x b)
/-- ATOMR.i32 (R168). -/
def execAtomrI32 (g : BitVec 4) (x b : BitVec 7) (z : BitVec 3) (o : BitVec 4) (s : State) : Out :=
  runWord (.atomrI32 g x b z o) s (atomEff { ret := true, width := 4, signed := true, fp := false, op := z.toNat, o := o } x b)
/-- ATOMR.n32 (R168). -/
def execAtomrN32 (g : BitVec 4) (x b : BitVec 7) (z : BitVec 3) (o : BitVec 4) (s : State) : Out :=
  runWord (.atomrN32 g x b z o) s (atomEff { ret := true, width := 4, signed := false, fp := false, op := z.toNat, o := o } x b)
/-- ATOMR.i64 (R168). -/
def execAtomrI64 (g : BitVec 4) (x b : BitVec 7) (z : BitVec 3) (o : BitVec 4) (s : State) : Out :=
  runWord (.atomrI64 g x b z o) s (atomEff { ret := true, width := 8, signed := true, fp := false, op := z.toNat, o := o } x b)
/-- ATOMR.n64 (R168). -/
def execAtomrN64 (g : BitVec 4) (x b : BitVec 7) (z : BitVec 3) (o : BitVec 4) (s : State) : Out :=
  runWord (.atomrN64 g x b z o) s (atomEff { ret := true, width := 8, signed := false, fp := false, op := z.toNat, o := o } x b)
/-- ATOMR.f32.add (R170). -/
def execAtomrF32 (g : BitVec 4) (x b : BitVec 7) (o : BitVec 4) (s : State) : Out :=
  runWord (.atomrF32 g x b o) s (atomEff { ret := true, width := 4, signed := false, fp := true, op := 0, o := o } x b)

/-! The steps that perform accesses. -/

/-- Keep a result with the commit, in both members of a pair, and give it to the anaphor's waiting access (R422, R435). -/
def recordResult (s : State) (a : Access) : State :=
  match a.fwd with
  | none => s
  | some k =>
    let g := wgOf a.tid
    let put := fun (x : Workgroup) => { x with record := tput x.record k (a.result, a.resLabel) }
    match (s.wg g).twin with
    | none => s.modWg g put
    | some h =>
      let s1 := (s.modWg g put).modWg h put
      { s1 with accs := tmap s1.accs fun _ b =>
          if wgOf b.tid = h ∧ b.fwd = some k then { b with stage := .returned, result := a.result, resLabel := a.resLabel, fwd := none } else b }

/-- A load, store or atomic of global memory. -/
def globalKind (k : AccKind) : Bool := decide (k = .load ∨ k = .store ∨ k = .atom ∨ k = .atomr)

/-- An earlier access of the thread to the same bytes has not been performed (R278, R286). -/
def earlierMeets (s : State) (id : Nat) (a : Access) (f : Access → Bool) : Bool :=
  (accsOf s a.tid).any fun e => decide (e.1 < id) && decide (e.2.space = a.space) && f e.2 && globalKind e.2.kind &&
    decide (e.2.stage ≠ .returned) && decide (e.2.stage ≠ .retained) && spansMeet e.2.ia e.2.width a.ia a.width

/-- Set the stage of accesses. -/
def setStage (s : State) (l : List (Nat × Access)) (st : Stage) : State := l.foldl (fun s e => s.modAcc e.1 fun a => { a with stage := st }) s

/-- The other lanes of a load that read the same bytes (R152). -/
def loadMates (s : State) (id : Nat) (a : Access) : List (Nat × Access) :=
  s.accs.filter fun e => decide (e.1 ≠ id) && decide (e.2.inst = a.inst ∧ e.2.kind = .load ∧ a.kind = .load ∧ e.2.space = a.space ∧ e.2.ia = a.ia) &&
    decide (e.2.stage = .issued ∨ e.2.stage = .retry)

/-- Nothing of its own thread or of its twin holds a load back: an earlier load or atomic to the same bytes, or the antecedent's
result (R278, R422). -/
def loadFree (s : State) (id : Nat) (a : Access) : Bool := !awaitsTwin s a && !atomWaits s id a && !loadWaits s id a

/-- A load may be performed now: the lanes that read the same bytes are served together, and where there are several, none of them
reads a store of its own (R152, R278). -/
def loadOpen (s : State) (id : Nat) (a : Access) : Bool :=
  let mates := loadMates s id a
  loadFree s id a && mates.all (fun e => loadFree s e.1 e.2) && (mates.isEmpty || !((id, a) :: mates).any fun e => ownStore s e.1 e.2)

/-- What a launch sees of memory: a replayable launch sees pages of its own (R428). -/
def viewOf (s : State) (t : Nat) : Option Nat := if (s.launchOf (wgOf t)).replay then some (s.wg (wgOf t)).launch else none

/-- The accesses of one load instruction that a fetch of a line serves together (R152). -/
def fetchGroup (s : State) (a : Access) : List (Nat × Access) :=
  s.accs.filter fun e => decide (e.2.inst = a.inst ∧ e.2.kind = a.kind ∧ lineOf e.2.space e.2.ia = lineOf a.space a.ia) &&
    decide (e.2.stage = .issued ∨ e.2.stage = .retry) && decide (viewOf s e.2.tid = viewOf s a.tid) && loadOpen s e.1 e.2

/-- Deliver a line to the accesses it serves. -/
def serveLoads (s : State) (l : List (Nat × Access)) (v : LineView) : State :=
  l.foldl (fun s e =>
    let a := e.2
    if a.kind = .fetch then s.delAcc e.1
    else
      let b := loadFrom s a.tid e.1 a v
      recordResult (s.modAcc e.1 fun _ => b) b) s

/-- A load may be performed now. -/
def fetchEnabled (s : State) (id : Nat) (a : Access) : Bool :=
  decide (a.kind = .load ∨ a.kind = .fetch) && decide (a.stage = .issued) && loadOpen s id a

/-- A MEMHINT that keeps the fetched line out of the L1 (R24, R167). -/
def skipsL1 (a : Access) : Bool := decide (a.cache = 3) || (decide (a.kind = .fetch) && decide (a.cache = 2))

/-- The fetch of a line by a load (R158, R279, R288, R291). -/
def homeFetch (s : State) (id : Nat) (a : Access) : State :=
  let t := a.tid
  let vf := s.vfOf (wgOf t)
  let grp := fetchGroup s a
  match fetchLine s (.acc id) vf (s.grp (gidOf t)).dom (s.cidOf t) (s.wg (wgOf t)).launch a.space (rangeRec s vf a.range) a.ia a.lease (skipsL1 a) with
  | .wait s' => setStage s' grp .retry
  | .refused c => if a.kind = .fetch then grp.foldl (fun s e => s.delAcc e.1) s else setStage s grp (.refused c)
  | .ok s' v => serveLoads s' grp v

/-- HOME_FETCH (R279). -/
def execHomeFetch (acc : Nat) (s : State) : Out :=
  .next (match tfind s.accs acc with
    | some a => if fetchEnabled s acc a then homeFetch s acc a else s
    | none => s)

/-- The kinds that deliver a value through the scoreboard. -/
def delivers (k : AccKind) : Bool :=
  match k with
  | .load | .atomr | .spLoad | .ringGet | .amRead | .tex | .walk => true
  | .store | .atom | .spStore | .ringPut | .amWrite | .insert | .special | .log | .fetch => false

/-- An acquire of scope core expires the copies of its CU and core as it completes (R282). -/
def acqCopies (s : State) (a : Access) : State :=
  if isAcq a.order && decide (a.order.scope = .core) then expireCopies s (s.cidOf a.tid) true else s

/-- A value arrives; an acquire of scope core expires the copies (R282). -/
def loadArrives (s : State) (id : Nat) (a : Access) : State :=
  let s0 := (arrive s id a).modThr a.tid (raiseWct a.wct)
  acqCopies (if a.kind = .load && decide (a.cache ≠ 3) then fillFromL2 s0 (s.cidOf a.tid) (lineOf a.space a.ia) else s0) a

/-- The counter an access of a store kind is counted in: FLSET in none (R194). -/
def countOf (a : Access) : Option OctClass := if a.kind = .insert ∧ a.op = 1 then none else classOf a.kind

/-- A store completes: counted down and gone. -/
def completeStore (s : State) (id : Nat) (a : Access) : State :=
  (s.delAcc id).modThr a.tid fun x => match countOf a with | some c => octDown c x | none => x

/-- The lanes of a store instruction whose bytes leave in one write (R152). -/
def mergeGroup (s : State) (id : Nat) (a : Access) : List (Nat × Access) :=
  s.accs.filter fun e => decide (e.1 = id) || (e.2.merged && decide (e.2.kind = .store ∧ e.2.inst = a.inst ∧ e.2.space = a.space ∧ e.2.ia = a.ia) && mergesWith s e.2.tid a.tid)

/-- Each lane of a merged write completes. -/
def completeStores (s : State) (l : List (Nat × Access)) : State := l.foldl (fun s e => completeStore s e.1 e.2) s

/-- The workgroup of a thread has ended: its accesses take no pin (R163). -/
def pinless (s : State) (t : Nat) : Bool := (s.wg (wgOf t)).ended

/-- A pin of a line takes a write of several threads. -/
def pinWrite (s : State) (h : Holder) (a : Access) (bs : List Byte) (l : Label) (ts : List Nat) (marks : Bool) : State :=
  ts.foldl (fun s t => writePin s h (lineOf a.space a.ia) (a.ia % 64) bs l (s.grp (gidOf t)).dom (wgOf t) t a.pc marks) s

/-- A store is performed: in a pin its CU or core holds or takes, or at the home (R160, R163). -/
def homeWrite (s : State) (id : Nat) (a : Access) : State :=
  let t := a.tid
  let cid := s.cidOf t
  let vf := s.vfOf (wgOf t)
  let line := lineOf a.space a.ia
  let dom := (s.grp (gidOf t)).dom
  let lch := (s.wg (wgOf t)).launch
  let grp := mergeGroup s id a
  let ts := grp.map (·.2.tid)
  let lbl := orAll (grp.map (·.2.label))
  let bs := leBytes a.data a.width
  let own := ownPin s cid line
  if own.isNone && pinnedElsewhere s (ownHolders cid) line then setStage (noteWait s (ownHolders cid) line (.acc id)) [(id, a)] .retry
  else match memSide s vf dom a.space (rangeRec s vf a.range) a.ia true lbl with
    | .refused c => setStage s grp (.refused c)
    | .retry s' => setStage s' [(id, a)] .retry
    | .ok s' =>
      match own.map (·.1), if pinless s t then none else a.engine with
      | some h, _ | none, some h => completeStores (pinWrite s' h a bs lbl ts false) grp
      | none, none =>
        let late := (performedStores s' (cid / 8) line).filter fun e => spansMeet e.2.ia e.2.width a.ia a.width
        let sd := late.foldl (fun s e => dropCopies s (32 + s.cidOf e.2.tid) line) (if late.isEmpty then s' else dropCopies s' (32 + cid) line)
        let (s1, wct) := performStore sd vf lch dom a.space a.ia bs lbl
        grp.foldl (fun s e => s.modAcc e.1 fun a => { a with stage := .returned, wct := wct }) s1

/-- A commit performs each thread's entries in program order (R418 step 3). -/
def commitTurn (s : State) (id : Nat) (a : Access) : Bool :=
  !a.retained || !(accsOf s a.tid).any fun e => decide (e.1 < id) && e.2.retained && decide (e.2.stage = .issued ∨ e.2.stage = .retry ∨ e.2.stage = .held)

/-- The order of requests of one line: arrival, then CU, slot, lane, workgroup index, gi (R172). What counts as one engine cycle, and
when a request arrives, the spec does not say: the model takes the tick at which it was issued or sent again (DESIGN CHOICE, log
entry 72). -/
def requestKey (s : State) (id : Nat) (a : Access) : List Nat :=
  [a.sentAt, s.cidOf a.tid, laneOf a.tid % 16, laneOf a.tid, (s.wg (wgOf a.tid)).index, gidOf a.tid % 16, id]

/-- No write to the line that arrived in the same cycle comes before (R172, R276). -/
def firstOfCycle (s : State) (id : Nat) (a : Access) : Bool :=
  !s.accs.any fun e => decide (e.2.kind = .store ∨ e.2.kind = .atom ∨ e.2.kind = .atomr) && decide (e.2.stage = .issued) && !e.2.merged &&
    decide (e.2.sentAt = a.sentAt ∧ lineOf e.2.space e.2.ia = lineOf a.space a.ia ∧ e.2.engine = a.engine) && keyBefore (requestKey s e.1 e.2) (requestKey s id a)

/-- A store may be performed now: with the lanes merged into it, in the order of its cycle, and no earlier access of their threads to
the same bytes waits (R152, R276, R278, R286). -/
def writeEnabled (s : State) (id : Nat) (a : Access) : Bool :=
  decide (a.kind = .store) && !a.merged && firstOfCycle s id a &&
  (mergeGroup s id a).all fun e => decide (e.2.stage = .issued) && commitTurn s e.1 e.2 && !earlierMeets s e.1 e.2 fun _ => true

/-- HOME_WRITE (R279). -/
def execHomeWrite (acc : Nat) (s : State) : Out :=
  .next (match tfind s.accs acc with
    | some a => if writeEnabled s acc a then homeWrite s acc a else s
    | none => s)

/-- A write-completion time returns: the thread's sr.wct, the issuer's copies, the count (R160, R277). -/
def returnWct (s : State) (id : Nat) (a : Access) : State :=
  (acqCopies (completeStore (if a.kind = .store && !a.merged then updateCopies s id a else s) id a) a).modThr a.tid (raiseWct a.wct)

/-- WRITE_COMPLETION_RETURN (R160). -/
def execWriteCompletionReturn (acc : Nat) (s : State) : Out :=
  .next (match tfind s.accs acc with
    | some a => if decide (a.kind = .store ∨ a.kind = .atom ∨ a.kind = .insert) && decide (a.stage = .returned) then returnWct s acc a else s
    | none => s)

/-- Everything a held release waits for has completed. -/
def afterDone (s : State) (a : Access) : Bool := a.after.all fun i => (tfind s.accs i).isNone

/-- A release of scope dev, part or sys (R161). -/
def wideRelease (o : Order) : Bool := decide (o.scope = .dev ∨ o.scope = .part ∨ o.scope = .sys)

/-- A held release: after the earlier stores, the narrower pins are performed; then it leaves once device time exceeds
sr.wct (R161, R163). -/
def heldRelease (s : State) (acc : Nat) (a : Access) : State :=
  if afterDone s a then
    if !(narrowPins s (wgOf a.tid) a.order.scope).isEmpty then performPins s (wgOf a.tid) a.order.scope a.tid
    else if wideRelease a.order && decide (s.now ≤ (s.thr a.tid).wct) then s
    else s.modAcc acc fun a => { a with stage := .issued, sentAt := s.now.toNat }
  else s

/-- PIN_FORCED_RELEASE: a pin held 64 000 ticks while an outside access waits is performed, and a cause entry written
(R163, R288, R349). -/
def execPinForcedRelease (holder line : Nat) (s : State) : Out :=
  .next (match pinAt s holder line with
    | some p => match p.waitSince with
      | some t0 => if 64000 ≤ (s.now - t0).toNat then detCause (performPin s holder p (some p.tid)) (s.wg p.wg).launch 0x01 p.pc else s
      | none => s
    | none => s)

/-- REFUSED_ACCESS_RETRY (R288). -/
def execRefusedAccessRetry (acc : Nat) (s : State) : Out :=
  .next (match tfind s.accs acc with
    | some a => if a.stage = .retry then s.modAcc acc fun a => { a with stage := .issued, sentAt := s.now.toNat } else s
    | none => s)

/-! Atomic engines (R171, R172). -/

/-- An atomic waits at an engine, and nothing of its thread holds it back (R161, R278, R418). -/
def atEngine (s : State) (engine id : Nat) (a : Access) : Bool :=
  decide (a.kind = .atom ∨ a.kind = .atomr) && decide (a.stage = .issued) && decide (a.engine = some engine) && commitTurn s id a && !awaitsTwin s a &&
    !earlierMeets s id a fun _ => true

/-- The requests that wait at an engine. -/
def waitingAt (s : State) (engine : Nat) : List (Nat × Access) := s.accs.filter fun e => atEngine s engine e.1 e.2

/-- Insert a request by arrival. -/
def insertRequest (s : State) (e : Nat × Access) : List (Nat × Access) → List (Nat × Access)
  | [] => [e]
  | x :: r => if keyBefore (requestKey s e.1 e.2) (requestKey s x.1 x.2) then e :: x :: r else x :: insertRequest s e r

/-- The requests of a list by arrival. -/
def byArrival (s : State) (l : List (Nat × Access)) : List (Nat × Access) := l.foldr (insertRequest s) []

/-- The line store of a core's engine: the lines it holds while requests for them wait, then the others in the order of arrival, up
to 64 (R172). -/
def lineStore (s : State) (engine : Nat) : List Nat :=
  let l := (byArrival s (waitingAt s engine)).map fun e => lineOf e.2.space e.2.ia
  (dedup ((s.core engine).lineStore.filter l.contains ++ l)).take 64

/-- The requests an engine may serve next: of the lines of its store, the first of their cycle; a CU that performs atomics of scope wg
has no line store (R172). -/
def servable (s : State) (engine : Nat) : List (Nat × Access) :=
  let ls := lineStore s engine
  (waitingAt s engine).filter fun e => firstOfCycle s e.1 e.2 && (decide (32 ≤ engine) || ls.contains (lineOf e.2.space e.2.ia))

/-- A request comes from another core than the engine's. -/
def fromOther (s : State) (engine : Nat) (a : Access) : Bool := decide (engine < 32) && decide (s.cidOf a.tid / 8 ≠ engine)

/-- The request that must be served now: after eight services, the oldest of those from other cores that may be (R172; log entry
72). -/
def dueOther (s : State) (engine : Nat) : Option Nat :=
  if (s.core engine).ownRun < 8 then none else ((byArrival s ((servable s engine).filter fun e => fromOther s engine e.2)).head?).map (·.1)

/-- A request may be served now. -/
def mayServe (s : State) (engine id : Nat) : Bool :=
  (servable s engine).any (fun e => e.1 == id) && (match dueOther s engine with | some d => d == id | none => true)

/-- An engine keeps its line store, and counts the services it gives while another core's request waits (R172). -/
def noteService (s : State) (engine : Nat) (a : Access) : State :=
  if 32 ≤ engine then s
  else
    let others := (waitingAt s engine).any fun e => fromOther s engine e.2
    s.modCore engine fun c => { c with lineStore := lineStore s engine, ownRun := if others && !fromOther s engine a then c.ownRun + 1 else 0 }

/-- What an atomic leaves in memory and returns: a poisoned word is left unless exchanged (R169). -/
def atomNew (a : Access) (old : Nat) (bad : Bool) : Nat := if bad && a.op ≠ 6 then old else atomOp a.op a.width a.signed a.fp old a.data a.cmp

/-- An atomic has been performed: its result is on its way, or it completes with its pin; an acquire of scope core expires the copies
as it completes (R282, R284). -/
def atomDone (s : State) (id : Nat) (a : Access) (old : Nat) (bad : Bool) (lbl : Label) (wct : DWord) (pinned : Bool) : State :=
  if a.kind = .atom && pinned then acqCopies (completeStore s id a) a
  else
    let b := { a with stage := .returned, wct := wct, resLabel := lbl, result := if a.kind = .atomr then cellsOf old bad (a.width / 4) else [] }
    recordResult (s.modAcc id fun _ => b) b

/-- The memory side's answer to an atomic: ATOM writes, ATOMR reads and writes (R150, R353, R359). -/
def atomSide (s : State) (t : Nat) (a : Access) : Side :=
  let vf := s.vfOf (wgOf t)
  let dom := (s.grp (gidOf t)).dom
  let r := rangeRec s vf a.range
  let write := fun (s : State) => memSide s vf dom a.space r a.ia true a.label
  if a.kind = .atomr then
    match memSide s vf dom a.space r a.ia false 0 with
    | .ok s' => write s'
    | x => x
  else write s

/-- An atomic is performed: in a pin its CU or core holds or takes, or at the home; a poisoned word is left as it is, unless
exchanged (R163, R169 to R171). -/
def atomPerform (s : State) (id : Nat) (a : Access) : State :=
  let t := a.tid
  let cid := s.cidOf t
  let vf := s.vfOf (wgOf t)
  let line := lineOf a.space a.ia
  let dom := (s.grp (gidOf t)).dom
  let lch := (s.wg (wgOf t)).launch
  let own := ownPin s cid line
  if own.isNone && pinnedElsewhere s (ownHolders cid) line then setStage (noteWait s (ownHolders cid) line (.acc id)) [(id, a)] .retry
  else match atomSide s t a with
    | .refused c => setStage s [(id, a)] (.refused c)
    | .retry s' => setStage s' [(id, a)] .retry
    | .ok s' =>
      let s' := noteService s' (a.engine.getD 32) a
      match own, if pins a.order && !pinless s t then a.engine else none with
      | some (h, p), _ =>
        let old := leNat ((p.bytes.drop (a.ia % 64)).take a.width)
        let bad := p.bad.contains (a.ia % 64 / 8)
        let s1 := pinWrite s' h a (leBytes (atomNew a old bad) a.width) a.label [t] (bad && decide (a.op ≠ 6))
        atomDone s1 id a old bad (p.label ||| a.label ||| storedLabel s' a.space (rangeRec s vf a.range) a.ia) 0 true
      | none, pin =>
        let bad := spanBad s' a.space a.ia a.width
        let s0 := detectMem s' vf a.space a.ia a.width
        let old := leNat (memRead s0 lch a.space a.ia a.width)
        let bs := leBytes (atomNew a old bad) a.width
        let keep := bad && decide (a.op ≠ 6)
        match pin with
        | some h =>
          atomDone (pinWrite s0 h a bs a.label [t] keep) id a old bad (a.label ||| storedLabel s0 a.space (rangeRec s vf a.range) a.ia) 0 true
        | none =>
          let marks := (s0.grains, s0.sectors)
          let (s1, wct) := performWrite (dropCopies s0 (32 + cid) line) lch dom a.space a.ia bs a.label
          let s2 := if keep then { s1 with grains := marks.1, sectors := marks.2 } else s1
          atomDone s2 id a old bad (storedLabel s2 a.space (rangeRec s vf a.range) a.ia) wct false

/-- ATOMIC_ENGINE_SERVICE: engines 0 to 31 are the cores', 32 + cid a CU performing atomics of scope wg; the request served (R171,
R172). -/
def execAtomicEngineService (engine acc : Nat) (s : State) : Out :=
  .next (match tfind s.accs acc with
    | some a => if mayServe s engine acc then atomPerform s acc a else s
    | none => s)

/-- A refused access completes: a load or ATOMR writes 0 with the sources' label, a store or ATOM is dropped (R156). -/
def refuse (s : State) (id : Nat) (a : Access) (cause : Nat) : State :=
  let s1 := (if a.retained then fillShadow else fillDeferred) s a.tid { cause := cause, pc := a.pc, ea := a.ea }
  if delivers a.kind then
    let b := { a with result := a.dest.map fun _ => ({} : Cell), resLabel := 0, wct := 0 }
    loadArrives (recordResult s1 b) id b
  else completeStore s1 id a

/-- DEFERRED_REFUSAL (R156). -/
def execDeferredRefusal (acc : Nat) (s : State) : Out :=
  .next (match tfind s.accs acc with
    | some a => match a.stage with
      | .refused c => refuse s acc a c
      | _ => s
    | none => s)

end Sys2Proof.Machine
end

