-- ==== Sys2Proof/Machine/Branch.lean ====
section
/-! DEFINITION. BRX: the table word as a relaxed load of the thread, the bound and the target (R127, R129, R158). -/

namespace Sys2Proof.Machine

/-- The table offset of BRX in words (R23, R129). -/
def tableOffset (a : Advs) (o : BitVec 7) : DWord :=
  match a.imm with
  | some p => (p ++ o).signExtend 64
  | none => o.signExtend 64

/-- The address of a lane's table word (R129). -/
def tableEa (s : State) (w : Wx) (a o : BitVec 7) (t : Nat) : DWord :=
  w.b.pc + tableOffset w.b.advs o * 4 + d64 (4 * (readReg s t a.toNat).val.toNat)

/-- The range through which a lane reads its table word: in bounds, readable and not writable (R129). -/
def tableRange (s : State) (w : Wx) (bound : Nat) (a o : BitVec 7) (t : Nat) : Option (List DWord) :=
  if bound < (readReg s t a.toNat).val.toNat then none
  else ((rangeOf s w.vf (tableEa s w a o t)).map (·.2)).filter fun r => permR r && !permW r

/-- What a lane's read of its table word answers. -/
inductive TableRead where
  | wait (s : State)
  | word (s : State) (v : Cell)

/-- A lane's table word, as a relaxed load of its thread: its own stores, the CU's copies, else the line's home; a refused load reads
0 and leaves its record; a word of a failed grain is poisoned (R129, R156, R158, R412). -/
def tableRead (s : State) (w : Wx) (t : Nat) (ea : DWord) (r : List DWord) : TableRead :=
  let sp := spaceOf r
  let ia := iaOf r ea
  let dom := (s.grp (gidOf t)).dom
  let lch := (s.wg (wgOf t)).launch
  let a : Access := { kind := .load, tid := t, ea := ea, ia := ia, space := sp }
  let value := fun (v : LineView) => (cellsOfPart (forward s t s.fresh sp ia (v.part (ia % 64) 4)).1 4 false).headD {}
  if atomWaits s s.fresh a || loadWaits s s.fresh { a with inst := s.fresh } then .wait s
  else match cachedLine s w.cid lch dom sp r ia with
  | some v => .word s (value v)
  | none => match fetchLine s (.bundle w.pipe w.b.pc) w.vf dom w.cid lch sp r ia 0 false with
    | .wait s' => .wait s'
    | .refused c => .word (fillDeferred s t { cause := c, pc := w.b.pc, ea := ea }) {}
    | .ok s' v => .word s' (value v)

/-- The table words of lanes, one after another, or the state in which the bundle waits. -/
def tableReads (w : Wx) (bound : Nat) (a o : BitVec 7) (s0 : State) : List Nat → State → Except State (State × Table Cell)
  | [], s => .ok (s, [])
  | t :: r, s => match tableRange s0 w bound a o t with
    | none => tableReads w bound a o s0 r s
    | some rg => match tableRead s w t (tableEa s0 w a o t) rg with
      | .wait s' => .error s'
      | .word s' v => (tableReads w bound a o s0 r s').map fun x => (x.1, (t, v) :: x.2)

/-- One lane of BRX: bound, table word, target; the bound leaves no target to check, every other cause competes, a poisoned index or
table word among them (R127, R129, R414; log entry 73). -/
def brxLane (s : State) (w : Wx) (bound : Nat) (a o : BitVec 7) (words : Table Cell) (t : Nat) : Transfer :=
  let ea := tableEa s w a o t
  let v := (words.find? fun e => e.1 == t).map (·.2) |>.getD {}
  let bad := if (readReg s t a.toNat).poison || v.poison then [(0x12, (0 : DWord))] else []
  if bound < (readReg s t a.toNat).val.toNat then { tid := t, fails := (0x09, 0) :: bad }
  else match rangeOf s w.vf ea with
    | none => { tid := t, fails := (0x03, ea) :: bad }
    | some (_, r) =>
      if !permR r || permW r then { tid := t, fails := (0x04, ea) :: bad }
      else
        let tg := w.b.pc + tableOffset w.b.advs o * 4 + v.val.signExtend 64 * 4
        { tid := t, fails := targetFails s w.vf w.cid tg ++ bad, target := tg }

/-- BRX: held behind an acquire of the thread, and until its table words are there (R129, R162); the context label takes the index
register's label (R58). -/
def brxEff (bound : Nat) (a o : BitVec 7) (s : State) (w : Wx) : Eff :=
  let act := w.act s
  if act.any (acquirePending s) then .hold s
  else match tableReads w bound a o s act s with
    | .error s' => .hold s'
    | .ok (s', words) =>
      let s1 := (groupsOf w.b.tids).foldl (fun s g => raiseCtx s g (fieldLabel s g a.toNat)) s'
      transferEff s1 w (act.map (brxLane s1 w bound a o words))

/-- BRX (R129). -/
def execBrx (g : BitVec 4) (n a i : BitVec 7) (s : State) : Out := runWord (.brx g n a i) s (brxEff n.toNat a i)

end Sys2Proof.Machine
end

