-- ==== Sys2Proof/Machine/Array.lean ====
section
/-! DEFINITION. Inside a k-step: the squarer array's cells, edges and drain, the loader, promotion, and the residue check (R234 to
R248, R252). -/

namespace Sys2Proof.Machine

/-- Cell (R234): the narrow accumulator takes the square of the sum of the two cell words at each k-step. -/
def cellSum : List Int → List Int → Nat
  | a :: as, b :: bs => ((a + b) * (a + b)).toNat + cellSum as bs
  | _, _ => 0

/-- Edge (R234): the sum of squares of a row's or column's own words. -/
def edgeSum : List Int → Nat
  | [] => 0
  | a :: as => (a * a).toNat + edgeSum as

/-- The drain (R237): D modulo 2^32, read as signed, shifted right by one. -/
def drain (n ra cb : Nat) : Int :=
  ((BitVec.ofNat 32 n - BitVec.ofNat 32 ra - BitVec.ofNat 32 cb).sshiftRight 1).toInt

/-- What a cell drains for a row's and a column's words. -/
def drained (as bs : List Int) : Int := drain (cellSum as bs) (edgeSum as) (edgeSum bs)

/-! The loader (R239 to R243). -/

/-- A float element (R241): its exponent and significand, or special. -/
inductive Elem where
  | special
  | fin (neg : Bool) (e : Int) (m : Nat)
  deriving DecidableEq, Repr

/-- The format, shift constant of an MXOP format code: 4 E4M3, 5 E5M2, 6 BF16, 7 FP16 (R209, R241). -/
def mxFmt (f : Nat) : Fmt × Nat :=
  match f with
  | 4 => (e4m3, 7)
  | 5 => (e5m2, 8)
  | 6 => (bf16, 14)
  | _ => (f16, 11)

/-- An element of a float format (R241). -/
def elemOf (f : Nat) (b : Nat) : Elem :=
  let fm := (mxFmt f).1
  let ef := bits b fm.fb fm.eb
  let fr := bits b 0 fm.fb
  match fm.value b with
  | .nan _ => .special
  | .inf _ => .special
  | .fin s _ _ => .fin s ((max ef 1 : Nat) - (fm.bias : Int)) (if ef = 0 then fr else 2 ^ fm.fb + fr)

/-- The block exponent: the largest E of the finite elements, else 1 - bias (R241). -/
def blockExp (f : Nat) (l : List Elem) : Int :=
  (l.foldl (fun m e => match e, m with
    | .fin _ e _, none => some e
    | .fin _ e _, some x => some (if x < e then e else x)
    | .special, m => m) (none : Option Int)).getD (1 - ((mxFmt f).1.bias : Int))

/-- The magnitude aligned to the block exponent, rounded once to nearest even (R242). -/
def aligned (f : Nat) (ex : Int) : Elem → Int
  | .special => 0
  | .fin s e m =>
    let c : Int := ((roundAt 0 false m (e - ex + ((mxFmt f).2 : Int)) 0 false).1 : Nat)
    if s then -c else c

/-- The high slice of a BF16 or FP16 value (R242). -/
def hiSlice (c : Int) : Int := if c < 0 then -(c.natAbs / 2048 : Nat) else (c.natAbs / 2048 : Nat)
/-- The low slice. -/
def loSlice (c : Int) : Int := if c < 0 then -(c.natAbs % 2048 : Nat) else (c.natAbs % 2048 : Nat)

/-- The value of an integer element: signed for `.i8` and `.i4`, code less zero point for the grouped forms (R239). -/
def intElem (f z b : Nat) : Int :=
  match f with
  | 0 => if b < 128 then (b : Int) else (b : Int) - 256
  | 1 => (b : Int) - (z : Int)
  | 2 => if b < 8 then (b : Int) else (b : Int) - 16
  | _ => (b : Int) - (z : Int)

/-- Bits of an element of a format code. -/
def elemBits (f : Nat) : Nat := match f with | 2 | 3 => 4 | 6 | 7 => 16 | _ => 8

/-- Element k of a byte list of a format, counted from the first (R209). -/
def elemAt (f : Nat) (bs : List Byte) (k : Nat) : Nat :=
  match elemBits f with
  | 4 => let b := ((bs[k / 2]?).getD 0).toNat; if k % 2 = 0 then b % 16 else b / 16
  | 16 => leNat ((bs.drop (2 * k)).take 2)
  | _ => ((bs[k]?).getD 0).toNat

/-- A row or column of a block as the array takes it: its words (two slices for BF16 and FP16), block exponent, special
flag and scale (R236). -/
structure Lane where
  words : List Int
  lows : List Int := []
  ex : Int := 0
  special : Bool := false
  scale : Nat := 0
  zero : Nat := 0
  deriving DecidableEq, Repr

/-- Load n elements of a row or column; the table entry gives scale and zero point of the grouped forms (R209, R239). -/
def loadLane (f n entry : Nat) (bs : List Byte) : Lane :=
  let raw := (upto n).map (elemAt f bs)
  if f ≤ 3 then
    let z := if f = 3 then bits entry 16 4 else bits entry 16 8
    let sc := bits entry 0 16
    { words := raw.map (intElem f z), scale := sc, zero := z
      special := (f = 1 ∨ f = 3) && (match f16.value sc with | .fin _ _ _ => false | _ => true) }
  else
    let es := raw.map (elemOf f)
    let ex := blockExp f es
    let cs := es.map (aligned f ex)
    { words := if 6 ≤ f then cs.map hiSlice else cs, lows := if 6 ≤ f then cs.map loSlice else [], ex := ex
      special := es.any fun e => decide (e = .special) }

/-! The sums of a block and their residues (R234, R236, R252). -/

/-- The residue modulo 3 of a signed integer (R252). -/
def residue3 (x : Int) : Nat := (x.emod 3).toNat

/-- The residue a cell predicts from the operands (R252). -/
def cellRes : List Int → List Int → Nat
  | a :: as, b :: bs => (cellRes as bs + (residue3 a + residue3 b) * (residue3 a + residue3 b)) % 3
  | _, _ => 0

/-- The residue an edge predicts (R252). -/
def edgeRes : List Int → Nat
  | [] => 0
  | a :: as => (edgeRes as + residue3 a * residue3 a) % 3

/-- The passes of a block: four for BF16 and FP16 (R244). -/
def passesOf (f : Nat) : Nat := if 6 ≤ f then 4 else 1
/-- The words of an A row in a pass: hi, hi, lo, lo. -/
def aWords (p : Nat) (l : Lane) : List Int := if p ≤ 1 then l.words else l.lows
/-- The words of a B column in a pass: hi, lo, hi, lo. -/
def bWords (p : Nat) (l : Lane) : List Int := if p % 2 = 0 then l.words else l.lows

/-- The correction registers of a row or column in a pass (R236). -/
def edgeOf (l : Lane) (ws : List Int) : MxEdge :=
  { sum := edgeSum ws, ex := l.ex, special := l.special, res := edgeRes ws, scale := l.scale, zero := l.zero }

/-- The sums of a pass (R234, R236). -/
def passSums (as bs : List Lane) (p : Nat) : MxPass :=
  { rows := as.map fun a => edgeOf a (aWords p a)
    cols := bs.map fun b => edgeOf b (bWords p b)
    cells := as.map fun a => bs.map fun b => { n := cellSum (aWords p a) (bWords p b), res := cellRes (aWords p a) (bWords p b) } }

/-- The three checks of a pass at its drain: the residues of cells and edges, and D even (R252). -/
def passOk (x : MxPass) : Bool :=
  (x.rows.all fun e => decide (e.sum % 3 = e.res)) && (x.cols.all fun e => decide (e.sum % 3 = e.res)) &&
  (x.rows.zip x.cells).all fun r => (x.cols.zip r.2).all fun c =>
    decide (c.2.n % 3 = c.2.res) && decide ((c.2.n + r.1.sum + c.1.sum) % 2 = 0)

/-! Promotion (R244 to R248). -/

/-- X as FP32 under RNE: exact value and the inexact flag. -/
def toF32 (x : Int) : Fv × BitVec 5 :=
  let r := f32.round {} (if x = 0 then .zero false else .num (decide (x < 0)) x.natAbs 0 false)
  (f32.value r.1, r.2)

/-- fma(t, v, y) of R244: exact t · v + y, rounded once; a zero is written as +0. -/
def fmaAm (tv : Fv) (y : Nat) : Nat × BitVec 5 :=
  let yv := f32.value y
  let r := exAdd 0 tv yv
  let p := f32.round {} r.1
  (if p.1 = 0x80000000 then 0 else p.1, p.2 ||| r.2 ||| yv.sig)

/-- t times a power of two. -/
def scaleFv (k : Int) : Fv → Fv
  | .fin s m e => .fin s m (e + k)
  | v => v

/-- One float pass: t := X rounded, y := fma(t, 2^k, y). -/
def floatPass (x : Int) (k : Int) (y : Nat) : Nat × BitVec 5 :=
  let t := toF32 x
  let r := fmaAm (scaleFv k t.1) y
  (r.1, r.2 ||| t.2)

/-- The promotion of one element from its row's and column's correction registers and what its passes drained: its new AM word and
flags (R244, R245, R247). -/
def promoteX (f : Nat) (a b : MxEdge) (xs : List Int) (y : Nat) : Nat × BitVec 5 :=
  let x := fun (i : Nat) => (xs[i]?).getD 0
  if f = 0 ∨ f = 2 then (((y : Int) + x 0).emod (2 ^ 32) |>.toNat, 0)
  else if f = 1 ∨ f = 3 then
    if a.special || b.special then (0x7FC00000, flagV)
    else
      let t := toF32 (x 0)
      fmaAm (exMul t.1 (exMul (f16.value a.scale) (f16.value b.scale)).1).1 y
  else if f ≤ 5 then
    if a.special || b.special then (0x7FC00000, flagV) else floatPass (x 0) (a.ex + b.ex - 20) y
  else
    let k := a.ex + b.ex - 42
    let r1 := floatPass (x 0) (k + 22) y
    let r2 := floatPass (x 1) (k + 11) r1.1
    let r3 := floatPass (x 2) (k + 11) r2.1
    let r4 := floatPass (x 3) k r3.1
    let fl := r1.2 ||| r2.2 ||| r3.2 ||| r4.2
    if a.special || b.special then (0x7FC00000, fl ||| flagV) else (r4.1, fl)

/-- The promotion of one element from the words of its row and column (R244). -/
def promote (f : Nat) (a b : Lane) (y : Nat) : Nat × BitVec 5 :=
  promoteX f (edgeOf a a.words) (edgeOf b b.words) ((upto (passesOf f)).map fun p => drained (aWords p a) (bWords p b)) y

/-- What element (i, j) drains in a pass (R237). -/
def passDrain (x : MxPass) (i j : Nat) : Int :=
  drain ((((x.cells[i]?).getD [])[j]?).getD {}).n ((x.rows[i]?).getD {}).sum ((x.cols[j]?).getD {}).sum

end Sys2Proof.Machine
end

