-- ==== Sys2Proof/Machine/Rings.lean ====
section
/-! DEFINITION. Stage rings: puts, gets, peeks, remote puts and credits (R174 to R182, R292 to R296, R305). -/

namespace Sys2Proof.Machine

/-- Lanes ascending; the same lane of several groups by group. -/
def laneBefore (a b : Nat) : Bool := decide (laneOf a < laneOf b ∨ (laneOf a = laneOf b ∧ a < b))
/-- Insert a thread in lane order. -/
def insertLane (t : Nat) : List Nat → List Nat
  | [] => [t]
  | u :: r => if laneBefore t u then t :: u :: r else u :: insertLane t r
/-- Threads in ascending lane order (R176). -/
def sortLanes (l : List Nat) : List Nat := l.foldr insertLane []

/-- The guard-true lanes of each workgroup of the bundle. -/
def lanesByWg (act : List Nat) : List (Nat × List Nat) :=
  (wgsOf act).map fun g => (g, sortLanes (act.filter fun t => wgOf t == g))

/-- Words of a payload field (R36). -/
def payloadWords (l : BitVec 2) : Nat := 2 ^ l.toNat

/-- The labels of the filled slots of a ring (R154). -/
def filledLabel (r : Ring) : Label := orAll ((upto r.filled).map fun i => sget 0 r.label ((r.head + i) % r.desc.n))

/-- Queue order within one cycle: ascending pipe (R180). -/
def insertPut (e : PutEntry) : List PutEntry → List PutEntry
  | [] => [e]
  | x :: r => if e.at_ = x.at_ ∧ e.pipe < x.pipe then e :: x :: r else x :: insertPut e r

/-- Claims in order, within one cycle by ascending pipe (R180). -/
def insertClaim (e : Claim) : List Claim → List Claim
  | [] => [e]
  | x :: r => if e.at_ = x.at_ ∧ e.pipe < x.pipe then e :: x :: r else x :: insertClaim e r

/-- The access record of a lane's put: a release toward its slot (R153, R180). -/
def putAcc (s : State) (w : Wx) (data : Opnd) (m t : Nat) (sc : Scope) (aux : List Nat) (inst : Nat) : Access :=
  { kind := .ringPut, tid := t, pc := w.b.pc, width := 4 * m, data := wordsVal (readOpnd s t data), label := w.label s (gidOf t)
    order := { kind := .release, scope := sc }, after := earlierStores s t, aux := aux, inst := inst, sentAt := s.now.toNat }

/-- The queue entry of a lane's put. -/
def entryOf (now pipe id : Nat) (a : Access) : PutEntry :=
  { data := leBytes a.data a.width, label := a.label, acc := some id, at_ := now, pipe := pipe }

/-- Queue the payloads of one workgroup's lanes on its ring: releases at scope core where the ring is inbound (R176, R180). -/
def queuePuts (s0 : State) (w : Wx) (data : Opnd) (m q : Nat) (s : State) (p : Nat × List Nat) : State :=
  p.2.foldl (fun s t =>
    let a := putAcc s0 w data m t (if (s0.ring p.1 q).desc.inbound then .core else .wg) [] s0.fresh
    let e := entryOf s.now.toNat w.pipe s.fresh a
    ((s.addAcc a).modThr t (countUp .ringPut)).modRing p.1 q fun r => { r with puts := insertPut e r.puts }) s

/-- QPUT: queued behind earlier puts, held at issue while the queue has no room (R155, R176). -/
def qputEff (data : Opnd) (m q : Nat) (s : State) (w : Wx) : Eff :=
  let act := w.act s
  if act.any (acquirePending s) || kindFull s .ringPut act then .hold s
  else match poisonFails s act data with
    | [] =>
      if (lanesByWg act).any fun p => decide (64 < (s.ring p.1 q).puts.length + p.2.length) then .hold s
      else .done ((lanesByWg act).foldl (queuePuts s w data m q) s)
    | bad => .fail bad

/-- QPUT (R176). -/
def execQput (g : BitVec 4) (v : BitVec 7) (q : BitVec 4) (l : BitVec 2) (s : State) : Out :=
  runWord (.qput g v q l) s (qputEff (payloadOpnd l v) (payloadWords l) q.toNat)

/-! Remote puts and credits (R181, R295). -/

/-- The key of a credit entry: target CU and ring. -/
def creditKey (dst q : Nat) : Nat := dst * 16 + q

/-- The credit entry of a CU for a target ring. -/
def creditOf (s : State) (cid dst q : Nat) : Credit := (tfind (s.cu cid).credits (creditKey dst q)).getD {}

/-- The CU named by a remote put: in the issuing core (R181). -/
def remoteCid (s : State) (t k : Nat) : Nat := s.cidOf t / 8 * 8 + k

/-- An entry after one lane's send (R295). -/
def Credit.spend (c : Credit) : Credit :=
  { c with credit := c.credit - 1, sent := sset 0 c.sent c.gen.toNat (sget 0 c.sent c.gen.toNat + 1) }

/-- Send a lane's put: its generation comes from the credit entry, which it lowers (R295, R305). -/
def sendPut (s : State) (id : Nat) (a : Access) : State :=
  let cid := s.cidOf a.tid
  let dst := remoteCid s a.tid (a.aux.headD 0)
  let q := (a.aux.drop 1).headD 0
  let c := creditOf s cid dst q
  let e := { entryOf s.now.toNat 0 id a with src := some cid }
  let s1 := s.modAcc id fun a => { a with stage := .issued, after := earlierStores s a.tid }
  let s2 := s1.modCu cid fun u => { u with credits := tput u.credits (creditKey dst q) c.spend }
  { s2 with msgs := tput s2.msgs s2.fresh (.put cid dst q c.gen (s.wg (wgOf a.tid)).launch e c.absent), fresh := s2.fresh + 1 }

/-- A workgroup is a member of a pair. -/
def isPaired (m : WgMode) : Bool := decide (m = .ante ∨ m = .ana)

/-- Issue one lane of a remote put: into the compare buffer of a pair (R421), else sent. -/
def remoteLane (s0 : State) (w : Wx) (data : Opnd) (m k q : Nat) (s : State) (t : Nat) : State :=
  let a := { putAcc s0 w data m t .core [k, q] s0.fresh with ea := d64 (creditKey k q) }
  let id := s.fresh
  let s1 := (s.addAcc a).modThr t (countUp .ringPut)
  if isPaired (s.wg (wgOf t)).mode then retainLane s1 t id else sendPut s1 id a

/-- The lanes that send now or at the commit: an anaphor's puts are discarded (R421). -/
def sendingLanes (s : State) (act : List Nat) : List Nat := act.filter fun t => decide ((s.wg (wgOf t)).mode ≠ .ana)

/-- The credit covers the lanes, or the entry is marked absent (R181, R295). -/
def creditCovers (s : State) (act : List Nat) (k q : Nat) : Bool :=
  match sendingLanes s act with
  | [] => true
  | t :: r =>
    let c := creditOf s (s.cidOf t) (remoteCid s t k) q
    c.absent || decide (((r.length + 1 : Nat) : Int) ≤ c.credit)

/-- QPUT to a ring of another CU: held at issue until the credit covers its lanes (R181). -/
def remoteEff (data : Opnd) (m k q : Nat) (s : State) (w : Wx) : Eff :=
  let act := w.act s
  if act.any (acquirePending s) || kindFull s .ringPut act then .hold s
  else match poisonFails s act data with
    | [] => if creditCovers s act k q then .done ((sortLanes act).foldl (remoteLane s w data m k q) s) else .hold s
    | bad => .fail bad

/-- QPUT, remote (R181). -/
def execQputRemote (g : BitVec 4) (v : BitVec 7) (q : BitVec 4) (l : BitVec 2) (c : BitVec 3) (s : State) : Out :=
  runWord (.qputRemote g v q l c) s (remoteEff (payloadOpnd l v) (payloadWords l) c.toNat q.toNat)

/-- The predicate of a non-blocking form: written in every guard-true lane (R154, R179). -/
def nbPred (s0 : State) (w : Wx) (p : Nat) (ok : Nat → Bool) (lbl : Nat → Label) (s : State) : State :=
  writeOuts s w (.p p) ((w.act s0).map fun t => { tid := t, val := ofBool (ok (wgOf t)) }) fun g => w.label s0 g ||| lbl (g / 16)

/-- A non-blocking form decided false in a deterministic launch writes a cause entry (R349). -/
def nbCause (s0 : State) (w : Wx) (act : List Nat) (ok : Nat → Bool) (s : State) : State :=
  match act.filter fun t => !ok (wgOf t) with
  | [] => s
  | t :: _ => detCauseIf s (s0.wg (wgOf t)).launch 0x09 w.b.pc

/-- QPUT.nb, local: no queued put and E at least k (R179). -/
def putFits (s : State) (act : List Nat) (q g : Nat) : Bool :=
  let r := s.ring g q
  r.puts.isEmpty && decide ((act.filter fun t => wgOf t == g).length ≤ r.free)

/-- The resident workgroup of a CU with a generation (R305). -/
def wgOfGen (s : State) (cid : Nat) (gen : Word) : Option Nat :=
  (s.wgs.find? fun e => decide (e.2.cid = cid ∧ e.2.gen = gen) && !e.2.ended).map (·.1)

/-- The workgroup whose ring an arrival reaches: same launch, an inbound ring that is no copy ring (R181, R294, R305). -/
def arrivalWg (s : State) (dst q : Nat) (gen : Word) (launch : Nat) (absent : Bool) : Option Nat :=
  if absent then none
  else match wgOfGen s dst gen with
    | none => none
    | some w =>
      let r := tfind (s.wg w).mem.rings q
      if (s.wg w).launch = launch ∧ (r.map (·.desc.inbound)).getD false ∧ !(r.map (·.desc.copy)).getD true then some w else none

/-- The labels of the filled slots of the ring that a remote put of a workgroup targets (R154, R181). -/
def remoteFilled (s : State) (g k q : Nat) : Label :=
  let dst := (s.wg g).cid / 8 * 8 + k
  let c := creditOf s (s.wg g).cid dst q
  match arrivalWg s dst q c.gen (s.wg g).launch c.absent with
  | some x => filledLabel (s.ring x q)
  | none => 0

/-- QPUT.nb (R179). -/
def qputNbEff (data : Opnd) (p m q : Nat) (remote : Bool) (k : Nat) (s : State) (w : Wx) : Eff :=
  let act := w.act s
  if act.any (acquirePending s) || kindFull s .ringPut act then .hold s
  else match poisonFails s act data with
    | [] =>
      if remote then
        let ok := creditCovers s act k q
        let s1 := if ok then (sortLanes act).foldl (remoteLane s w data m k q) s else s
        .done (nbCause s w act (fun _ => ok) (nbPred s w p (fun _ => ok) (fun g => remoteFilled s g k q) s1))
      else
        let s1 := ((lanesByWg act).filter fun e => putFits s act q e.1).foldl (queuePuts s w data m q) s
        .done (nbCause s w act (putFits s act q) (nbPred s w p (putFits s act q) (fun g => filledLabel (s.ring g q)) s1))
    | bad => .fail bad

/-- QPUT.nb (R179). -/
def execQputNb (g : BitVec 4) (v : BitVec 7) (p : BitVec 3) (q : BitVec 4) (l : BitVec 2) (x : BitVec 1) (c : BitVec 3) (s : State) : Out :=
  runWord (.qputNb g v p q l x c) s (qputNbEff (payloadOpnd l v) p.toNat (payloadWords l) q.toNat (decide (x = 1)) c.toNat)

/-! Gets and peeks (R177 to R179). -/

/-- The access of a lane's get or peek: an acquire toward the slots, at scope core for an inbound ring (R180). -/
def getAcc (s : State) (q m : Nat) (ts : List Nat) (t : Nat) : Access :=
  { kind := .ringGet, tid := t, width := 4 * m, aux := [q, (ts.takeWhile (· ≠ t)).length]
    order := { kind := .acquire, scope := if (s.ring (wgOf t) q).desc.inbound then .core else .wg } }

/-- Post one claim per workgroup for the lanes of a list (R177, R178). -/
def postClaims (s : State) (w : Wx) (d : Opnd) (m q : Nat) (peek : Bool) (act : List Nat) : State :=
  let parts := lanesByWg act
  let s1 := raiseIdle s w act (some d) <| issueOn s w act (some d) fun t => getAcc s q m (((parts.find? fun p => p.1 == wgOf t).map (·.2)).getD []) t
  parts.foldl (fun s' p =>
    let ids := p.2.filterMap fun t => (s'.accs.find? fun e => e.2.inst == s.fresh && e.2.tid == t).map (·.1)
    s'.modRing p.1 q fun r =>
      { r with claims := insertClaim { peek := peek, accs := ids, words := m, total := ids.length, at_ := s.now.toNat, pipe := w.pipe } r.claims }) s1

/-- QGET and QPEEK. -/
def getEff (d : Opnd) (m q : Nat) (peek : Bool) (s : State) (w : Wx) : Eff :=
  let act := w.act s
  if act.any (acquirePending s) || kindFull s .ringGet act then .hold s
  else .done (postClaims s w d m q peek act)

/-- QGET (R177). -/
def execQget (g : BitVec 4) (d : BitVec 7) (q : BitVec 4) (l : BitVec 2) (s : State) : Out :=
  runWord (.qget g d q l) s (getEff (payloadOpnd l d) (payloadWords l) q.toNat false)
/-- QPEEK (R178). -/
def execQpeek (g : BitVec 4) (d : BitVec 7) (q : BitVec 4) (l : BitVec 2) (s : State) : Out :=
  runWord (.qpeek g d q l) s (getEff (payloadOpnd l d) (payloadWords l) q.toNat true)

/-- A non-blocking get succeeds: no pending claim and F at least k (R179). -/
def getFits (s : State) (act : List Nat) (q g : Nat) : Bool :=
  let r := s.ring g q
  r.claims.isEmpty && decide ((act.filter fun t => wgOf t == g).length ≤ r.filled)

/-- QGET.nb and QPEEK.nb (R179). -/
def getNbEff (d : Opnd) (p m q : Nat) (peek : Bool) (s : State) (w : Wx) : Eff :=
  let act := w.act s
  if act.any (acquirePending s) || kindFull s .ringGet act then .hold s
  else
    let s1 := postClaims s w d m q peek (act.filter fun t => getFits s act q (wgOf t))
    .done (nbCause s w act (getFits s act q) (nbPred s w p (getFits s act q) (fun g => filledLabel (s.ring g q)) s1))

/-- QGET.nb (R179). -/
def execQgetNb (g : BitVec 4) (d : BitVec 7) (p : BitVec 3) (q : BitVec 4) (l : BitVec 2) (s : State) : Out :=
  runWord (.qgetNb g d p q l) s (getNbEff (payloadOpnd l d) p.toNat (payloadWords l) q.toNat false)
/-- QPEEK.nb (R179). -/
def execQpeekNb (g : BitVec 4) (d : BitVec 7) (p : BitVec 3) (q : BitVec 4) (l : BitVec 2) (s : State) : Out :=
  runWord (.qpeekNb g d p q l) s (getNbEff (payloadOpnd l d) p.toNat (payloadWords l) q.toNat true)

/-! The steps of a ring. -/

/-- A report of the same ring to the same CU (R295). -/
def isReport (src q dst : Nat) : Msg → Bool
  | .report a b c _ _ _ _ => decide (a = src ∧ b = q ∧ c = dst)
  | .put _ _ _ _ _ _ _ => false

/-- Send a credit report: only the latest to a CU takes effect (R295). -/
def sendReport (s : State) (src q dst free served : Nat) (gen : Word) (absent : Bool) : State :=
  let ms := s.msgs.filter fun e => !isReport src q dst e.2
  { s with msgs := tput ms s.fresh (.report src q dst free served gen absent), fresh := s.fresh + 1 }

/-- After a change in E the ring's CU reports to every CU that has sent to it (R295). -/
def reportFree (s : State) (w q : Nat) : State :=
  let r := s.ring w q
  if r.desc.inbound then
    r.senders.foldl (fun s d => sendReport s (s.wg w).cid q d r.free (sget 0 r.served d) (s.wg w).gen false) s
  else s

/-- A put has been served or discarded: its lane's store completes, or its command's row is done; a discarded row sets
status bit 56 (R176, R196, R202). -/
def completePut (s : State) (e : PutEntry) (lost : Bool) : State :=
  let s1 := match e.acc with
    | none => s
    | some id => match tfind s.accs id with
      | some a => completeStore s id a
      | none => s
  match e.cmd with
  | none => s1
  | some c => { s1 with cmds := tmod s1.cmds c fun x =>
      { x with puts := x.puts.filter (· ≠ e.row), status := if lost then x.status ||| 1 else x.status } }

/-- The release of a put has been done: the thread's earlier stores and atomics have completed (R161, R180). -/
def putReady (s : State) (e : PutEntry) : Bool :=
  match e.acc with
  | none => true
  | some id => match tfind s.accs id with
    | some a => afterDone s a
    | none => true

/-- Take the pins narrower than the put's scope (R163, R180). -/
def putPins (s : State) (e : PutEntry) : State :=
  match e.acc with
  | none => s
  | some id => match tfind s.accs id with
    | some a => performPins s (wgOf a.tid) a.order.scope a.tid
    | none => s

/-- The older remote arrival: by cycle, then source CU (R180). -/
def olderArrival (a b : PutEntry) : Bool := decide (b.at_ < a.at_ ∨ (b.at_ = a.at_ ∧ b.src.getD 0 < a.src.getD 0))

/-- The oldest arrival of the inbound queue, and the others. -/
def takeArrival : List PutEntry → Option (PutEntry × List PutEntry)
  | [] => none
  | e :: r => match takeArrival r with
    | none => some (e, [])
    | some (x, rest) => if olderArrival e x then some (x, e :: rest) else some (e, r)

/-- The put served next, and the queues without it: the oldest; local puts first within one cycle (R176, R180). -/
def nextPut (r : Ring) : Option (PutEntry × List PutEntry × List PutEntry) :=
  match r.puts, takeArrival r.inbound with
  | [], none => none
  | e :: ps, none => some (e, ps, r.inbound)
  | [], some (x, rest) => some (x, [], rest)
  | e :: ps, some (x, rest) => if x.at_ < e.at_ then some (x, r.puts, rest) else some (e, ps, r.inbound)

/-- A slot takes a payload: T and E move, the phase toggles, the slot's label is set, F rises (R176). -/
def fillSlot (e : PutEntry) (ps ins : List PutEntry) (r : Ring) : Ring :=
  { r with
    tail := (r.tail + 1) % r.desc.n, free := r.free - 1, filled := r.filled + 1
    phase := sset false r.phase r.tail (!sget false r.phase r.tail)
    label := sset 0 r.label r.tail e.label, puts := ps, inbound := ins
    served := match e.src with | some c => sset 0 r.served c (sget 0 r.served c + 1) | none => r.served }

/-- A row longer than a slot is discarded (R200). -/
def tooLong (r : Ring) (e : PutEntry) : Bool := decide (2 ^ r.desc.log < e.data.length)

/-- Hand a free slot to the oldest queued put. -/
def handPut (s : State) (w q : Nat) : State :=
  let r := s.ring w q
  match nextPut r with
  | none => s
  | some (e, ps, ins) =>
    if !putReady s e then s
    else if tooLong r e then
      completePut (s.modRing w q fun r => { r with puts := ps, inbound := ins, served := match e.src with | some c => sset 0 r.served c (sget 0 r.served c + 1) | none => r.served }) e true
    else if r.free = 0 then s
    else
      let off := r.desc.base + r.tail * 2 ^ r.desc.log
      let s1 := (putPins s e).modMem w fun m => e.bad.foldl (fun m k => memSpadMark (off + 4 * k) 4 m) (memSpadWrite off e.data 0 m)
      completePut (reportFree (s1.modRing w q (fillSlot e ps ins)) w q) e false

/-- RING_PUT_SLOT_HANDOUT (R176). -/
def execRingPutSlotHandout (wg ring : Nat) (s : State) : Out := .next (handPut s wg ring)

/-- The words of slot i of a ring. -/
def slotCells (s : State) (w : Nat) (r : Ring) (i m : Nat) : List Cell :=
  let off := r.desc.base + i * 2 ^ r.desc.log
  cellsOfBytes (spadRead s w off (4 * m)) (fun k => spadBad s w (off + 4 * k) 4) m 0

/-- A lane's value has been read. -/
def giveLane (s : State) (id : Nat) (cs : List Cell) (l : Label) : State :=
  s.modAcc id fun a => { a with stage := .returned, result := cs, resLabel := l }

/-- Hand the slot at H to the lowest lane of the oldest claim (R177). -/
def handGet (s : State) (w q : Nat) : State :=
  let r := s.ring w q
  match r.claims with
  | [] => s
  | c :: rest =>
    match c.accs with
    | [] => s.modRing w q fun r => { r with claims := rest }
    | id :: more =>
      if c.peek ∨ r.filled = 0 then s
      else
        let s1 := giveLane s id (slotCells s w r r.head c.words) (sget 0 r.label r.head)
        reportFree (s1.modRing w q fun r =>
          { r with
            head := (r.head + 1) % r.desc.n, filled := r.filled - 1, free := r.free + 1
            claims := if more.isEmpty then rest else { c with accs := more } :: rest }) w q

/-- RING_CLAIM_SERVICE (R177). -/
def execRingClaimService (wg ring : Nat) (s : State) : Out := .next (handGet s wg ring)

/-- A lane of a satisfied peek reads slot H + j; beyond n slots it receives 0 (R178). -/
def peekLane (w : Nat) (r : Ring) (m : Nat) (s : State) (id : Nat) : State :=
  let j := (((tfind s.accs id).getD { kind := .ringGet, tid := 0 }).aux.drop 1).headD 0
  if j < r.desc.n then
    let i := (r.head + j) % r.desc.n
    giveLane s id (slotCells s w r i m) (sget 0 r.label i)
  else giveLane s id ((upto m).map fun _ => {}) 0

/-- QPEEK_CLAIM_SERVICE (R178). -/
def execQpeekClaimService (wg ring : Nat) (s : State) : Out :=
  let r := s.ring wg ring
  .next (match r.claims with
    | [] => s
    | c :: rest =>
      if c.peek ∧ min c.total r.desc.n ≤ r.filled then
        (c.accs.foldl (peekLane wg r c.words) s).modRing wg ring fun r => { r with claims := rest }
      else s)

/-- An earlier put of the sender to the ring is still on its way (R181, R296). -/
def putEarlier (s : State) (id src dst q : Nat) : Bool :=
  s.msgs.any fun e => decide (e.1 < id) && match e.2 with
    | .put a b c _ _ _ _ => decide (a = src ∧ b = dst ∧ c = q)
    | .report _ _ _ _ _ _ _ => false

/-- An arrival joins the inbound queue, of the live ring and of the shadow's (R181, R418). -/
def joinInbound (q src : Nat) (e : PutEntry) (m : WgMem) : WgMem :=
  { m with rings := tmod m.rings q fun r =>
      { r with inbound := r.inbound ++ [e], senders := if r.senders.contains src then r.senders else r.senders ++ [src] } }

/-- The PC of the word or command an entry comes from. -/
def putPc (s : State) (e : PutEntry) : DWord :=
  match e.acc.bind (tfind s.accs ·), e.cmd.bind (tfind s.cmds ·) with
  | some a, _ => a.pc
  | none, some c => c.pc
  | none, none => 0

/-- REMOTE_PUT_ARRIVAL: queued, discarded, or still refused by a full queue (R181, R296, R305). -/
def execRemotePutArrival (msg : Nat) (s : State) : Out :=
  .next (match tfind s.msgs msg with
    | some (.put src dst q gen launch e absent) =>
      if putEarlier s msg src dst q || !putReady s e then s
      else match arrivalWg s dst q gen launch absent with
        | none => completePut (detCauseIf { s with msgs := tdel s.msgs msg } launch 0x08 (putPc s e)) e true
        | some w =>
          if 64 ≤ (s.ring w q).inbound.length then s
          else ({ (putPins s e) with msgs := tdel s.msgs msg }).modBoth w (joinInbound q src { e with at_ := s.now.toNat })
    | _ => s)

/-- A report reaches a sender: the lanes sent to the generation it names count (R295). -/
def applyReport (s : State) (src q dst free served : Nat) (gen : Word) (absent : Bool) : State :=
  s.modCu dst fun u =>
    let c := (tfind u.credits (creditKey src q)).getD {}
    let c1 : Credit :=
      { c with credit := (free : Int) - (((sget 0 c.sent gen.toNat : Nat) : Int) - (served : Int)), gen := gen, absent := absent, reported := true }
    { u with credits := tput u.credits (creditKey src q) c1 }

/-- CREDIT_REPORT_ARRIVAL (R295). -/
def execCreditReportArrival (msg : Nat) (s : State) : Out :=
  .next (match tfind s.msgs msg with
    | some (.report src q dst free served gen absent) => applyReport { s with msgs := tdel s.msgs msg } src q dst free served gen absent
    | _ => s)

end Sys2Proof.Machine
end

