-- ==== Sys2Proof/Machine/Sync.lean ====
section
/-! DEFINITION. Fences and the waits at the sentence boundary (R157, R183 to R192, R282, R345). -/

namespace Sys2Proof.Machine

/-! What a fence waits for (R184). -/

/-- No access of the thread of the kinds named is in flight. -/
def noneOf (s : State) (t : Nat) (f : AccKind → Bool) : Bool :=
  !(accsOf s t).any fun e => f e.2.kind && decide (e.2.stage ≠ .retained)

/-- The acquire part: loads, scratchpad loads, returning atomics and ring claims have their values. -/
def acqDone (s : State) (t : Nat) : Bool :=
  noneOf s t fun k => decide (k = .load ∨ k = .spLoad ∨ k = .atomr ∨ k = .ringGet)

/-- The release part but for pins and time: stores, atomics and puts have completed. -/
def storesDone (s : State) (t : Nat) : Bool :=
  noneOf s t fun k => decide (k = .store ∨ k = .atom ∨ k = .atomr ∨ k = .ringPut ∨ k = .insert)

/-- A scope whose release waits on device time (R184). -/
def wideScope (sc : Scope) : Bool := decide (sc = .dev ∨ sc = .part ∨ sc = .sys)

/-- The accesses a fence of an order waits for are done. -/
def fenceDone (s : State) (o : Order) (t : Nat) : Bool :=
  (!isAcq o || acqDone s t) && (!isRel o || storesDone s t)

/-- Device time exceeds the thread's largest write-completion time, where the release waits on it. -/
def timeDone (s : State) (o : Order) (t : Nat) : Bool :=
  !(isRel o && wideScope o.scope) || decide ((s.thr t).wct < s.now)

/-- Pins narrower than a release's scope are held by the thread's workgroup (R163). -/
def pinsLeft (s : State) (o : Order) (t : Nat) : Bool := isRel o && !(narrowPins s (wgOf t) o.scope).isEmpty

/-- An acquire of scope core expires leased copies (R282). -/
def acqExpire (s : State) (o : Order) (t : Nat) : State :=
  if isAcq o && decide (o.scope = .core) then expireCopies s (s.cidOf t) true else s

/-! The deferred traps of WAIT and FENCE (R157, R213). -/

/-- The record a WAIT or FENCE reports in a thread: the deferred fault, else a stopped matrix operation that the WAIT
admits. -/
def faultRec (tiles : Bool) (x : Thread) : Option (Nat × DWord × DWord) :=
  match x.deferred with
  | some d => some (d.cause, d.pc, d.ea)
  | none => if tiles then x.tiles.findSome? fun d => d.cause.map fun c => (c, d.pc, d.addr) else none

/-- Remove the first stopped operation of a list. -/
def dropStopped : List TileDone → List TileDone
  | [] => []
  | d :: r => if d.cause.isSome then r else d :: dropStopped r

/-- Trap entry clears the record reported. -/
def clearRec (x : Thread) : Thread :=
  match x.deferred with
  | some _ => { x with deferred := none }
  | none => { x with tiles := dropStopped x.tiles }

/-- The trap of R157: each thread from its own record; the others with the smallest cause and the word's own address. -/
def deferTrap (s : State) (tids : List Nat) (tiles : Bool) (pc rpc : DWord) (pos : Nat) : State :=
  let least := (minOf (tids.filterMap fun t => (faultRec tiles (s.thr t)).map (·.1))).getD 0
  (yieldedLast s tids).foldl (fun s' t =>
    match faultRec tiles (s.thr t) with
    | some (c, p, a) => trapThread (s'.modThr t clearRec) t { cause := c, pc := p, rpc := rpc, pos := pos, own := [t], addr := a }
    | none => trapThread s' t { cause := least, pc := pc, rpc := rpc, pos := pos }) (dropFromPipes s tids)

/-! FENCE (R183 to R185). -/

/-- FENCE: held at issue behind an acquire of its threads (R162), then the bundle is held at the word until its effect is complete. -/
def fenceEff (o : BitVec 4) (sc : Bool) (s : State) (w : Wx) : Eff :=
  match w.act s with
  | [] => .done s
  | act => if act.any (acquirePending s) then .hold s else .gone (s.modBundle w.pipe fun b => { b with fence := some { order := orderOf o, sc := sc, tids := act } })

/-- FENCE (R184). -/
def execFence (g : BitVec 4) (o : BitVec 4) (s : State) : Out := runWord (.fence g o) s (fenceEff o false)
/-- FENCE.sc (R185). -/
def execFenceSc (g : BitVec 4) (o : BitVec 4) (s : State) : Out := runWord (.fenceSc g o) s (fenceEff o true)

/-- The bundle goes on past the word at which it was held. -/
def passFence (s : State) (p : Nat) (b : Bundle) : State :=
  let b1 := { b with fence := none }
  let s1 := s.modBundle p fun _ => b1
  advance s1 (mkWx s1 ((instrAt s (s.vfOf (wgOf (b.tids.headD 0))) (p / 4) b.pc).getD (.nop 0#4)) p b1) ((b.fence.map (·.tids)).getD [])

/-- What a fence does when its waits are over: copies expire (R185, R282), MXFENCE sets the operand-ready bit (R208). -/
def fenceActs (s : State) (f : FenceHold) : State :=
  let t := f.tids.headD 0
  let s1 := if f.sc then expireCopies s (s.cidOf t) (wideScope f.order.scope) else s
  let s2 := acqExpire s1 f.order t
  if f.mx then (groupsOf f.tids).foldl (fun s g => s.modGrp g fun x => { x with mxReady := true }) s2 else s2

/-- A FENCE.sc that takes effect now keeps the total order: of those of one device time, ascending by pipe, which numbers core, CU and
pipe (R287). -/
def scInOrder (s : State) (pipe : Nat) : Bool :=
  match s.lastSc with
  | some (t, p) => decide (t ≠ s.now) || decide (p ≤ pipe)
  | none => true

/-- A FENCE.sc is noted as the last (R287). -/
def noteSc (s : State) (f : FenceHold) (pipe : Nat) : State := if f.sc then { s with lastSc := some (s.now, pipe) } else s

/-- FENCE_COMPLETION: its accesses done, the narrower pins performed, device time past sr.wct; a full deferred record traps
instead (R157, R183 to R185, R287). -/
def execFenceCompletion (pipe : Nat) (s : State) : Out :=
  .next (match tfind s.pipes pipe with
    | none => s
    | some b => match b.fence with
      | none => s
      | some f =>
        if !f.tids.all (fenceDone s f.order) then s
        else match f.tids.find? (pinsLeft s f.order) with
          | some t => performPins s (wgOf t) f.order.scope t
          | none =>
            if !f.tids.all (timeDone s f.order) then s
            else if !f.mx && f.tids.any (fun t => (s.thr t).deferred.isSome) then
              deferTrap s b.tids false b.pc b.faultPc (b.pos - b.advs.count)
            else if f.sc && !scInOrder s pipe then s
            else passFence (noteSc (fenceActs s f) f pipe) pipe b)

/-! WAIT (R187). -/

/-- At most c operations of a class remain; 31 does not wait. -/
def under (n c : Nat) : Bool := decide (c = 31 ∨ n ≤ c)

/-- The counts of a WAIT are met. -/
def waitMet (x : Thread) (ld st cp tl : Nat) : Bool :=
  under x.octLoad ld && under x.octStore st && under x.octCopy cp && under x.octTile tl

/-- The flags of completed tile operations merge at the WAIT that admits them (R70). A WAIT whose tl count is 31 does not wait on the
class, and admits none: it merges no flags and reports no stopped operation (R187 does not say; DEDUCED, log entry 74). -/
def mergeTiles (tl : Nat) (s : State) (t : Nat) : State :=
  if tl = 31 then s
  else
    let ds := (s.thr t).tiles
    let s1 := s.modThr t fun x =>
      { x with
        fpflags := ds.foldl (fun f d => f ||| d.flags) x.fpflags
        tiles := (x.tiles.filter fun d => d.cause.isSome).map fun d => { d with flags := 0 } }
    s1.modGrp (gidOf t) fun g => { g with lflags := g.lflags ||| orAll (ds.map (·.label)) }

/-- WAIT: done at once where every count is met, else the threads are held at the sentence boundary (R157, R187). -/
def waitEff (ld st cp tl : Nat) (s : State) (w : Wx) : Eff :=
  let act := w.act s
  if act.all fun t => waitMet (s.thr t) ld st cp tl then
    let s1 := act.foldl (mergeTiles tl) s
    if act.any fun t => (faultRec (decide (tl ≠ 31)) (s1.thr t)).isSome then
      .gone (deferTrap s1 w.b.tids (decide (tl ≠ 31)) w.b.pc w.b.faultPc (w.b.pos - w.b.advs.count))
    else .done s1
  else
    let h : Hold := .wait ld st cp tl w.b.pc w.b.faultPc (w.b.pos - w.b.advs.count) w.b.tids (s.thr (w.b.tids.headD 0)).ride
    .done (act.foldl (fun s t => s.modThr t fun x => { x with holds := x.holds ++ [h] }) s)

/-- WAIT (R187). -/
def execWait (g : BitVec 4) (l st c t : BitVec 5) (s : State) : Out :=
  runWord (.wait g l st c t) s (waitEff l.toNat st.toNat c.toNat t.toNat)

/-- A WAIT that threads are held at. -/
structure WaitHold where
  hold : Hold
  ld : Nat
  st : Nat
  cp : Nat
  tl : Nat
  pc : DWord
  rpc : DWord
  pos : Nat
  bundle : List Nat
  ride : Nat

/-- The WAIT a thread is held at. -/
def waitOf (x : Thread) : Option WaitHold :=
  if x.picker ≠ .held then none
  else x.holds.findSome? fun h => match h with
    | .wait a b c d pc rpc pos l r => some { hold := h, ld := a, st := b, cp := c, tl := d, pc := pc, rpc := rpc, pos := pos, bundle := l, ride := r }
    | _ => none

/-- The threads of a WAIT's bundle that are held at it. -/
def waitersOf (s : State) (q : WaitHold) : List Nat :=
  q.bundle.filter fun t => decide ((s.thr t).picker = .held) && (s.thr t).holds.contains q.hold

/-- The threads of a WAIT's bundle that have not left its sentence boundary: those held, and those whose guard was false and that
have not been picked since (R15, R157, R186; log entry 24). -/
def atWait (s : State) (q : WaitHold) (held : List Nat) : List Nat :=
  let next := (s.thr (held.headD 0)).pc
  q.bundle.filter fun t =>
    let x := s.thr t
    held.contains t || (decide (x.ride = q.ride ∧ x.pc = next ∧ x.pos = 0) && decide (x.picker = .held ∨ x.picker = .ready))

/-- WAIT_SATISFIED: once the counts are met in every thread of the bundle held at the word, their flags merge and they go on together,
or the bundle takes the deferred trap (R157, R187; log entry 24). -/
def execWaitSatisfied (tid : Nat) (s : State) : Out :=
  .next (match waitOf (s.thr tid) with
    | none => s
    | some q =>
      let held := waitersOf s q
      if !held.all fun t => waitMet (s.thr t) q.ld q.st q.cp q.tl then s
      else
        let s1 := held.foldl (mergeTiles q.tl) s
        let tiles := decide (q.tl ≠ 31)
        if held.any fun t => (faultRec tiles (s1.thr t)).isSome then
          deferTrap (held.foldl (fun s t => s.modThr t fun x => { x with holds := x.holds.filter (· ≠ q.hold) }) s1) (atWait s q held) tiles q.pc q.rpc q.pos
        else (yieldedLast s held).foldl (fun s t => releaseHolds s t fun x => x ≠ q.hold && awaitUnmet (s.thr t) x) s1)

/-! CWAIT (R188, R189). -/

/-- CWAIT: held at the sentence boundary until the counter reaches the target. -/
def cwaitEff (tg b : BitVec 7) (o : BitVec 4) (s : State) (w : Wx) : Eff :=
  let act := w.act s
  if act.any (acquirePending s) then .hold s
  else match (act.map (globalFails s w b 8 { rd := true } [.pair tg])).flatten with
    | [] =>
      .done (bumpFwd (act.foldl (fun s' t =>
        let h : Hold := .cwait (eaOf s w t b) (d64 (wordsVal (readOpnd s t (.pair tg)))) (orderOf o) (w.label s (gidOf t))
          (if forwards s t then some (fwdKey s t) else none) w.b.pc
        s'.modThr t fun x => { x with holds := x.holds ++ [h] }) s) act)
    | bad => .fail bad

/-- CWAIT (R188). -/
def execCwait (g : BitVec 4) (t b : BitVec 7) (o : BitVec 4) (s : State) : Out := runWord (.cwait g t b o) s (cwaitEff t b o)

/-- The CWAIT a thread is held at. -/
def cwaitOf (x : Thread) : Option (Hold × DWord × DWord × Order × Label × Option Nat × DWord) :=
  if x.picker ≠ .held then none
  else x.holds.findSome? fun h => match h with
    | .cwait ea tg o l f pc => some (h, ea, tg, o, l, f, pc)
    | _ => none

/-- An acquire read of a counter at the point its scope names: the value and its label, where it can be made; a poisoned word's value
is taken as it stands (R188; log entry 75). A refused read leaves the record of the CWAIT (R156). -/
def cwaitRead (s : State) (t : Nat) (ea : DWord) (o : Order) (pc : DWord) : State × Option (Nat × Label) :=
  let vf := s.vfOf (wgOf t)
  let cid := s.cidOf t
  let dom := (s.grp (gidOf t)).dom
  let lch := (s.wg (wgOf t)).launch
  match rangeOf s vf ea with
  | none => (s, none)
  | some (_, r) =>
    let ia := iaOf r ea
    let sp := spaceOf r
    let line := lineOf sp ia
    let val := fun (v : LineView) =>
      let x := forward s t s.fresh sp ia (v.part (ia % 64) 8)
      some (leNat (x.1.map (·.1)), v.label ||| x.2)
    match if o.scope = .wg then cachedLine s cid lch dom sp r ia else
        (ownPin s cid line).map fun p => ({ bytes := p.2.bytes, bad := p.2.bad, label := p.2.label ||| storedLabel s sp r ia } : LineView) with
    | some v => (s, val v)
    | none =>
      if pinnedElsewhere s (ownHolders cid) line then (noteWait s (ownHolders cid) line (.cwait t), none)
      else match memSide s vf dom sp r ia false 0 with
        | .refused c => (fillDeferred s t { cause := c, pc := pc, ea := ea }, none)
        | .retry s' => (s', none)
        | .ok s' =>
          let base := ia / 64 * 64
          let v : LineView := { bytes := memRead s' lch sp base 64, bad := failedGrains s' sp base, label := storedLabel s' sp r ia }
          (detectMem (dropCopies (countAccess s' sp ia) (32 + cid) line) vf sp ia 8, val v)

/-- The read of a CWAIT in a checkpointed or paired workgroup: the result kept with the commit, or the antecedent's (R422). -/
def cwaitValue (s : State) (t : Nat) (ea : DWord) (o : Order) (f : Option Nat) (pc : DWord) : State × Option (Nat × Label) :=
  match f.bind (tfind (s.wg (wgOf t)).record ·) with
  | some (cs, l) => (s, some (wordsVal cs, l))
  | none => if f.isSome && decide ((s.wg (wgOf t)).mode = .ana) then (s, none) else cwaitRead s t ea o pc

/-- Keep a satisfying read with the commit, in both members of a pair (R422). -/
def keepRead (s : State) (t v : Nat) (l : Label) (f : Option Nat) : State :=
  match f with
  | none => s
  | some k =>
    let put := fun (x : Workgroup) => { x with record := tput x.record k (cellsOf v false 2, l) }
    match (s.wg (wgOf t)).twin with
    | none => s.modWg (wgOf t) put
    | some h => (s.modWg (wgOf t) put).modWg h put

/-- CWAIT_SATISFIED: the context label is raised and the hold ends (R188, R189). -/
def execCwaitSatisfied (tid : Nat) (s : State) : Out :=
  .next (match cwaitOf (s.thr tid) with
    | none => s
    | some (h, ea, tg, o, l, f, pc) =>
      match cwaitValue s tid ea o f pc with
      | (s1, none) => s1
      | (s1, some (v, pl)) =>
        if tg.toNat ≤ v then
          let s2 := acqExpire (raiseCtx (keepRead s1 tid v pl f) (gidOf tid) (l ||| pl)) o tid
          releaseHolds s2 tid fun x => x ≠ h && awaitUnmet (s2.thr tid) x
        else s1)

/-! BAR (R190). -/

/-- BAR and LBAR hold their threads at the sentence boundary; a thread that holds a clause traps (R113, R190, R191). -/
def barEff (h : Hold) (s : State) (w : Wx) : Eff :=
  match (w.b.tids.filter (holdsClause s)).map fun t => ({ tid := t, cause := 0x11 } : Fail) with
  | [] => .done (w.b.tids.foldl (fun s t => s.modThr t fun x => { x with holds := x.holds ++ [h] }) s)
  | bad => .fail bad

/-- BAR (R190). -/
def execBar (b : BitVec 4) (s : State) : Out := runWord (.bar b) s (barEff (.bar b.toNat))
/-- LBAR (R191). -/
def execLbar (k : BitVec 3) (s : State) : Out := runWord (.lbar k) s (barEff (.lbar k.toNat))

/-- The thread has arrived at a barrier, also while it is in a trap handler (R186). -/
def arrivedAt (h : Hold) (x : Thread) : Bool := x.holds.contains h && decide (x.picker = .held) || x.frame.holds.contains h

/-- A barrier's hold ends in a thread. -/
def endHold (h : Hold) (s : State) (t : Nat) : State :=
  let s1 := s.modThr t fun x => { x with frame := { x.frame with holds := x.frame.holds.filter (· ≠ h) } }
  if (s1.thr t).picker = .held then releaseHolds s1 t fun x => x ≠ h && awaitUnmet (s1.thr t) x else s1

/-- BARRIER_COMPLETION: every live thread of the workgroup has arrived and done its fence at scope wg (R190). -/
def execBarrierCompletion (wg bar : Nat) (s : State) : Out :=
  let ts := liveWg s wg
  let h : Hold := .bar bar
  .next (if !ts.isEmpty && ts.all (fun t => arrivedAt h (s.thr t) && fenceDone s { kind := .acqRel, scope := .wg } t) then
    ts.foldl (endHold h) (s.modMem wg fun m => { m with bars := tput m.bars bar { gen := ((tfind m.bars bar).getD {}).gen + 1 } })
  else s)

/-! LBAR (R191) and the float-atomic logs (R345). -/

/-- The scope codes of a level (R260). -/
def scopeOf (n : Nat) : Scope := match n with | 0 => .wg | 1 => .core | 2 => .dev | 3 => .part | _ => .sys

/-- The workgroups one instance of level k holds (R260). -/
def unitsOf (l : Launch) (k : Nat) : Nat := (l.levels.take (k + 1)).foldl (fun p e => p * e.count) 1

/-- The number of the level instance a workgroup lies in (R260). A fragment or resolve workgroup has no index of the launch record's
levels: it is an instance of its own, numbered apart (DESIGN CHOICE, log entry 31). -/
def instanceOf (s : State) (level : Nat) (w : Nat) (g : Workgroup) : Nat :=
  if g.tile.isSome then 2 ^ 40 + w else g.index / unitsOf (s.launch g.launch) level

/-- The placed workgroups of a level instance, those that have ended with them: their logs are applied at its barriers (R260, R345). -/
def instanceWgs (s : State) (launch level inst : Nat) : List Nat :=
  (s.wgs.filter fun e => decide (e.2.launch = launch) && decide (instanceOf s level e.1 e.2 = inst)).map (·.1)

/-- The order in which log entries are applied (R345). -/
def logKey (s : State) (w : Nat) (e : LogEntry) : List Nat := [(s.wg w).index, e.tix, e.seq]

/-- The log entry of a list of workgroups that is applied next. -/
def nextLog (s : State) (ws : List Nat) : Option (Nat × LogEntry) :=
  ((ws.map fun w => (s.wg w).log.map fun e => (w, e)).flatten).foldl (fun best e =>
    match best with
    | none => some e
    | some b => if keyBefore (logKey s e.1 e.2) (logKey s b.1 b.2) then some e else some b) none

/-- A log entry leaves its log; with the last the sequence numbers start again (R345). -/
def popLog (s : State) (w : Nat) (e : LogEntry) : State :=
  let s1 := s.modWg w fun g => { g with log := g.log.erase e, shadow := g.shadow.map fun h => { h with log := h.log.erase e } }
  if (s1.wg w).log.isEmpty then { s1 with threads := tmap s1.threads fun t x => if wgOf t = w then { x with logSeq := 0 } else x } else s1

/-- Apply a log entry at its home; it waits for a pin on its line (R288, R345). -/
def applyLog (s : State) (w : Nat) (e : LogEntry) : State :=
  let t := w * 1024 + e.tix
  let vf := s.vfOf w
  let dom := (s.grp (gidOf t)).dom
  match rangeOf s vf e.ea with
  | none => popLog s w e
  | some (_, r) =>
    let sp := spaceOf r
    let line := lineOf sp e.ia
    if !(pinHolders s line).isEmpty then noteWait s [] line .engine
    else match memSide s vf dom sp r e.ia true e.label with
      | .refused c => popLog (fillDeferred s t { cause := c, pc := e.pc, ea := e.ea }) w e
      | .retry s' => s'
      | .ok s' =>
        let lch := (s.wg w).launch
        let s0 := detectMem s' vf sp e.ia 4
        let old := leNat (memRead s0 lch sp e.ia 4)
        let keep := spanBad s0 sp e.ia 4
        let (s1, wct) := performWrite s0 lch dom sp e.ia (leBytes (if keep then old else (f32.add {} old e.operand.toNat).1) 4) e.label
        let s2 := if keep then { s1 with grains := s0.grains, sectors := s0.sectors } else s1
        popLog (s2.modThr t (raiseWct wct)) w e

/-- LEVEL_BARRIER_COMPLETION: each arrival's fence, with the pins it ends; once every participant has arrived, time, the logs one
entry at a time, then the release (R163, R191, R345). -/
def execLevelBarrierCompletion (launch level inst : Nat) (s : State) : Out :=
  let l := s.launch launch
  let o : Order := { kind := .acqRel, scope := scopeOf (((l.levels[level]?).map (·.scope)).getD 0) }
  let ws := instanceWgs s launch level inst
  let ts := (ws.map (liveWg s)).flatten
  let h : Hold := .lbar level
  let here := fun t => arrivedAt h (s.thr t) && fenceDone s o t
  .next (match ts.find? fun t => here t && pinsLeft s o t with
    | some t => performPins s (wgOf t) o.scope t
    | none =>
      if ts.isEmpty || !ts.all here then s
      else match nextLog s ws with
        | some (w, e) => applyLog s w e
        | none =>
          if !ts.all (timeDone s o) then s
          else ts.foldl (fun s t => acqExpire (endHold h s t) o t) s)

end Sys2Proof.Machine
end

