-- ==== Sys2Proof/Machine/Copy.lean ====
section
/-! DEFINITION. XCPY, GATE, the copy ring, the copy engine and the release gate (R194 to R205, R297 to R305). -/

namespace Sys2Proof.Machine

/-! The fields of a command (R197). -/

/-- Word i of a command. -/
def cmdWord (q : List DWord) (i : Nat) : Nat := ((q[i]?).getD 0).toNat
/-- Completion scope. -/
def cScope (q : List DWord) : Nat := bits (cmdWord q 0) 57 3
/-- Copy zeros. -/
def cZero (q : List DWord) : Bool := bit (cmdWord q 0) 56
/-- Counter slot. -/
def cSlot (q : List DWord) : Nat := bits (cmdWord q 0) 51 5
/-- Destination kind. -/
def cKind (q : List DWord) : Nat := bits (cmdWord q 0) 48 3
/-- Source VA. -/
def cSource (q : List DWord) : Nat := bits (cmdWord q 0) 0 48
/-- Destination field. -/
def cDest (q : List DWord) : Nat := cmdWord q 1
/-- Increment. -/
def cInc (q : List DWord) : Nat := bits (cmdWord q 2) 48 16
/-- Rows. -/
def cRows (q : List DWord) : Nat := bits (cmdWord q 2) 32 16
/-- Bytes of a row. -/
def cRowBytes (q : List DWord) : Nat := bits (cmdWord q 2) 0 32
/-- Destination row stride. -/
def cDStride (q : List DWord) : Nat := bits (cmdWord q 3) 32 32
/-- Source row stride. -/
def cSStride (q : List DWord) : Nat := bits (cmdWord q 3) 0 32

/-- A command that writes nothing (R198). -/
def cEmpty (q : List DWord) : Bool := decide (cRows q = 0 ∨ cRowBytes q = 0)

/-- The bits of the destination field that must be 0 (R197). -/
def destBad (q : List DWord) : Bool :=
  let d := cDest q
  match cKind q with
  | 0 => decide (2 ^ 48 ≤ d)
  | 1 => decide (2 ^ 18 ≤ d)
  | 2 => decide (2 ^ 40 ≤ d) || decide (bits d 18 14 ≠ 0)
  | 3 => decide (2 ^ 13 ≤ d) || decide (bits d 11 1 ≠ 0) || decide (bits d 4 4 ≠ 0)
  | 4 => decide (2 ^ 12 ≤ d) || decide (bits d 7 1 ≠ 0)
  | _ => true

/-! The checks at issue and at the engine (R198). -/

/-- The first byte of an extent that no single range with the first one holds, or a missing permission. -/
def extentFail (s : State) (vf start len : Nat) (need : Need) : List (Nat × DWord) :=
  match rangeOf s vf (d64 start) with
  | none => [(3, d64 start)]
  | some (_, r) =>
    let lim := bits (rangeWord r 1) 16 32 * 65536 + 65535
    if lim < start + len - 1 then [(3, d64 (lim + 1))] else if permits need r then [] else [(4, d64 start)]

/-- The bytes from the first to the last of strided rows. -/
def extentLen (q : List DWord) (stride : Nat) : Nat := (cRows q - 1) * stride + cRowBytes q

/-- Illegal words (cause 0x01). -/
def cmdIllegal (s : State) (w : Nat) (q : List DWord) (gate : Bool) : Bool :=
  let d := cDest q
  let rb := cRowBytes q
  decide (bits (cmdWord q 0) 60 4 ≠ 0) || decide (4 < cKind q) || decide (4 < cScope q) || destBad q ||
  (gate && (decide (cKind q ≠ 0) || cZero q)) ||
  match cKind q with
  | 3 => decide (rb % 4 ≠ 0) || decide (65536 < rb) ||
      (!bit d 12 && match tfind (s.wg w).mem.rings (bits d 0 4) with
        | some r => decide (2 ^ r.desc.log < rb)
        | none => false)
  | 4 => decide (rb % 4 ≠ 0) || decide (64 < rb) || decide (64 < cRows q) || decide (111 < bits d 0 7 + rb / 4 - 1)
  | _ => false

/-- Beyond an allotment (cause 0x02). -/
def cmdBeyond (s : State) (w : Nat) (q : List DWord) : Bool :=
  let d := cDest q
  match cKind q with
  | 1 | 2 => decide (spadSize s w < bits d 0 18 + extentLen q (cDStride q))
  | 3 => !bit d 12 && decide ((s.wg w).hdr.rings ≤ bits d 0 4)
  | 4 =>
    let g := w * 16 + bits d 8 4
    !(liveOf s g).isEmpty &&
      !((upto (cRowBytes q / 4)).all fun i => allotOk (s.grp g).vregs (s.grp g).oregs (bits d 0 7 + i))
  | _ => false

/-- The cause the counter word's place fails with (R198). -/
def counterFails (s : State) (vf : Nat) (counter : DWord) : List (Nat × DWord) :=
  (match rangeOf s vf counter with
    | none => [(3, counter)]
    | some (_, r) => if permits { wr := true } r then [] else [(4, counter)]) ++
  (if counter.toNat % 8 = 0 then [] else [(6, counter)])

/-- Every check of a command but poison: causes with failing addresses; a command without rows or bytes passes (R198). -/
def cmdFails (s : State) (w : Nat) (q : List DWord) (counter : DWord) (gate : Bool) : List (Nat × DWord) :=
  let vf := s.vfOf w
  if cEmpty q then []
  else
  (if cmdIllegal s w q gate then [(1, (0 : DWord))] else []) ++
  (if cmdBeyond s w q then [(2, 0)] else []) ++
  (if cZero q then [] else extentFail s vf (cSource q) (extentLen q (cSStride q)) { rd := true }) ++
  (if cKind q ≠ 0 then [] else extentFail s vf (bits (cDest q) 0 48) (extentLen q (cDStride q)) { wr := true }) ++
  counterFails s vf counter

/-! Issue (R199). -/

/-- The command words of a group. -/
def cmdOf (s : State) (gid k : Nat) : List DWord := (upto 4).map fun i => (readG s gid (k + i)).val

/-- The counter address: the base plus 8 times the slot (R195). -/
def counterOf (s : State) (gid k c : Nat) : DWord := (readG s gid c).val + d64 (8 * cSlot (cmdOf s gid k))

/-- A register of the command is poisoned. -/
def cmdPoison (s : State) (gid k c : Nat) : Bool :=
  ((upto 4).map fun i => readG s gid (k + i)).any (fun g => g.plo || g.phi) || (readG s gid c).plo || (readG s gid c).phi

/-- The failures of a group's command, in each of its guard-true lanes. -/
def groupFails (s : State) (act : List Nat) (k c : Nat) (gate : Bool) (gid : Nat) : List Fail :=
  let l := cmdFails s (gid / 16) (cmdOf s gid k) (counterOf s gid k c) gate ++ if cmdPoison s gid k c then [(0x12, 0)] else []
  ((act.filter fun t => gidOf t == gid).map fun t => l.map fun e => ({ tid := t, cause := e.1, addr := e.2 } : Fail)).flatten

/-- Free slots of a copy ring (R299, R300). -/
def copyRoom (s : State) (w : Nat) : Nat :=
  match copyWords s w with
  | none => 0
  | some (_, n, _) => n - ((s.wg w).mem.copy.pub - (s.wg w).mem.copy.con).toNat

/-- The earlier stores, atomics and puts of threads (R199). -/
def earlierOut (s : State) (ts : List Nat) : List Nat :=
  (s.accs.filter fun e => ts.contains e.2.tid && decide (e.2.kind = .store ∨ e.2.kind = .atom ∨ e.2.kind = .atomr ∨ e.2.kind = .ringPut) &&
    decide (e.2.stage ≠ .retained)).map (·.1)

/-- Publish a command in one step: the slot, its kind bit, what its hand-over waits for, the notify word (R199, R297, R300). -/
def publish (s : State) (w : Nat) (q : List DWord) (counter : DWord) (gate : Bool) (l : Label) (h : SlotHold) : State :=
  match copyWords s w with
  | none => s
  | some (base, n, _) =>
    let i := (s.wg w).mem.copy.pub.toNat % n
    let bs := (q.map fun x => leBytes x.toNat 8).flatten ++ leBytes counter.toNat 8 ++ leBytes 0 24
    notifyEngine ((spadWrite s w (base + 64 * i) bs l).modMem w fun m =>
      let c := m.copy
      { m with copy := { c with pub := c.pub + 1, kind := sset false c.kind i gate, holds := tput c.holds i h } }) w

/-- The registers a command writes in each lane. -/
def destFields (q : List DWord) : List Nat := (upto (cRowBytes q / 4)).map (bits (cDest q) 0 7 + ·)

/-- The live lanes whose registers a command writes. -/
def destLanes (s : State) (w : Nat) (q : List DWord) : List Nat :=
  if cKind q = 4 ∧ !cEmpty q then (liveOf s (w * 16 + bits (cDest q) 8 4)).filter fun t => decide (laneOf t < cRows q) else []

/-- The registers a command writes are pending in the lanes of its target group (R199). -/
def pendRegs (s : State) (w : Nat) (q : List DWord) : State :=
  (destLanes s w q).foldl (fun s t => s.modThr t (sbSet (destFields q))) s

/-- A register that a command writes is pending still in a lane: XCPY waits for it (R47). -/
def regsBusy (s : State) (w : Nat) (q : List DWord) : Bool := (destLanes s w q).any fun t => (destFields q).any (sbBit (s.thr t))

/-- The label of a command: its registers and the context (R199). -/
def cmdLabelOf (s : State) (gid k c : Nat) : Label :=
  (s.grp gid).ctx ||| orAll ((upto 4).map fun i => sget 0 (s.grp gid).lg (k + i)) ||| sget 0 (s.grp gid).lg c

/-- Issue one group's command: published, or into the compare buffer of a pair (R199, R421). -/
def issueCmd (s0 : State) (w : Wx) (k c : Nat) (gate : Bool) (s : State) (gid : Nat) : State :=
  let ts := sortNat ((w.act s0).filter fun t => gidOf t == gid)
  let lead := ts.headD 0
  let g := gid / 16
  let q := cmdOf s0 gid k
  let counter := counterOf s0 gid k c
  let lbl := cmdLabelOf s0 gid k c
  let s1 := ts.foldl (fun s t => s.modThr t (octUp .copy)) s
  if isPaired (s.wg g).mode then
    let a : Access :=
      { kind := .special, tid := lead, pc := w.b.pc, ea := counter, width := 32
        data := q.foldr (fun x n => x.toNat + 2 ^ 64 * n) 0, label := lbl, aux := ofBool gate :: ts, inst := s0.fresh }
    let id := s1.fresh
    let s2 := if (s.wg g).mode = .ante then pendRegs s1 g q else s1
    retainLane (s2.addAcc a) lead id
  else
    publish (pendRegs s1 g q) g q counter gate lbl
      { accs := earlierOut s0 ts, tids := ts, reporter := some lead, pc := w.b.pc, gid := gid }

/-- A group's command can leave: the ring has a slot, a pair's buffer takes it, and no register it writes is pending (R47, R199,
R300). -/
def canSend (s0 s : State) (k gid : Nat) : Bool :=
  (isPaired (s.wg (gid / 16)).mode || decide (0 < copyRoom s (gid / 16))) &&
    (decide ((s.wg (gid / 16)).mode = .ana) || !regsBusy s (gid / 16) (cmdOf s0 gid k))

/-- The group's command has left: its threads remember it while the word is held for another group's. -/
def noteSent (act : List Nat) (gid : Nat) (v : Bool) (s : State) : State :=
  (act.filter fun t => gidOf t == gid).foldl (fun s t => s.modThr t fun x => { x with sent := v }) s

/-- The groups' commands leave in ascending gi; the first that cannot holds the word and those after it (R194, R300). -/
def sendCmds (s0 : State) (w : Wx) (k c : Nat) (gate : Bool) : List Nat → State → State × Bool
  | [], s => (s, true)
  | g :: r, s => if canSend s0 s k g then sendCmds s0 w k c gate r (noteSent (w.act s0) g true (issueCmd s0 w k c gate s g)) else (s, false)

/-- XCPY and GATE (R194, R198, R199). -/
def copyEff (k c : Nat) (gate : Bool) (s : State) (w : Wx) : Eff :=
  let act := w.act s
  let gs := groupsOf act
  match (gs.map (groupFails s act k c gate)).flatten with
  | [] =>
    let todo := gs.filter fun g => !act.any fun t => gidOf t == g && (s.thr t).sent
    if octFull s .copy (act.filter fun t => !(s.thr t).sent) then .hold s
    else match sendCmds s w k c gate todo s with
      | (s1, true) => .done (gs.foldl (fun s g => noteSent act g false s) s1)
      | (s1, false) => .hold s1
  | bad => .fail bad

/-- XCPY (R197 to R199). -/
def execXcpy (g : BitVec 4) (q c : BitVec 7) (s : State) : Out := runWord (.xcpy g q c) s (copyEff q.toNat c.toNat false)
/-- GATE (R203). -/
def execGate (g : BitVec 4) (q c : BitVec 7) (s : State) : Out := runWord (.gate g q c) s (copyEff q.toNat c.toNat true)

/-- The words of a retained command. -/
def retainedWords (a : Access) : List DWord := (upto 4).map fun i => d64 (a.data / 2 ^ (64 * i))

/-- A retained command of an antecedent is published once its slot is free (R199, R421). -/
def publishHeld (s : State) (id : Nat) (a : Access) : State :=
  let g := wgOf a.tid
  if copyRoom s g = 0 then s
  else
    let ts := a.aux.drop 1
    publish (s.delAcc id) g (retainedWords a) a.ea (decide (a.aux.headD 0 = 1)) a.label
      { accs := earlierOut s ts, tids := ts, reporter := ts.head?, pc := a.pc, gid := gidOf a.tid }

/-- HELD_RELEASE_STORE_SEND: a held release, or a command that the commit of a pair publishes (R161, R199). -/
def execHeldReleaseStoreSend (acc : Nat) (s : State) : Out :=
  .next (match tfind s.accs acc with
    | some a =>
      if a.stage ≠ .held then s else if a.kind = .special then publishHeld s acc a else heldRelease s acc a
    | none => s)

/-! The words of the ring (R298, R299). -/

/-- NOTIFY_WORD_WRITE: a store-release to the notify word (R299). -/
def execNotifyWordWrite (wg : Nat) (pub : BitVec 32) (s : State) : Out :=
  .next (if (copyWords s wg).isSome && !(s.wg wg).ended then
    notifyEngine (s.modMem wg fun m => { m with copy := { m.copy with pub := pub } }) wg
  else s)

/-- COPY_STATUS_WRITE: only a 0 of stop has an effect (R298). -/
def execCopyStatusWrite (wg : Nat) (data : BitVec 64) (s : State) : Out :=
  .next (match copyWords s wg with
    | some (_, _, x) => if (s.wg wg).ended then s else copyRegWrite s wg (x + 8) (leBytes data.toNat 8)
    | none => s)

/-! The engine (R200, R299, R302, R304). -/

/-- Commands of a CU in flight. -/
def cmdsOf (s : State) (cid : Nat) : Nat := (s.cmds.filter fun e => decide ((s.wg e.2.wg).cid = cid) && !frozenWg s e.2.wg).length

/-- The slot the engine reads next. -/
def nextSlot (s : State) (w : Nat) : Option (Nat × Nat) :=
  match copyWords s w with
  | none => none
  | some (base, n, _) =>
    let c := (s.wg w).mem.copy
    if c.active && !c.stop && decide (c.con ≠ c.pub) then some (c.con.toNat % n, base + 64 * (c.con.toNat % n)) else none

/-- Words of a slot. -/
def slotWords (s : State) (w off : Nat) : List DWord := (upto 5).map fun i => d64 (leNat (spadRead s w (off + 8 * i) 8))

/-- The hand-over of the next command may take place (R199). -/
def handReady (s : State) (w i off : Nat) : Bool :=
  match tfind (s.wg w).mem.copy.holds i with
  | none => true
  | some h =>
    h.accs.all (fun a => (tfind s.accs a).isNone) &&
      (decide (cScope (slotWords s w off) < 2) || h.tids.all fun t => decide ((s.thr t).wct < s.now))

/-- The workgroups of a CU with a command to start, by index. -/
def pendingRings (s : State) (cid : Nat) : List (Nat × Nat) :=
  (s.wgs.filter fun e => decide (e.2.cid = cid) && !e.2.ended && !frozenWg s e.1 && (match nextSlot s e.1 with
    | some (i, off) => handReady s e.1 i off
    | none => false)).map fun e => (e.2.index, e.1)

/-- The least of a list of workgroups by index. -/
def leastWg (l : List (Nat × Nat)) : Option (Nat × Nat) :=
  l.foldl (fun b e => match b with
    | none => some e
    | some x => if e.1 < x.1 ∨ (e.1 = x.1 ∧ e.2 < x.2) then some e else b) none

/-- The ring served next: rotating over the rings in ascending workgroup index, those of one index by workgroup (R302). -/
def nextRing (s : State) (cid : Nat) : Option (Nat × Nat) :=
  let l := pendingRings s cid
  let r := (s.cu cid).rotate
  match leastWg (l.filter fun e => decide (r.1 < e.1 ∨ (r.1 = e.1 ∧ r.2 ≤ e.2))) with
  | some e => some e
  | none => leastWg l

/-- The workgroup of a launch on a CU with the lowest index (R181, R304). -/
def wgOnCu (s : State) (launch cid : Nat) : Option Nat :=
  (leastWg ((s.wgs.filter fun e => decide (e.2.launch = launch ∧ e.2.cid = cid) && !e.2.ended).map fun e => (e.2.index, e.1))).map (·.2)

/-- The targets of a command, stamped with their generations, and whether one is absent (R304, R305). -/
def targetsOf (s : State) (w : Nat) (q : List DWord) : List (Nat × Nat × Word) × Bool :=
  let g := s.wg w
  if cKind q = 2 then
    let cs := (upto 8).filter fun k => bit (cDest q) (32 + k)
    let found := cs.filterMap fun k => (wgOnCu s g.launch (g.cid / 8 * 8 + k)).map fun x => (g.cid / 8 * 8 + k, x, (s.wg x).gen)
    (found, decide (found.length < cs.length))
  else ([(g.cid, w, g.gen)], false)

/-- The lowest row of strided rows that reaches a page, if one does. -/
def rowsMeet (start stride rows rb page : Nat) : Bool :=
  let lo := page * 65536
  let need := if start + rb ≤ lo then lo + 1 - start - rb else 0
  let r := if need = 0 then 0 else if stride = 0 then rows else (need + stride - 1) / stride
  decide (r < rows) && decide (start + r * stride < lo + 65536)

/-- The labels of the source pages of a command (R199). -/
def sourceLabel (s : State) (w : Nat) (q : List DWord) : Label :=
  if cZero q || cEmpty q then 0
  else match rangeOf s (s.vfOf w) (d64 (cSource q)) with
    | none => 0
    | some (_, r) => match spaceOf r with
      | .mem => orAll ((s.pages.filter fun e => decide (e.2.label ≠ 0) &&
          rowsMeet (iaOf r (d64 (cSource q))) (cSStride q) (cRows q) (cRowBytes q) e.1).map (·.2.label))
      | _ => inlabelOf r

/-- Start a command read from a slot (R299, R302). -/
def startCmd (s : State) (w i off : Nat) : State :=
  let ws := slotWords s w off
  let q := ws.take 4
  let counter := (ws.drop 4).headD 0
  let c := (s.wg w).mem.copy
  let gate := sget false c.kind i
  let bad := cmdFails s w q counter gate ++ if spadBad s w off 40 then [(0x12, 0)] else []
  match minOf (bad.map (·.1)) with
  | some cause => s.modMem w fun m => { m with copy := { m.copy with stop := true, cause := BitVec.ofNat 8 cause, active := false } }
  | none =>
    let l := spadLabel s w off 64
    let (ts, lost) := targetsOf s w q
    let h := tfind c.holds i
    let cmd : CopyCmd :=
      { wg := w, gid := (h.map (·.gid)).getD (w * 16), gate := gate, q := q, counter := counter, cmdLabel := l
        dataLabel := if gate then l else l ||| sourceLabel s w q, targets := ts, tids := (h.map (·.tids)).getD [], reporter := h.bind (·.reporter)
        pc := (h.map (·.pc)).getD 0, status := if lost then 1 else 0 }
    let s1 := s.modMem w fun m =>
      { m with copy := { m.copy with con := m.copy.con + 1, active := decide (m.copy.con + 1 ≠ m.copy.pub), holds := tdel m.copy.holds i } }
    let s2 := if lost then detCauseIf s1 (s.wg w).launch 0x08 cmd.pc else s1
    { s2 with cmds := tput s2.cmds s2.fresh cmd, fresh := s2.fresh + 1 }

/-- COPY_COMMAND_START: one command of a CU, at most 32 in flight (R302). -/
def execCopyCommandStart (cid : Nat) (s : State) : Out :=
  .next (if 32 ≤ cmdsOf s cid then s
    else match nextRing s cid with
      | none => s
      | some (idx, w) => match nextSlot s w with
        | none => s
        | some (i, off) => (startCmd s w i off).modCu cid fun u => { u with rotate := (idx, w + 1) })

/-! Reading the source (R200 to R202). -/

/-- What reading bytes of a source answers. -/
inductive Src where
  | wait (s : State)
  | refused (s : State) (cause : Nat) (ea : DWord)
  | ok (s : State) (bs : List Byte) (bad : List Bool) (l : Label)

/-- An address and the later multiples of a unit in a span. -/
def spanPoints (a n u : Nat) : List Nat := a :: ((upto (n / u + 2)).map fun i => (a / u + 1 + i) * u).filter fun x => decide (x < a + n)

/-- An engine reads n bytes of one line at a VA, at the home (R202, R288, R356). -/
def engineRead (s : State) (lch vf : Nat) (va n : Nat) : Src :=
  match rangeOf s vf (d64 va) with
  | none => .refused s 4 (d64 va)
  | some (_, r) =>
    let sp := spaceOf r
    let ia := iaOf r (d64 va)
    if !(pinHolders s (lineOf sp ia)).isEmpty then .wait (noteWait s [] (lineOf sp ia) .engine)
    else match memSide s vf (s.ctx vf).dom sp r ia false 0 with
      | .retry s' => .wait s'
      | .refused c => .refused s c (d64 va)
      | .ok s' =>
        let bad := (upto n).map fun i => decide (sp = .mem) && byteBad s' (ia + i)
        let s1 := detectMem (countAccess s' sp ia) vf sp ia n
        .ok s1 (memRead s1 lch sp ia n) bad (storedLabel s1 sp r ia)

/-! The units of a command (R200, R289). -/

/-- The destination address of a command's first row. -/
def cBase (q : List DWord) : Nat := bits (cDest q) 0 (if cKind q = 0 then 48 else 18)

/-- The units a row is cut into at most: aligned 16-byte pieces of the destination, or the row of a ring or of registers. -/
def perRow (q : List DWord) : Nat := if cKind q ≤ 2 then (cRowBytes q + 30) / 16 else 1

/-- The units of a command, each for every target. -/
def unitCount (c : CopyCmd) : Nat := if cEmpty c.q || c.refused then 0 else cRows c.q * perRow c.q * c.targets.length

/-- A unit: its row, the bytes of the row it covers, its target. -/
structure UnitAt where
  row : Nat
  lo : Nat
  hi : Nat
  target : Nat
  deriving DecidableEq, Repr

/-- The unit of a number; one whose bytes lie past its row is void. -/
def unitAt (c : CopyCmd) (u : Nat) : UnitAt :=
  let k := c.targets.length
  let row := u / k / perRow c.q
  let i := u / k % perRow c.q
  let m := (cBase c.q + row * cDStride c.q) % 16
  if cKind c.q ≤ 2 then { row := row, lo := 16 * i - m, hi := min (cRowBytes c.q) (16 * (i + 1) - m), target := u % k }
  else { row := row, lo := 0, hi := cRowBytes c.q, target := u % k }

/-- A unit without bytes. -/
def voidUnit (c : CopyCmd) (u : Nat) : Bool := decide ((unitAt c u).hi ≤ (unitAt c u).lo)

/-- Go on past units that are done or void. -/
def skipUnits : Nat → CopyCmd → CopyCmd
  | 0, c => c
  | n + 1, c =>
    if c.next < unitCount c && (c.ahead.contains c.next || voidUnit c c.next) then
      skipUnits n { c with next := c.next + 1, ahead := c.ahead.filter (· ≠ c.next) }
    else c

/-- A unit is done; between two units of a row or two rows at most one piece for each target is void. -/
def doneUnit (u : Nat) (c : CopyCmd) : CopyCmd :=
  skipUnits ((c.targets.length + 1) * (c.ahead.length + 2)) { c with cur := none, buf := [], ahead := c.ahead ++ [u] }

/-- The command has no unit left to write. -/
def cmdWritten (c : CopyCmd) : Bool := decide (unitCount c ≤ c.next)

/-- The unit a step works on: the one under way, the one the step names, or the first that is left. Units turn new in no set order
(R289); the rows of a ring are put in theirs. -/
def unitOf (c : CopyCmd) (unit : Nat) : Nat :=
  match c.cur with
  | some u => u
  | none =>
    if cKind c.q ≠ 3 ∧ c.next ≤ unit ∧ unit < unitCount c ∧ !c.ahead.contains unit ∧ !voidUnit c unit then unit else c.next

/-- A command reads the next bytes of a unit, not beyond an aligned 16-byte piece of the source: zeros where zfill is set, the gate's
bytes once it has decided (R201, R275). -/
def cmdRead (s : State) (c : CopyCmd) (x : UnitAt) (got : Nat) : Src :=
  let n := x.hi - x.lo - got
  if cZero c.q then .ok s (leBytes 0 n) ((upto n).map fun _ => false) 0
  else if c.gate then .ok s ((c.data.drop (x.row * cRowBytes c.q + x.lo + got)).take n) ((upto n).map fun _ => false) 0
  else
    let va := cSource c.q + x.row * cSStride c.q + x.lo + got
    engineRead s (s.wg c.wg).launch (s.vfOf c.wg) va (min n (16 - va % 16))

/-! Writing the destination. -/

/-- Change a command. -/
def State.modCmd (s : State) (id : Nat) (f : CopyCmd → CopyCmd) : State := { s with cmds := tmod s.cmds id f }

/-- A status bit. -/
def setStatus (b : BitVec 8) (c : CopyCmd) : CopyCmd := { c with status := c.status ||| b }

/-- The status bit of a memory-side refusal (R195). -/
def refusalBit (cause : Nat) : BitVec 8 := if cause = 5 then 4 else 2

/-- The registers of a row that will not arrive are free again. -/
def dropRegs (s : State) (c : CopyCmd) (row : Nat) : State :=
  if cKind c.q = 4 then s.modThr ((c.wg * 16 + bits (cDest c.q) 8 4) * 64 + row) (sbClear (destFields c.q)) else s

/-- A refused unit: status, the reporter's record, and the unit is passed over (R202). -/
def refuseUnit (s : State) (id : Nat) (c : CopyCmd) (u cause : Nat) (ea : DWord) : State :=
  let s1 := match c.reporter with
    | some t => fillShadow s t { cause := cause, pc := c.pc, ea := ea }
    | none => s
  (dropRegs s1 c (unitAt c u).row).modCmd id fun c => doneUnit u (setStatus (refusalBit cause) c)

/-- Markers over the 8-byte grains whose source was poisoned (R202, R413). -/
def markGrains (ia : Nat) (bad : List Bool) (m : Table Grain) : Table Grain :=
  ((upto bad.length).zip bad).foldl (fun m e => if e.2 then sset .good m ((ia + e.1) / 8) .marker else m) m

/-- A unit written to memory; the copies of the issuing CU that it makes old go, so that an acquire of the count at any scope reads it
(R200, R285). -/
def writeMemUnit (s : State) (id : Nat) (c : CopyCmd) (u : Nat) (bs : List Byte) (bad : List Bool) : State :=
  let vf := s.vfOf c.wg
  let x := unitAt c u
  let va := cBase c.q + x.row * cDStride c.q + x.lo
  match rangeOf s vf (d64 va) with
  | none => refuseUnit s id c u 4 (d64 va)
  | some (_, r) =>
    let sp := spaceOf r
    let ia := iaOf r (d64 va)
    let line := lineOf sp ia
    if !(pinHolders s line).isEmpty then noteWait s [] line .engine
    else match memSide s vf (s.ctx vf).dom sp r ia true (if c.gate then 0 else c.dataLabel) with
      | .retry s' => s'
      | .refused cause => refuseUnit s id c u cause (d64 va)
      | .ok s' =>
        let (s1, wct) := performStore (dropCopies s' (32 + (s.wg c.wg).cid) line) vf (s.wg c.wg).launch (s.ctx vf).dom sp ia bs c.dataLabel
        let s2 := if sp = .mem then { s1 with grains := markGrains ia bad s1.grains } else s1
        s2.modCmd id fun c => doneUnit u { c with wct := if c.wct < wct then wct else c.wct }

/-- The generation of a target is that of a resident workgroup (R305). -/
def targetLive (s : State) (x : Nat × Nat × Word) : Bool := decide ((s.wg x.2.1).gen = x.2.2) && (tfind s.wgs x.2.1).isSome && !(s.wg x.2.1).ended

/-- Mark the granules of poisoned bytes, but not the copy ring's words (R298). -/
def markSpad (a : Nat) (bad : List Bool) (m : WgMem) : WgMem :=
  let keep := match memCopyWords m with | some (_, _, x) => fun k => decide (x ≤ k ∧ k < x + 16) | none => fun _ => false
  ((upto bad.length).zip bad).foldl (fun m e => if e.2 && !keep (a + e.1) then { m with bad := sset false m.bad ((a + e.1) / 8) true } else m) m

/-- A discarded unit (R202, R349). -/
def discardUnit (s : State) (id : Nat) (c : CopyCmd) (u : Nat) : State :=
  (detCauseIf s (s.wg c.wg).launch 0x08 c.pc).modCmd id fun c => doneUnit u (setStatus 1 c)

/-- A unit written to scratchpad, live and shadow, or discarded (R200, R305, R418). -/
def writeSpadUnit (s : State) (id : Nat) (c : CopyCmd) (u : Nat) (bs : List Byte) (bad : List Bool) : State :=
  let y := unitAt c u
  let a := cBase c.q + y.row * cDStride c.q + y.lo
  match c.targets[y.target]? with
  | none => s.modCmd id (doneUnit u)
  | some x =>
    if targetLive s x then
      (s.modBoth x.2.1 fun m => markSpad a bad (memSpadWrite a bs c.dataLabel m)).modCmd id (doneUnit u)
    else discardUnit s id c u

/-- The poisoned words of a row, by number. -/
def badWords (bad : List Bool) : List Nat := (upto (bad.length / 4)).filter fun k => ((bad.drop (4 * k)).take 4).any (·)

/-- A row put to a ring: the workgroup's own, or an inbound one under the CU's credit (R176, R181, R200, R294). -/
def putRow (s : State) (id : Nat) (c : CopyCmd) (u : Nat) (bs : List Byte) (bad : List Bool) : State :=
  let d := cDest c.q
  let q := bits d 0 4
  let cid := (s.wg c.wg).cid
  let row := (unitAt c u).row
  let e : PutEntry := { data := bs, bad := badWords bad, label := c.dataLabel, cmd := some id, row := row, at_ := s.now.toNat }
  let sent := fun (s : State) => s.modCmd id fun c => doneUnit u { c with puts := c.puts ++ [row] }
  if bit d 12 then
    let dst := cid / 8 * 8 + bits d 8 3
    let cr := creditOf s cid dst q
    if cr.absent ∨ 1 ≤ cr.credit then
      let s1 := s.modCu cid fun u => { u with credits := tput u.credits (creditKey dst q) cr.spend }
      sent { s1 with msgs := tput s1.msgs s1.fresh (.put cid dst q cr.gen (s.wg c.wg).launch { e with src := some cid } cr.absent), fresh := s1.fresh + 1 }
    else s
  else match tfind (s.wg c.wg).mem.rings q with
    | none => discardUnit s id c u
    | some r =>
      if r.desc.copy || (s.wg c.wg).ended then discardUnit s id c u
      else if 64 ≤ r.puts.length then s
      else sent (s.modBoth c.wg fun m => { m with rings := tmod m.rings q fun r => { r with puts := r.puts ++ [e] } })

/-- A row lands in a lane's registers; the label is only raised (R200). -/
def writeRegRow (s : State) (id : Nat) (c : CopyCmd) (u : Nat) (bs : List Byte) (bad : List Bool) : State :=
  let g := c.wg * 16 + bits (cDest c.q) 8 4
  let t := g * 64 + (unitAt c u).row
  let fs := destFields c.q
  let cs := cellsOfBytes bs (fun k => ((bad.drop (4 * k)).take 4).any (·)) (cRowBytes c.q / 4) 0
  if (liveOf s g).isEmpty then discardUnit (s.modThr t (sbClear fs)) id c u
  else
    let s1 := if alive (s.thr t) && (tfind s.threads t).isSome then
        (s.modThr t fun x => notePoison (anyPoison cs && decide (g = c.gid)) c.pc
          (sbClear fs ((fs.zip cs).foldl (fun x e => writeField x e.1 e.2) x))).modGrp g (labelFields false c.dataLabel fs false)
      else s
    s1.modCmd id (doneUnit u)

/-- A unit whose bytes have been read is performed. -/
def writeUnit (s : State) (id : Nat) (c : CopyCmd) (u : Nat) : State :=
  let bs := c.buf.map (·.1)
  let bad := c.buf.map (·.2)
  match cKind c.q with
  | 0 => writeMemUnit s id c u bs bad
  | 1 | 2 => writeSpadUnit s id c u bs bad
  | 3 => putRow s id c u bs bad
  | _ => writeRegRow s id c u bs bad

/-- One step of a command: the next piece of a unit's source is read, and the unit is performed once it is whole (R200 to R202). -/
def copyUnit (s : State) (id : Nat) (c : CopyCmd) (u : Nat) : State :=
  let x := unitAt c u
  if x.hi - x.lo ≤ c.buf.length then writeUnit s id c u
  else match cmdRead s c x c.buf.length with
    | .wait s' => s'
    | .refused s' cause ea => refuseUnit s' id c u cause ea
    | .ok s' bs bad l =>
      let c1 :=
        { c with
          cur := some u, buf := c.buf ++ bs.zip bad, dataLabel := c.dataLabel ||| l
          status := if bad.any (·) then c.status ||| 8 else c.status }
      let s1 := s'.modCmd id fun _ => c1
      if x.hi - x.lo ≤ c1.buf.length then writeUnit s1 id c1 u else s1

/-- COPY_UNIT_WRITE (R200); a gate transfer writes after its decision (R204). -/
def execCopyUnitWrite (unit : Nat × Nat) (s : State) : Out :=
  .next (match tfind s.cmds unit.1 with
    | some c => if cmdWritten c || (c.gate && !c.decided) then s else copyUnit s unit.1 c (unitOf c unit.2)
    | none => s)

/-! Completion (R195, R196). -/

/-- The counter word after a completion. -/
def counterAfter (c : CopyCmd) (w : Nat) : Nat :=
  let ref := if bit c.status.toNat 4 && decide (bits w 48 8 = 0) then c.refusal.toNat else bits w 48 8
  (bits w 0 48 + cInc c.q) % 2 ^ 48 + ref * 2 ^ 48 + (BitVec.ofNat 8 (bits w 56 8) ||| c.status).toNat * 2 ^ 56

/-- A command is complete in its threads; its launch keeps its write-completion time. -/
def endCmd (s : State) (id : Nat) (c : CopyCmd) : State :=
  c.tids.foldl (fun s t => s.modThr t (octDown .copy)) (raiseLaunch { s with cmds := tdel s.cmds id } (s.wg c.wg).launch c.wct)

/-- The update of the counter is dropped, and the reporter has the record (R196). -/
def dropUpdate (s : State) (id : Nat) (c : CopyCmd) (cause : Nat) : State :=
  endCmd (match c.reporter with
    | some t => fillShadow s t { cause := cause, pc := c.pc, ea := c.counter }
    | none => s) id c

/-- After every destination write, at a wide scope after their write-completion times, one update of the counter (R196). The update of a
command without rows, whose counter nothing has checked, is dropped where its place fails a check of R198 (DESIGN CHOICE, log entry
76). -/
def complete (s : State) (id : Nat) (c : CopyCmd) : State :=
  let vf := s.vfOf c.wg
  match rangeOf s vf c.counter, minOf ((counterFails s vf c.counter).map (·.1)) with
  | none, _ => dropUpdate s id c 3
  | some _, some cause => dropUpdate s id c cause
  | some (_, r), none =>
    let sp := spaceOf r
    let ia := iaOf r c.counter
    let line := lineOf sp ia
    let l := c.cmdLabel ||| if c.status = 0 then 0 else c.dataLabel
    if !(pinHolders s line).isEmpty then noteWait s [] line .engine
    else match memSide s vf (s.ctx vf).dom sp r ia true l with
      | .retry s' => s'
      | .refused cause => dropUpdate s id c cause
      | .ok s' =>
        let lch := (s.wg c.wg).launch
        let s0 := detectMem s' vf sp ia 8
        let keep := (s0.grains, s0.sectors)
        let (s1, v) := performWrite s0 lch (s.ctx vf).dom sp ia (leBytes (counterAfter c (leNat (memRead s0 lch sp ia 8))) 8) l
        endCmd { s1 with grains := keep.1, sectors := keep.2 } id { c with wct := if c.wct < v then v else c.wct }

/-- COPY_COMPLETION (R196). -/
def execCopyCompletion (cmd : Nat) (s : State) : Out :=
  .next (match tfind s.cmds cmd with
    | some c =>
      if !cmdWritten c || !c.puts.isEmpty || (c.gate && !c.decided) || (decide (2 ≤ cScope c.q) && decide (s.now ≤ c.wct)) then s
      else complete s cmd c
    | none => s)

/-! The release gate (R203 to R205). -/

/-- The bytes of a gate transfer. -/
def gateBytes (c : CopyCmd) : Nat := if cEmpty c.q then 0 else cRows c.q * cRowBytes c.q

/-- The gate reads the next piece of the source, at most an aligned 16-byte unit; a failure is noted and the reading goes on, so that each
kind found is reported (R204, R275). None where it must wait. -/
def gateRead (s : State) (c : CopyCmd) : State × Option CopyCmd :=
  let off := c.data.length % cRowBytes c.q
  let va := cSource c.q + c.data.length / cRowBytes c.q * cSStride c.q + off
  let n := min (cRowBytes c.q - off) (16 - va % 16)
  match engineRead s (s.wg c.wg).launch (s.vfOf c.wg) va n with
  | .wait s' => (s', none)
  | .refused s' cause _ => (s', some { c with data := c.data ++ leBytes 0 n, status := c.status ||| refusalBit cause })
  | .ok s' bs bad l =>
    (s', some { c with data := c.data ++ bs, status := if bad.any (·) then c.status ||| 8 else c.status, dataLabel := c.dataLabel ||| l })

/-- A label names at most one principal. -/
def atMostOne (l : Label) : Bool := decide (l &&& (l - 1) = 0)

/-- The policy for a label in a domain (R365). -/
def policyOf (s : State) (dom : BitVec 8) (l : Label) : Option Policy :=
  s.pkg.policies.find? fun p => decide (p.dom = dom ∧ p.label = l)

/-- Change the budget of a policy. -/
def rebudget (s : State) (dom : BitVec 8) (l : Label) (f : Policy → DWord) : State :=
  s.modPkg fun k => { k with policies := k.policies.map fun p => if p.dom = dom ∧ p.label = l then { p with budget := f p } else p }

/-- Lower a policy's budget. -/
def spend (s : State) (dom : BitVec 8) (l : Label) (n : DWord) : State := rebudget s dom l fun p => p.budget - n

/-- The gate's steps 1 to 6: the refusal code, or the policy drawn on, none where the data passes without one. -/
def gateCode (s : State) (vf : Nat) (st : BitVec 8) (l : Label) (dst : List DWord) (n : Nat) : Sum (BitVec 8) (Option Policy) :=
  if st ≠ 0 then .inl 6
  else if spaceOf dst = .mem then .inl 4
  else if atMostOne l then (if l &&& ~~~(1#16 <<< prinOf dst) = 0 then .inr none else .inl 2)
  else match policyOf s (s.ctx vf).dom l with
    | none => .inl 1
    | some p =>
      if p.expiry.toNat ≤ s.now.toNat then .inl 3
      else if !p.dests.getLsbD (prinOf dst) then .inl 4
      else if p.budget.toNat < n then .inl 5
      else .inr (some p)

/-- The gate has decided: it lets the data pass, or refuses with a code. -/
def gateDone (code : BitVec 8) (c : CopyCmd) : CopyCmd :=
  if code = 0 then { c with decided := true } else { c with decided := true, refused := true, status := c.status ||| 16, refusal := code }

/-- The gate decides on what it has read: the budget is lowered in the same step; in host-assisted mode step 7 then waits for the host's
reply (R204, R205, R449). -/
def gateDecide (s : State) (id : Nat) (c : CopyCmd) : State :=
  let vf := s.vfOf c.wg
  match rangeOf s vf (d64 (cBase c.q)) with
  | none => s.modCmd id fun _ => gateDone 4 c
  | some (_, dst) => match gateCode s vf c.status c.dataLabel dst (gateBytes c) with
    | .inl code => s.modCmd id fun _ => gateDone code c
    | .inr p =>
      let s1 := if p.isSome then spend s (s.ctx vf).dom c.dataLabel (d64 (gateBytes c)) else s
      let c1 := { c with drawn := p.map (·.serial) }
      if bit (s.part (s.partOf vf)).mode.toNat 4 then
        (postPf s1 { type := 6, vf := vf, pc := c.pc, addr := c.counter, detail := d64 id, reply := true }).modCmd id fun _ => { c1 with asked := true }
      else s1.modCmd id fun _ => gateDone 0 c1

/-- The budget that an undecided gate has lowered goes back to the policy it was drawn from (R204). -/
def giveBack (s : State) (c : CopyCmd) : State :=
  match c.drawn with
  | some k => rebudget s (s.ctx (s.vfOf c.wg)).dom c.dataLabel fun p => if p.serial = k then p.budget + d64 (gateBytes c) else p.budget
  | none => s

/-- The host's reply: a refusal gives the budget back (R204, R449). -/
def gateReply (s : State) (id : Nat) (c : CopyCmd) : State :=
  match c.accepted with
  | none => s
  | some true => s.modCmd id (gateDone 0)
  | some false => (giveBack s c).modCmd id (gateDone 7)

/-- An event that asks for a gate's step 7 (R447). -/
def asksGate (id : Nat) (e : FaultEvent) : Bool := decide (e.type = 6) && decide (e.detail = d64 id)

/-- A save meets a gate that has not decided: it restarts from its source read, its question to the host forgotten and its budget given
back (R409; log entry 88). -/
def restartGate (s : State) (id : Nat) (c : CopyCmd) : State :=
  let s1 := if c.asked then
      (giveBack s c).modPkg fun k => { k with pfRings := tmap k.pfRings fun _ r =>
        { r with waiting := r.waiting.filter fun e => !asksGate id e, outstanding := r.outstanding.filter fun e => !asksGate id e } }
    else s
  s1.modCmd id fun c => { c with data := [], status := 0, dataLabel := c.cmdLabel, asked := false, accepted := none, drawn := none }

/-- A save stops a command at a 16-byte unit boundary (R409): of a unit that is not a row of a ring nothing is kept. -/
def stopUnit (c : CopyCmd) : CopyCmd := if cKind c.q = 3 then c else { c with cur := none, buf := [] }

/-- A save stops a started command: its progress stays, an undecided gate restarts (R409). -/
def stopCmd (s : State) (id : Nat) (c : CopyCmd) : State :=
  if c.gate && !c.decided then restartGate s id c else s.modCmd id stopUnit

/-- One step of the gate: it reads the next piece, and decides once it has read every byte; commands are so decided one at a time, in the
order in which they have read (R204, R205). -/
def gateStep (s : State) (id : Nat) (c : CopyCmd) : State :=
  if c.asked then gateReply s id c
  else if gateBytes c ≤ c.data.length then gateDecide s id c
  else match gateRead s c with
    | (s', none) => s'
    | (s', some c1) =>
      let s1 := s'.modCmd id fun _ => c1
      if gateBytes c ≤ c1.data.length then gateDecide s1 id c1 else s1

/-- GATE_DECISION (R204). -/
def execGateDecision (cmd : Nat) (s : State) : Out :=
  .next (match tfind s.cmds cmd with
    | some c => if c.gate && !c.decided then gateStep s cmd c else s
    | none => s)

end Sys2Proof.Machine
end

