-- ==== Sys2Proof/Machine/Matrix.lean ====
section
/-! DEFINITION. Gangs, MXOP, its rendezvous and promotions, and accumulator memory (R206 to R220, R250 to R252, R307 to R312). -/

namespace Sys2Proof.Machine

/-! GANG, MXFENCE, MXPROG (R206, R208, R214). -/

/-- The group of a whole-group word. -/
def Wx.grpId (w : Wx) : Nat := gidOf (w.b.tids.headD 0)

/-- The lanes of a list fail with a cause. -/
def allFail (ts : List Nat) (c : Nat) : Eff := .fail (ts.map fun t => { tid := t, cause := c })

/-- A word that acts once for its group reads poison: its guard-true lanes fail, or with none the whole bundle (R15, R135, R194; log
entry 66). -/
def groupPoison (w : Wx) (act : List Nat) : Eff := allFail (if act.isEmpty then w.b.tids else act) 0x12

/-- GANG: the conjunction register takes gK, or cause 0x0D (R206). -/
def gangEff (k : Nat) (s : State) (w : Wx) : Eff :=
  let act := w.act s
  let gid := w.grpId
  let r := readG s gid k
  let v := r.val.toNat
  if r.plo || r.phi then groupPoison w act
  else if bits v 39 25 ≠ 0 ∨ bits v 35 1 ≠ 0 ∨ bits v 32 3 < 2 ∨ 6 < bits v 32 3 ∨ bits v 32 3 ≤ bits v 36 3 then allFail w.b.tids 0x0D
  else .done (s.modGrp gid fun g =>
    { g with conjKey := w32 v, conjN := BitVec.ofNat 3 (bits v 32 3), conjPos := BitVec.ofNat 3 (bits v 36 3), lconj := sget 0 g.lg k ||| g.ctx })

/-- GANG (R206). -/
def execGang (g : BitVec 4) (k : BitVec 7) (s : State) : Out := runWord (.gang g k) s (gangEff k.toNat)

/-- MXFENCE: a fence of acquire-release order at core scope that sets the operand-ready bit (R208). -/
def execMxfence (s : State) : Out :=
  runWord .mxfence s fun s w => .gone (s.modBundle w.pipe fun b =>
    { b with fence := some { order := { kind := .acqRel, scope := .core }, sc := false, tids := w.b.tids, mx := true } })

/-- The value of the progress register (R214). -/
def progOf (g : Group) : Nat := ofBool g.faulted * 2 ^ 31 + ofBool g.done * 2 ^ 30 + g.kdone.toNat

/-- MXPROG (R214). -/
def execMxprog (g : BitVec 4) (d : BitVec 7) (s : State) : Out :=
  runWord (.mxprog g d) s fun s w =>
    .done (writeOuts s w (.r d) ((w.act s).map fun t => { tid := t, val := progOf (s.grp (gidOf t)) }) (w.label s))

/-- MXPROG.clr (R214). -/
def execMxprogClr (g : BitVec 4) (s : State) : Out :=
  runWord (.mxprogClr g) s fun s w =>
    .done (s.modGrp w.grpId fun g => { g with faulted := false, done := false, kdone := 0, progDesc := none })

/-! The fields of a descriptor (R209). -/

/-- A row stride. -/
def dAStride (d : List DWord) : Nat := bits (cmdWord d 0) 48 16
/-- A base. -/
def dABase (d : List DWord) : Nat := bits (cmdWord d 0) 0 48
/-- B column stride. -/
def dBStride (d : List DWord) : Nat := bits (cmdWord d 1) 48 16
/-- B base. -/
def dBBase (d : List DWord) : Nat := bits (cmdWord d 1) 0 48
/-- B in scratchpad. -/
def dBSpad (d : List DWord) : Bool := bit (cmdWord d 2) 42
/-- A in scratchpad. -/
def dASpad (d : List DWord) : Bool := bit (cmdWord d 2) 41
/-- Orientation. -/
def dOrient (d : List DWord) : Bool := bit (cmdWord d 2) 40
/-- Add into AM. -/
def dAcc (d : List DWord) : Bool := bit (cmdWord d 2) 39
/-- First bank. -/
def dBank (d : List DWord) : Nat := bits (cmdWord d 2) 34 5
/-- Depth. -/
def dK (d : List DWord) : Nat := bits (cmdWord d 2) 18 16
/-- Columns. -/
def dN (d : List DWord) : Nat := bits (cmdWord d 2) 9 9
/-- Rows. -/
def dM (d : List DWord) : Nat := bits (cmdWord d 2) 0 9
/-- Group length. -/
def dG (d : List DWord) : Nat := 32 * 2 ^ bits (cmdWord d 3) 48 2
/-- Table VA. -/
def dTable (d : List DWord) : Nat := bits (cmdWord d 3) 0 48
/-- A grouped format. -/
def grouped (f : Nat) : Bool := decide (f = 1 ∨ f = 3)
/-- Bytes of k elements. -/
def elemBytes (f k : Nat) : Nat := (k * elemBits f + 7) / 8

/-! The tile (R211). -/

/-- Arrays used by a number of distinct CUs (R207). -/
def arraysOf (n : Nat) : Nat := if 4 ≤ n then 4 else if 2 ≤ n then 2 else 1

/-- First row and column of host h. -/
def hostOrigin (a h : Nat) (orient : Bool) : Nat × Nat :=
  if a = 4 then (h / 2 * 128, h % 2 * 128) else if a = 2 then (if orient then (0, h * 128) else (h * 128, 0)) else (0, 0)

/-- Rows and columns of the tile. -/
def tileSize (a : Nat) (orient : Bool) : Nat × Nat :=
  if a = 4 then (256, 256) else if a = 2 then (if orient then (128, 256) else (256, 128)) else (128, 128)

/-- Rows below M that host h holds. -/
def hostRows (a h : Nat) (d : List DWord) : Nat := min 128 (dM d - (hostOrigin a h (dOrient d)).1)
/-- Columns below N that host h holds. -/
def hostCols (a h : Nat) (d : List DWord) : Nat := min 128 (dN d - (hostOrigin a h (dOrient d)).2)
/-- Banks host h writes. -/
def hostBanks (a h : Nat) (d : List DWord) : Nat := (hostRows a h d + 7) / 8

/-- The AM key of an element. -/
def amKey (bank row col : Nat) : Nat := bank * 1024 + row * 128 + col
/-- The AM key of a host's element (R211). -/
def tileKey (b0 i j : Nat) : Nat := amKey (b0 + i / 8) (i % 8) j

/-! The rendezvous (R207, R308). -/

/-- Groups of one gang: one launch, one core, same key and n, arrived, with no operation in flight (R207, R308). -/
def gangArrived (s : State) (gid : Nat) : List Nat :=
  let g := s.grp gid
  let w := s.wg (gid / 16)
  (s.groups.filter fun e =>
    let v := s.wg (e.1 / 16)
    decide (e.2.conjKey = g.conjKey ∧ e.2.conjN = g.conjN ∧ v.launch = w.launch ∧ v.cid / 8 = w.cid / 8) &&
      e.2.arrival.isSome && e.2.mx.isNone).map (·.1)

/-- The member at a position. -/
def memberAt (s : State) (l : List Nat) (p : Nat) : Option Nat := l.find? fun g => (s.grp g).conjPos.toNat == p

/-- A member takes a trap at its MXOP, or its checkpointed workgroup rolls back (R207, R210, R419). -/
def trapMember (s : State) (gid cause : Nat) (addr : DWord) : State :=
  let s1 := s.modGrp gid fun g => { g with arrival := none }
  let s2 := if cause = 0x12 then countCons s1 (s.vfOf (gid / 16)) else s1
  if rollsBack s (gid / 16) cause then s2.modWg (gid / 16) fun g => { g with backCauses := g.backCauses ++ [cause], retry := true }
  else (liveOf s gid).foldl (fun s t => trapThread s t { parkedReq (s.thr t) t cause with addr := addr }) s2

/-- The descriptor values of an arrival. -/
def arrDesc (a : MxArrival) : List DWord := a.desc.map (·.val)

/-- The distinct CUs of members in position order (R207). -/
def gangCus (s : State) (ms : List Nat) : List Nat := dedup (ms.map fun g => (s.wg (g / 16)).cid)

/-- The hosts with the workgroups of their first members. -/
def gangHosts (s : State) (ms : List Nat) : List MxHost :=
  let cs := gangCus s ms
  (cs.take (arraysOf cs.length)).map fun c => { cid := c, firstWg := ((ms.find? fun g => (s.wg (g / 16)).cid == c).getD 0) / 16 }

/-- The workgroup a bank is held by. -/
def bankHolder : BankState → Option Nat
  | .free => none
  | .held w => some w
  | .tagged w _ _ _ _ _ => some w

/-- The state of a bank. -/
def bankOf (s : State) (cid b : Nat) : Bank := (tfind (s.cu cid).banks b).getD {}

/-- Change a bank. -/
def State.modBank (s : State) (cid b : Nat) (f : Bank → Bank) : State :=
  s.modCu cid fun u => { u with banks := tput u.banks b (f ((tfind u.banks b).getD {})) }

/-- The last byte of strided rows and one more. -/
def operandLen (stride rows f k : Nat) : Nat := 16 * stride * (rows - 1) + elemBytes f k

/-- Cause 0x18 of R210. -/
def descBad (s : State) (ms : List Nat) (f p : Nat) (d : List DWord) (hosts : List MxHost) : Bool :=
  let a := hosts.length
  let (tm, tn) := tileSize a (dOrient d)
  decide (bits (cmdWord d 2) 43 21 ≠ 0) || (grouped f && (decide (bits (cmdWord d 3) 50 14 ≠ 0) || decide (bits (cmdWord d 3) 48 2 = 3))) ||
  decide (dM d = 0 ∨ dN d = 0 ∨ dK d = 0 ∨ tm < dM d ∨ tn < dN d) ||
  ((upto a).any fun h => decide (32 < dBank d + hostBanks a h d)) ||
  decide (dABase d % 16 ≠ 0 ∨ dBBase d % 16 ≠ 0) || (grouped f && decide (dTable d % 16 ≠ 0)) ||
  (decide (f = 2 ∨ f = 3) && decide (p % 2 = 1 ∨ dK d % 2 = 1)) ||
  (grouped f && (decide (dK d % dG d ≠ 0) || decide (dG d % p ≠ 0))) ||
  ms.any fun g => (s.grp g).faulted && (match (s.grp g).progDesc with
    | some (f', p', d') => !decide (f' = f ∧ p' = p) || decide (d'.take (if grouped f then 4 else 3) ≠ d.take (if grouped f then 4 else 3))
    | none => true)

/-- Cause 0x02 of R210. -/
def allotBad (s : State) (ms : List Nat) (f : Nat) (d : List DWord) (hosts : List MxHost) : Bool :=
  let a := hosts.length
  let ws := ms.map (· / 16)
  ((upto a).zip hosts).any fun e =>
    ((upto (hostBanks a e.1 d)).any fun i => decide (dBank d + i < 32) && match bankHolder (bankOf s e.2.cid (dBank d + i)).state with
      | some w => !ws.contains w
      | none => true) ||
    (dASpad d && decide (0 < hostRows a e.1 d) &&
      decide (spadSize s e.2.firstWg < dABase d + 16 * dAStride d * (hostOrigin a e.1 (dOrient d)).1 + operandLen (dAStride d) (hostRows a e.1 d) f (dK d))) ||
    (dBSpad d && decide (0 < hostCols a e.1 d) &&
      decide (spadSize s e.2.firstWg < dBBase d + 16 * dBStride d * (hostOrigin a e.1 (dOrient d)).2 + operandLen (dBStride d) (hostCols a e.1 d) f (dK d)))

/-- The range causes of R210. -/
def operandFails (s : State) (vf f : Nat) (d : List DWord) : List (Nat × DWord) :=
  (if dASpad d then [] else extentFail s vf (dABase d) (operandLen (dAStride d) (dM d) f (dK d)) { rd := true }) ++
  (if dBSpad d then [] else extentFail s vf (dBBase d) (operandLen (dBStride d) (dN d) f (dK d)) { rd := true }) ++
  (if grouped f then extentFail s vf (dTable d) (4 * ((dM d + dN d) * (dK d / dG d))) { rd := true } else [])

/-- A descriptor word of a member's arrival is poisoned. -/
def arrivalPoisoned (s : State) (g : Nat) : Bool :=
  match (s.grp g).arrival with
  | some a => a.desc.any fun c => c.plo || c.phi
  | none => false

/-- Every failing check of R210 for a gang. -/
def mxFails (s : State) (ms : List Nat) (f p : Nat) (d : List DWord) : List (Nat × DWord) :=
  let hosts := gangHosts s ms
  (if descBad s ms f p d hosts then [(0x18, (0 : DWord))] else []) ++ (if allotBad s ms f d hosts then [(2, 0)] else []) ++
  operandFails s (s.vfOf (ms.headD 0 / 16)) f d ++
  (if ms.any (arrivalPoisoned s) then [(0x12, (0 : DWord))] else [])

/-- The labels of the pages or blocks of strided rows. -/
def rowsLabel (s : State) (vf w : Nat) (spad : Bool) (base stride rows len : Nat) : Label :=
  orAll ((upto rows).map fun i =>
    let a := base + stride * i
    if spad then spadLabel s w a len else orAll ((spanPoints a len 65536).map (vaLabel s vf)))

/-- The result label of an operation at its start (R212). -/
def mxLabel (s : State) (ms : List Nat) (f : Nat) (d : List DWord) (hosts : List MxHost) : Label :=
  let vf := s.vfOf (ms.headD 0 / 16)
  let a := hosts.length
  orAll (ms.map fun g => (s.grp g).ctx ||| (((s.grp g).arrival.map (·.label)).getD 0)) |||
  orAll (((upto a).zip hosts).map fun e =>
    let o := hostOrigin a e.1 (dOrient d)
    rowsLabel s vf e.2.firstWg (dASpad d) (dABase d + 16 * dAStride d * o.1) (16 * dAStride d) (hostRows a e.1 d) (elemBytes f (dK d)) |||
    rowsLabel s vf e.2.firstWg (dBSpad d) (dBBase d + 16 * dBStride d * o.2) (16 * dBStride d) (hostCols a e.1 d) (elemBytes f (dK d)) |||
    (if dAcc d then orAll ((upto (hostBanks a e.1 d)).map fun i => (bankOf s e.2.cid (dBank d + i)).label) else 0)) |||
  if grouped f then rowsLabel s vf 0 false (dTable d) 0 1 (4 * ((dM d + dN d) * (dK d / dG d))) else 0

/-- The banks of a host are tagged and labelled (R212 step 1). -/
def tagBanks (op : MxOp) (s : State) (e : Nat × MxHost) : State :=
  let a := op.hosts.length
  (upto (hostBanks a e.1 op.desc)).foldl (fun s i => s.modBank e.2.cid (dBank op.desc + i) fun b =>
    { b with
      label := b.label ||| op.label
      state := .tagged ((bankHolder b.state).getD e.2.firstWg) op.key op.n (dBank op.desc) (hostOrigin a e.1 (dOrient op.desc)).1 (dM op.desc) }) s

/-- An operation starts: it leaves the latch, its members go on, their counting threads count it, the hosts expire their
leased copies, the banks are tagged (R207, R212, R214, R289). -/
def startMx (s : State) (ms : List Nat) (a : MxArrival) (f p : Nat) (d : List DWord) : State :=
  let hosts := gangHosts s ms
  let lead := s.grp (ms.headD 0)
  let counting := (ms.map fun g => ((s.grp g).arrival.map (·.counting)).getD []).flatten
  let op : MxOp :=
    { pc := a.pc, fmt := f, p := p, desc := d, key := lead.conjKey, n := lead.conjN.toNat, members := ms, hosts := hosts
      counting := counting, label := mxLabel s ms f d hosts, kdone := if lead.faulted then lead.kdone.toNat else 0
      resumed := lead.faulted, at_ := s.cycle }
  let id := s.fresh
  let s1 := { s with mxops := tput s.mxops id op, fresh := id + 1 }
  let s2 := counting.foldl (fun s t => s.modThr t (octUp .tile)) s1
  let s3 := ms.foldl (fun s g => passParked (s.modGrp g fun x =>
    { x with
      arrival := none, mx := some id, mxReady := false, faulted := false, done := false
      kdone := if x.faulted then x.kdone else 0, progDesc := some (f, p, d) }) g) s2
  let s4 := hosts.foldl (fun s h => expireCopies s h.cid false) s3
  ((upto hosts.length).zip hosts).foldl (tagBanks op) s4

/-- Every position has arrived: mismatches and failing checks trap every member, else the operation starts (R207, R210,
R312). -/
def fireGang (s : State) (ms : List Nat) : State :=
  match (s.grp (ms.headD 0)).arrival with
  | none => s
  | some a =>
    let same := ms.all fun g => match (s.grp g).arrival with
      | some b => decide (b.word = a.word ∧ arrDesc b = arrDesc a) && decide (progOf (s.grp g) / 2 ^ 31 = progOf (s.grp (ms.headD 0)) / 2 ^ 31) &&
          (!(s.grp g).faulted || decide ((s.grp g).kdone = (s.grp (ms.headD 0)).kdone))
      | none => false
    if !same then ms.foldl (fun s g => trapMember s g 0x0D 0) s
    else
      let f := a.word.headD 0
      let p := (a.word.drop 1).headD 0 + 1
      let d := arrDesc a
      let bad := mxFails s ms f p d
      match minOf (bad.map (·.1)) with
      | some c => ms.foldl (fun s' g => trapMember s' g c (if c = 3 ∨ c = 4 then ((bad.find? fun e => e.1 == c).map (·.2)).getD 0 else 0)) s
      | none => startMx s ms a f p d

/-- A member joins the rendezvous: its position must be free; the last one to arrive makes it complete (R207, R308). -/
def joinGang (s : State) (gid : Nat) : State :=
  let g := s.grp gid
  if g.arrival.isNone || g.mx.isSome then s
  else
    let l := gangArrived s gid
    if l.any fun h => decide (h ≠ gid) && decide ((s.grp h).conjPos = g.conjPos) then trapMember s gid 0x0D 0
    else
      let ms := (upto g.conjN.toNat).filterMap (memberAt s l)
      if ms.length = g.conjN.toNat then fireGang s ms else s

/-- MXOP: the group arrives at the rendezvous, parked (R207, R212, R308). -/
def mxopEff (g d p f : Nat) (s : State) (w : Wx) : Eff :=
  let act := w.act s
  let gid := w.grpId
  if (s.grp gid).conjN = 0 then allFail w.b.tids 0x0D
  else if octFull s .tile act then .hold s
  else
    let a : MxArrival :=
      { word := [f, p, d, g], desc := (upto 4).map fun i => readG s gid (d + i), counting := act, pc := w.b.pc
        label := orAll ((upto 4).map fun i => sget 0 (s.grp gid).lg (d + i)) }
    .gone (joinGang ((parkBundle s w).modGrp gid fun g => { g with arrival := some a }) gid)

/-- MXOP (R209). -/
def execMxop (g : BitVec 4) (d p : BitVec 7) (f : BitVec 3) (s : State) : Out :=
  runWord (.mxop g d p f) s (mxopEff g.toNat d.toNat p.toNat f.toNat)

/-! The steps of an operation (R212, R213, R309). -/

/-- The order of operations on one array: the cycle in which their rendezvous completed, then the CU and gi of the position-0 member
(R309). -/
def opKey (s : State) (id : Nat) (op : MxOp) : List Nat :=
  [op.at_, (s.wg (op.members.headD 0 / 16)).cid, op.members.headD 0 % 16, id]

/-- Change an operation. -/
def State.modOp (s : State) (id : Nat) (f : MxOp → MxOp) : State := { s with mxops := tmod s.mxops id f }

/-- Change host h of an operation. -/
def setHost (h : Nat) (f : MxHost → MxHost) (op : MxOp) : MxOp :=
  { op with hosts := ((upto op.hosts.length).zip op.hosts).map fun e => if e.1 = h then f e.2 else e.2 }

/-- Write elements of AM; a failed 8-byte grain of which both elements are written is sound again (R412, R413). -/
def amPut (l : Table Word) (u : Cu) : Cu :=
  { u with
    am := l.foldl (fun m e => sset 0 m e.1 e.2) u.am
    amBad := u.amBad.filter fun e => !((l.any fun x => decide (x.1 = 2 * e.1)) && l.any fun x => decide (x.1 = 2 * e.1 + 1)) }

/-- The elements of a host's tile. -/
def tileKeys (op : MxOp) (h : Nat) : List Nat :=
  let a := op.hosts.length
  ((upto (hostRows a h op.desc)).map fun i => (upto (hostCols a h op.desc)).map fun j => tileKey (dBank op.desc) i j).flatten

/-- With acc = 0 the elements of a host start at +0.0 (R212). -/
def zeroTile (s : State) (op : MxOp) (h cid : Nat) : State := s.modCu cid (amPut ((tileKeys op h).map fun k => (k, 0)))

/-- An element of a host's tile lies in a failed grain. -/
def tileBad (s : State) (op : MxOp) (h cid : Nat) : Bool := (s.cu cid).amBad.any fun e => (tileKeys op h).any fun k => decide (k / 2 = e.1)

/-- Another operation of a resident context stands before an operation on a CU: one that runs there, or an earlier one that has
not started (R309). -/
def arrayTaken (s : State) (id : Nat) (o : MxOp) (cid : Nat) : Bool :=
  s.mxops.any fun e => decide (e.1 ≠ id) && !e.2.members.any (fun g => frozenWg s (g / 16)) &&
    e.2.hosts.any fun x => decide (x.cid = cid) && (x.started || keyBefore (opKey s e.1 e.2) (opKey s id o))

/-- MXOP_HOST_START: an array runs the operations of different gangs one at a time, in order; it starts none in the cycle in which
its rendezvous completed, so that every rendezvous of that cycle is in the order (R212, R309). -/
def execMxopHostStart (op host : Nat) (s : State) : Out :=
  .next (match tfind s.mxops op with
    | none => s
    | some o => match o.hosts[host]? with
      | none => s
      | some h =>
        if h.started || decide (s.cycle ≤ o.at_) || arrayTaken s op o h.cid then s
        else
          let s1 := s.modOp op (setHost host fun x => { x with started := true, load := some { k := o.kdone } })
          if dAcc o.desc || o.resumed then s1 else zeroTile s1 o host h.cid)

/-- The address of the failing grain of a byte: its sector, else its 8-byte granule (R213). -/
def grainAddr (s : State) (ia va : Nat) : Nat := if grainBad (sget .good s.sectors (ia / 64)) then va / 64 * 64 else va / 8 * 8

/-! The operand units of a block (R211, R250). -/

/-- The number of the aligned 16-byte unit that holds an operand byte, in scratchpad or at a VA. -/
def unitKey (spad : Bool) (a : Nat) : Nat := a / 16 * 2 + ofBool spad

/-- The k-steps of the block at k. -/
def blockLen (op : MxOp) (k : Nat) : Nat := min op.p (dK op.desc - k)

/-- The address of a row's or column's elements from k-step k on. -/
def rowAddr (op : MxOp) (isB : Bool) (i k : Nat) : Nat :=
  (if isB then dBBase op.desc else dABase op.desc) + 16 * (if isB then dBStride op.desc else dAStride op.desc) * i + elemBytes op.fmt k

/-- The address of the table entry of a row or column at k-step k (R209, R239). -/
def entryAddr (op : MxOp) (isB : Bool) (i k : Nat) : Nat :=
  let d := op.desc
  dTable d + 4 * ((if isB then dM d * (dK d / dG d) else 0) + i * (dK d / dG d) + k / dG d)

/-- The first row or column of a host, and how many it holds; none where it computes no element (R211). -/
def hostLanes (op : MxOp) (host : Nat) (isB : Bool) : Nat × Nat :=
  let a := op.hosts.length
  let o := hostOrigin a host (dOrient op.desc)
  if hostRows a host op.desc = 0 ∨ hostCols a host op.desc = 0 then (0, 0)
  else if isB then (o.2, hostCols a host op.desc) else (o.1, hostRows a host op.desc)

/-- Where the bytes of a row or column lie. -/
def laneSpad (op : MxOp) (isB : Bool) : Bool := if isB then dBSpad op.desc else dASpad op.desc

/-- The units that a row or column and its table entry lie in. -/
def laneUnits (op : MxOp) (isB : Bool) (k i : Nat) : List Nat :=
  (spanPoints (rowAddr op isB i k) (elemBytes op.fmt (blockLen op k)) 16).map (unitKey (laneSpad op isB)) ++
  if grouped op.fmt then [unitKey false (entryAddr op isB i k)] else []

/-- The units a host reads for the block at k, each once (R250). -/
def mxUnits (op : MxOp) (host k : Nat) : List Nat :=
  dedup ([false, true].map fun isB => let l := hostLanes op host isB; ((upto l.2).map fun i => laneUnits op isB k (l.1 + i)).flatten).flatten

/-- What reading an operand unit answers. -/
structure MxRead where
  st : State
  unit : Option MxUnit := none
  label : Label := 0

/-- Read an operand unit: in scratchpad, or at the home, where a pin and a page without a frame make it wait and a refusal fails
its whole line (R213, R250, R288). -/
def readUnit (s : State) (lch vf w key : Nat) : MxRead :=
  let a := key / 2 * 16
  if key % 2 = 1 then
    let bad := (upto 16).filter fun i => sget false (s.wg w).mem.bad ((a + i) / 8)
    { st := s, unit := some { bytes := spadRead s w a 16, bad := bad.map fun i => (i, (a + i) / 8 * 8) }, label := spadLabel s w a 16 }
  else
    let lost : MxUnit := { bytes := leBytes 0 16, bad := (upto 16).map fun i => (i, a / 64 * 64) }
    match rangeOf s vf (d64 a) with
    | none => { st := s, unit := some lost }
    | some (_, r) =>
      let sp := spaceOf r
      let ia := iaOf r (d64 a)
      if !(pinHolders s (lineOf sp ia)).isEmpty then { st := noteWait s [] (lineOf sp ia) .engine }
      else match memSide s vf (s.ctx vf).dom sp r ia false 0 with
        | .retry s' => { st := s' }
        | .refused _ => { st := s, unit := some lost }
        | .ok s' =>
          let s1 := countAccess (detectMem s' vf sp ia 16) sp ia
          let bad := (upto 16).filter fun i => decide (sp = .mem) && byteBad s' (ia + i)
          { st := s1, unit := some { bytes := memRead s1 lch sp ia 16, bad := bad.map fun i => (i, grainAddr s' (ia + i) (a + i)) },
            label := storedLabel s1 sp r ia }

/-! The loader and the sums (R234 to R242, R250). -/

/-- Bytes of the units read. -/
def loadBytes (l : MxLoad) (spad : Bool) (a n : Nat) : List Byte :=
  (upto n).map fun i => ((((tfind l.got (unitKey spad (a + i))).map (·.bytes)).getD [])[(a + i) % 16]?).getD 0

/-- The failing addresses of bytes of the units read. -/
def loadFails (l : MxLoad) (spad : Bool) (a n : Nat) : List Nat :=
  ((upto n).map fun i => ((((tfind l.got (unitKey spad (a + i))).map (·.bad)).getD []).filter fun b => decide (b.1 = (a + i) % 16)).map (·.2)).flatten

/-- The lanes of a block from the bytes a reader gives for its rows and columns and for its table entries (R209, R239 to R242). -/
def lanesOf (op : MxOp) (host k : Nat) (isB : Bool) (row entry : Nat → Nat → List Byte) : List Lane :=
  let l := hostLanes op host isB
  (upto l.2).map fun i =>
    loadLane op.fmt (blockLen op k) (if grouped op.fmt then leNat (entry (entryAddr op isB (l.1 + i) k) 4) else 0)
      (row (rowAddr op isB (l.1 + i) k) (elemBytes op.fmt (blockLen op k)))

/-- The rows or columns of a block as loaded. -/
def loadedLanes (op : MxOp) (host : Nat) (b : MxLoad) (isB : Bool) : List Lane :=
  lanesOf op host b.k isB (loadBytes b (laneSpad op isB)) (loadBytes b false)

/-- The failing addresses of the bytes a block uses, in memory or in scratchpad (R213). -/
def blockFails (op : MxOp) (host : Nat) (b : MxLoad) (spad : Bool) : List Nat :=
  ([false, true].map fun isB =>
    let l := hostLanes op host isB
    ((upto l.2).map fun i =>
      (if laneSpad op isB = spad then loadFails b spad (rowAddr op isB (l.1 + i) b.k) (elemBytes op.fmt (blockLen op b.k)) else []) ++
      (if grouped op.fmt && !spad then loadFails b false (entryAddr op isB (l.1 + i) b.k) 4 else [])).flatten).flatten

/-- The array sums a block whose units are all read (R234, R244). -/
def sumBlock (op : MxOp) (host : Nat) (b : MxLoad) : MxBlock :=
  let as := loadedLanes op host b false
  let bs := loadedLanes op host b true
  { k := b.k, passes := (upto (passesOf op.fmt)).map (passSums as bs), fails := blockFails op host b false, spadFails := blockFails op host b true }

/-- A host whose block is read takes it into a free set of sums and goes on to the next block (R238). -/
def hostSums (op : MxOp) (host : Nat) (h : MxHost) : MxHost :=
  match h.load, h.full with
  | some b, none =>
    if (mxUnits op host b.k).all fun u => (tfind b.got u).isSome then
      { h with full := some (sumBlock op host b), load := if b.k + op.p < dK op.desc then some { k := b.k + op.p } else none }
    else h
  | _, _ => h

/-! Drain, promotion, commit (R212, R213, R237, R244, R247, R252). -/

/-- The elements a host's promotion commits, with their flags, from a block's sums and the elements of AM. -/
def promoteTile (op : MxOp) (am : Table Word) (b : MxBlock) : Table Word × BitVec 5 :=
  let first := (b.passes[0]?).getD { rows := [], cols := [], cells := [] }
  (upto first.rows.length).foldl (fun r i => (upto first.cols.length).foldl (fun r j =>
    let k := tileKey (dBank op.desc) i j
    let p := promoteX op.fmt ((first.rows[i]?).getD {}) ((first.cols[j]?).getD {}) (b.passes.map fun x => passDrain x i j) (sget 0 am k).toNat
    (tput r.1 k (w32 p.1), r.2 ||| p.2)) r) ([], 0)

/-- A host drains a block: the residue check, and the elements of its promotion unless the block fails (R213, R237, R252). -/
def drainBlock (s : State) (op : MxOp) (host cid : Nat) (b : MxBlock) : MxStage :=
  let bad := tileBad s op host cid
  let residue := !b.passes.all passOk
  if residue || bad || !b.fails.isEmpty || !b.spadFails.isEmpty then
    { residue := residue, amBad := bad, fails := b.fails, spadFails := b.spadFails }
  else
    let p := promoteTile op (s.cu cid).am b
    { elems := p.1, flags := p.2 }

/-- The cause and address for which a drained block cannot be promoted: a residue mismatch; else the lowest failing address of the
block over its hosts, in memory before scratchpad; else a failed grain of AM (R213, R252; log entry 55). -/
def stageFail (l : List MxStage) : Option (Nat × Nat) :=
  if l.any (·.residue) then some (0x13, 0)
  else match minOf (l.map (·.fails)).flatten, minOf (l.map (·.spadFails)).flatten with
    | some x, _ => some (0x18, x)
    | none, some x => some (0x18, x)
    | none, none => if l.any (·.amBad) then some (0x18, 0) else none

/-- An operation is over: its members' progress, its counting threads, and the members that wait to join (R212 to R214,
R308). -/
def endMx (s : State) (id : Nat) (op : MxOp) (cause : Option Nat) (addr : DWord) : State :=
  let t : TileDone := { flags := op.flags, label := op.label, cause := cause, pc := op.pc, addr := addr }
  let s1 := { s with mxops := tdel s.mxops id }
  let s2 := op.members.foldl (fun s g => s.modGrp g fun x =>
    { x with mx := none, kdone := BitVec.ofNat 16 op.kdone, faulted := cause.isSome, done := cause.isNone }) s1
  let s3 := op.counting.foldl (fun s u =>
    if alive (s.thr u) then s.modThr u fun x => { octDown .tile x with tiles := x.tiles ++ [t] }
    else match cause with
      | some c => postVf s (s.vfOf (wgOf u)) { type := 2, cause := c, pc := op.pc, addr := addr }
      | none => s) s2
  op.members.foldl joinGang s3

/-- Every host has drained the block: the promotion is committed for every element (R212). -/
def commitBlock (s : State) (id : Nat) (op : MxOp) : State :=
  let k := min (dK op.desc) (op.kdone + op.p)
  let s1 := op.hosts.foldl (fun s h => match h.staged with
    | some x => s.modCu h.cid (amPut x.elems)
    | none => s) s
  let op1 := { op with
    kdone := k, flags := op.hosts.foldl (fun f h => f ||| ((h.staged.map (·.flags)).getD 0)) op.flags
    hosts := op.hosts.map fun h => { h with staged := none } }
  let s2 := (s1.modOp id fun _ => op1)
  let s3 := op.members.foldl (fun s g => s.modGrp g fun x => { x with kdone := BitVec.ofNat 16 k }) s2
  if dK op.desc ≤ k then endMx s3 id op1 none 0 else s3

/-- Every host has drained the block: it is committed, or a failure stops the operation at its last commit (R212, R213). -/
def settleBlock (s : State) (id : Nat) (op : MxOp) : State :=
  match stageFail (op.hosts.filterMap (·.staged)) with
  | some (c, x) => endMx (if c = 0x13 then countPipe s (s.vfOf (op.members.headD 0 / 16)) else s) id op (some c) (d64 x)
  | none => commitBlock s id op

/-- The banks' labels take what a block's reads bring (R212). -/
def raiseBanks (s : State) (op : MxOp) (l : Label) : State :=
  let a := op.hosts.length
  ((upto a).zip op.hosts).foldl (fun s e => (upto (hostBanks a e.1 op.desc)).foldl (fun s i =>
    s.modBank e.2.cid (dBank op.desc + i) fun b => { b with label := b.label ||| l }) s) s

/-- A host reads a unit of its block: the banks' labels rise before the unit can be promoted (R212, R250). -/
def loadUnit (s : State) (id host key : Nat) (o : MxOp) (h : MxHost) : State :=
  let r := readUnit s (s.wg h.firstWg).launch (s.vfOf h.firstWg) h.firstWg key
  match r.unit with
  | none => r.st
  | some u =>
    let put := fun (x : MxHost) => { x with load := x.load.map fun b => { b with got := tput b.got key u } }
    let o1 := setHost host (fun x => hostSums o host (put x)) { o with label := o.label ||| r.label }
    raiseBanks (r.st.modOp id fun _ => o1) o1 o1.label

/-- A host drains the block that the last commit has reached (R212, R237). -/
def drainHost (s : State) (id host : Nat) (o : MxOp) (h0 : MxHost) : State :=
  let h := hostSums o host h0
  match h.full, h.staged with
  | some b, none =>
    if b.k = o.kdone then
      let x := drainBlock s o host h.cid b
      let o1 := setHost host (fun _ => hostSums o host { h with full := none, staged := some x }) o
      let s1 := (if x.amBad then countMedia s (s.vfOf h.firstWg) else s).modOp id fun _ => o1
      if o1.hosts.all fun y => y.staged.isSome then settleBlock s1 id o1 else s1
    else s
  | _, _ => s

/-- The first unit that a host has not read of its block, or the number of its units (R250). -/
def unreadUnit (op : MxOp) (host : Nat) (h : MxHost) : Nat :=
  match h.load with
  | none => 0
  | some b => (mxUnits op host b.k).findIdx fun u => (tfind b.got u).isNone

/-- MXOP_PROMOTION: a host reads the named unit of its block, each unit once and in any order; a number past the units drains the
block before it. Once every host has drained a block its promotion is committed (R212, R213, R238, R244, R250, R252). -/
def execMxopPromotion (op : Nat) (unit : Nat × Nat) (s : State) : Out :=
  let host := unit.1
  .next (match tfind s.mxops op with
    | none => s
    | some o => match o.hosts[host]? with
      | none => s
      | some h =>
        if !h.started then s
        else match h.load.bind fun b => ((mxUnits o host b.k)[unit.2]?).map fun u => (u, (tfind b.got u).isSome) with
          | some (u, false) => loadUnit s op host u o h
          | some (_, true) => s
          | none => drainHost s op host o h)

/-! Accumulator memory (R215 to R219). -/

/-- An operation in flight writes the bank (R217). -/
def mxWrites (s : State) (cid b : Nat) : Bool :=
  s.mxops.any fun e => !e.2.members.any (fun g => frozenWg s (g / 16)) && ((upto e.2.hosts.length).zip e.2.hosts).any fun h =>
    decide (h.2.cid = cid ∧ dBank e.2.desc ≤ b ∧ b < dBank e.2.desc + hostBanks e.2.hosts.length h.1 e.2.desc)

/-- The banks of a CU a workgroup holds. -/
def banksHeld (s : State) (w : Nat) : Nat :=
  ((upto 32).filter fun b => bankHolder (bankOf s (s.wg w).cid b).state == some w).length

/-- The lowest run of n free banks of a CU. -/
def freeRun (s : State) (cid n : Nat) : Option Nat :=
  (upto (33 - n)).find? fun b => (upto n).all fun i => decide ((bankOf s cid (b + i)).state = .free)

/-- Set the elements of a bank to +0.0. -/
def zeroBank (s : State) (cid b : Nat) : State :=
  s.modCu cid fun u => { u with am := u.am.filter (fun e => e.1 / 1024 != b), amBad := u.amBad.filter fun e => e.1 / 512 != b }

/-- AMALLOC (R216). -/
def amallocEff (d : BitVec 7) (n : Nat) (s : State) (w : Wx) : Eff :=
  let act := w.act s
  let g := w.grpId / 16
  let cid := (s.wg g).cid
  if (s.wg g).hdr.ambanks < banksHeld s g + n then allFail w.b.tids 2
  else
    let out := fun (v : Nat) (s' : State) => writeOuts s' w (.r d) (act.map fun t => { tid := t, val := v }) (w.label s)
    match freeRun s cid n with
    | none => .done (out 0xFFFFFFFF s)
    | some b => .done (out b ((upto n).foldl (fun s i => (zeroBank s cid (b + i)).modBank cid (b + i) fun _ => { state := .held g }) s))

/-- AMALLOC (R216). -/
def execAmalloc (g : BitVec 4) (d n : BitVec 7) (s : State) : Out := runWord (.amalloc g d n) s (amallocEff d n.toNat)

/-- AMFREE or AMZERO acts on a bank (R217). -/
def bankAct (s : State) (cid b w : Nat) (zero : Bool) (l : Label) : State :=
  if zero then (zeroBank s cid b).modBank cid b fun k => { k with state := .held w, label := l }
  else s.modBank cid b fun k => { k with state := .free }

/-- AMFREE and AMZERO: banks that no operation writes at once, the others when they are free of it; the group waits (R217). -/
def bankEff (v : BitVec 7) (n : Nat) (zero : Bool) (s : State) (w : Wx) : Eff :=
  let act := w.act s
  let gid := w.grpId
  let g := gid / 16
  let cid := (s.wg g).cid
  match minOf act with
  | none => .done s
  | some low =>
    let c := readReg s low v.toNat
    if c.poison then allFail act 0x12
    else
      let l := (s.grp gid).ctx ||| fieldLabel s gid v.toNat
      let bs := ((upto n).map (c.val.toNat + ·)).filter fun b => decide (b < 32) && bankHolder (bankOf s cid b).state == some g
      let busy := bs.filter (mxWrites s cid)
      let s1 := (bs.filter fun b => !mxWrites s cid b).foldl (fun s b => bankAct s cid b g zero l) s
      if busy.isEmpty then .done s1
      else .gone (busy.foldl (fun s b => s.modBank cid b fun k => { k with waits := k.waits ++ [{ zero := zero, label := l, gid := gid }] }) (parkBundle s1 w))

/-- AMFREE (R217). -/
def execAmfree (g : BitVec 4) (v n : BitVec 7) (s : State) : Out := runWord (.amfree g v n) s (bankEff v n.toNat false)
/-- AMZERO (R217). -/
def execAmzero (g : BitVec 4) (v n : BitVec 7) (s : State) : Out := runWord (.amzero g v n) s (bankEff v n.toNat true)

/-- AM_BANK_RELEASE: the oldest wait of a bank acts once no operation in flight writes it; a group with no wait left goes on
(R217). -/
def execAmBankRelease (cid bank : Nat) (s : State) : Out :=
  .next (match (bankOf s cid bank).waits with
    | [] => s
    | x :: r =>
      if mxWrites s cid bank then s
      else
        let s1 := s.modBank cid bank fun k => { k with waits := r }
        let w := x.gid / 16
        let s2 := if bankHolder (bankOf s cid bank).state = some w then bankAct s1 cid bank w x.zero x.label else s1
        if bankWaits s2 x.gid then s2 else passParked s2 x.gid)

/-- An element address of a lane (R215): CU, bank, row, column. -/
def amAddr (s : State) (t : Nat) (v : Nat) : Nat × Nat × Nat × Nat := (s.cidOf t / 8 * 8 + bits v 15 3, bits v 10 5, bits v 7 3, bits v 0 7)

/-- The tile row lies in the band of a position: bands divide M rows by n, the first M mod n one longer (R218). -/
def inBand (m n pos row : Nat) : Bool :=
  let lo := fun (p : Nat) => p * (m / n) + min p (m % n)
  decide (lo pos ≤ row ∧ row < lo (pos + 1))

/-- May a thread's group reach an element: yes, no (+0.0 or dropped), or out of its band (R218). -/
def amAccess (s : State) (t cid b row : Nat) : Option Bool :=
  let g := s.grp (gidOf t)
  match (bankOf s cid b).state with
  | .free => some false
  | .held w => some (decide (w = wgOf t))
  | .tagged w key n b0 first m =>
    if g.conjKey = key ∧ g.conjN.toNat = n ∧ n ≠ 0 ∧ (s.wg w).launch = (s.wg (wgOf t)).launch then
      if inBand m n g.conjPos.toNat (first + 8 * (b - b0) + row) then some true else none
    else some false

/-- The failures of the lanes of AMRD and AMWR (R218, R219). -/
def amFails (s : State) (srcs : List Opnd) (a : BitVec 7) (t : Nat) : List Fail :=
  let x := amAddr s t (readReg s t a.toNat).val.toNat
  (if srcs.any fun o => anyPoison (readOpnd s t o) then [({ tid := t, cause := 0x12 } : Fail)] else []) ++
  (if (amAccess s t x.1 x.2.1 x.2.2.1).isNone then [{ tid := t, cause := 0x0F }] else [])

/-- Set sr.amstat.unalloc in lanes that reached no bank of theirs (R218). -/
def noteUnalloc (s : State) (a : BitVec 7) (ts : List Nat) : State :=
  (ts.filter fun t => let x := amAddr s t (readReg s t a.toNat).val.toNat; amAccess s t x.1 x.2.1 x.2.2.1 == some false).foldl
    (fun s t => s.modThr t fun x => { x with unalloc := true }) s

/-- The element lies in a failed grain (R412). -/
def amFailed (s : State) (x : Nat × Nat × Nat × Nat) : Bool := sget false (s.cu x.1).amBad (amKey x.2.1 x.2.2.1 x.2.2.2 / 2)

/-- The failed grains that lanes of AMRD read are counted (R431). -/
def countAm (s : State) (vf : Nat) (a : BitVec 7) (ts : List Nat) : State :=
  (dedup (ts.filterMap fun t =>
    let x := amAddr s t (readReg s t a.toNat).val.toNat
    if (amAccess s t x.1 x.2.1 x.2.2.1 == some true) && amFailed s x then some (x.1 * 16384 + amKey x.2.1 x.2.2.1 x.2.2.2 / 2) else none)).foldl
    (fun s _ => countMedia s vf) s

/-- A lane of AMRD: read in program order, at issue (R218, R219). -/
def amrdLane (s : State) (a : BitVec 7) (t : Nat) : Access :=
  let x := amAddr s t (readReg s t a.toNat).val.toNat
  let ok := amAccess s t x.1 x.2.1 x.2.2.1 == some true
  { kind := .amRead, tid := t, stage := .returned
    result := [{ val := if ok then sget 0 (s.cu x.1).am (amKey x.2.1 x.2.2.1 x.2.2.2) else 0, poison := ok && amFailed s x }]
    resLabel := if ok then (bankOf s x.1 x.2.1).label else 0 }

/-- AMRD (R218). -/
def amrdEff (d a : BitVec 7) (s : State) (w : Wx) : Eff :=
  let act := w.act s
  if kindFull s .amRead act then .hold s
  else match (act.map (amFails s [.r a] a)).flatten with
    | [] => .done (issueLanes (countAm (noteUnalloc s a act) w.vf a act) w (some (.r d)) fun t => amrdLane s a t)
    | bad => .fail bad

/-- AMRD (R218). -/
def execAmrd (g : BitVec 4) (d a : BitVec 7) (s : State) : Out := runWord (.amrd g d a) s (amrdEff d a)

/-- A lane of AMWR (R218, R219). -/
def amwrLane (s0 : State) (w : Wx) (v a : BitVec 7) (s : State) (t : Nat) : State :=
  let x := amAddr s0 t (readReg s0 t a.toNat).val.toNat
  if amAccess s0 t x.1 x.2.1 x.2.2.1 == some true then
    (s.modCu x.1 fun u => { u with am := sset 0 u.am (amKey x.2.1 x.2.2.1 x.2.2.2) (readReg s0 t v.toNat).val }).modBank x.1 x.2.1 fun b =>
      { b with label := b.label ||| w.label s0 (gidOf t) }
  else s

/-- AMWR (R218). -/
def amwrEff (v a : BitVec 7) (s : State) (w : Wx) : Eff :=
  let act := w.act s
  match (act.map (amFails s [.r v, .r a] a)).flatten with
  | [] => .done (noteUnalloc ((sortLanes act).foldl (amwrLane s w v a) s) a act)
  | bad => .fail bad

/-- AMWR (R218). -/
def execAmwr (g : BitVec 4) (v a : BitVec 7) (s : State) : Out := runWord (.amwr g v a) s (amwrEff v a)

end Sys2Proof.Machine
end

