-- ==== Sys2Proof/Machine/Admit.lean ====
section
/-! DEFINITION. The device's own accesses for a context, and admission: the checks of launch records, kernel headers, ring
tables, levels and fit (R253, R254, R259 to R263, R292, R293, R343, R344). -/

namespace Sys2Proof.Machine

/-! The device's own accesses (queues, records, status words). -/

/-- A number that no launch has: the device's own accesses are no launch's. -/
def noLaunch : Nat := 2 ^ 64

/-- Why a step of the device cannot be taken now: a pin refuses an access of it (R288), a page waits for a frame or is frozen (R355,
R358), or nothing can be done. -/
inductive DevStop where
  | pin (line : Nat)
  | page (vf va : Nat) (wr : Bool)
  | held
  deriving DecidableEq, Repr

/-- What a step of the device answers. -/
abbrev Dev (α : Type) := Except DevStop α

/-- What a step leaves that cannot be taken: the wait on a pin is noted, and the first access to a page without a frame is reported
(R288, R355). -/
def devWaits (s : State) : DevStop → State
  | .pin line => noteWait s [] line .engine
  | .page vf va wr => match rangeOf s vf (d64 va) with
    | none => s
    | some (_, r) => match memSide s vf (s.ctx vf).dom (spaceOf r) r (iaOf r (d64 va)) wr 0 with
      | .retry s' => s'
      | .ok _ | .refused _ => s
  | .held => s

/-- The state after a step of the device, taken or not. -/
def devStep (s : State) : Dev State → State
  | .ok s' => s'
  | .error e => devWaits s e

/-- Every 64 KiB unit of a span lies in a range that satisfies a condition. -/
def spanAll (s : State) (vf va n : Nat) (p : List DWord → Bool) : Bool :=
  (spanPoints va n 65536).all fun a => match rangeOf s vf (d64 a) with
    | some (_, r) => p r
    | none => false

/-- A byte at a VA, as its home holds it. -/
def vaByte (s : State) (vf va : Nat) : Byte :=
  match rangeOf s vf (d64 va) with
  | some (_, r) => sget 0 (s.store (spaceOf r)) (iaOf r (d64 va))
  | none => 0

/-- Bytes at a VA. -/
def vaBytes (s : State) (vf va n : Nat) : List Byte := (upto n).map fun i => vaByte s vf (va + i)

/-- The device is about to read part of a line: a pin makes it wait, and so does a page that has no frame (R288, R354, R355). -/
def touchLine (s : State) (vf va : Nat) : Dev State :=
  match rangeOf s vf (d64 va) with
  | none => .ok s
  | some (_, r) =>
    if !permR r then .ok s
    else if !(pinHolders s (lineOf (spaceOf r) (iaOf r (d64 va)))).isEmpty then .error (.pin (lineOf (spaceOf r) (iaOf r (d64 va))))
    else match memSide s vf (s.ctx vf).dom (spaceOf r) r (iaOf r (d64 va)) false 0 with
      | .ok s' => .ok s'
      | .retry _ => .error (.page vf va false)
      | .refused _ => .ok s

/-- The lines of a span before the device reads it. -/
def devTouch (s : State) (vf va n : Nat) : Dev State :=
  (spanPoints va n 64).foldl (fun o a => o.bind fun s => touchLine s vf a) (.ok s)

/-- The label of the pages of a span. -/
def spanLabel (s : State) (vf va n : Nat) : Label := orAll ((spanPoints va n 65536).map (vaLabel s vf))

/-- The memory side lets the device read a span for the context. -/
def devReadable (s : State) (vf va n : Nat) : Bool :=
  (spanPoints va n 65536).all fun a => match rangeOf s vf (d64 a) with
    | none => false
    | some (_, r) => permR r && match memSide s vf (s.ctx vf).dom (spaceOf r) r (iaOf r (d64 a)) false 0 with
      | .refused _ => false
      | .ok _ | .retry _ => true

/-- A store of the device at a VA of the context, with its write-completion time; dropped where the address is not writable or the memory
side refuses it. -/
def devWriteAt (s : State) (vf va : Nat) (bs : List Byte) (l : Label) : Dev (State × DWord) :=
  match rangeOf s vf (d64 va) with
  | none => .ok (s, s.now)
  | some (_, r) =>
    let ia := iaOf r (d64 va)
    if !permits { wr := true } r then .ok (s, s.now)
    else if !(pinHolders s (lineOf (spaceOf r) ia)).isEmpty then .error (.pin (lineOf (spaceOf r) ia))
    else match memSide s vf (s.ctx vf).dom (spaceOf r) r ia true l with
      | .ok s1 => .ok (performStore s1 vf noLaunch (s.ctx vf).dom (spaceOf r) ia bs l)
      | .retry _ => .error (.page vf va true)
      | .refused _ => .ok (s, s.now)

/-- The state after a store of the device. -/
def devWrite (s : State) (vf va : Nat) (bs : List Byte) (l : Label) : Dev State := (devWriteAt s vf va bs l).map (·.1)

/-- A number at an offset of a record. -/
def recN (bs : List Byte) (off n : Nat) : Nat := leNat ((bs.drop off).take n)

/-! The launch record (R259, R260). -/

/-- Level entries. -/
def levelsOf (bs : List Byte) : List Level := (upto 8).map fun k =>
  let b := recN bs (0x84 + 16 * k) 1
  { count := recN bs (0x80 + 16 * k) 4, cores := bit b 7, scope := bits b 4 3, domain := bits b 0 3 }

/-- An illegal level entry. -/
def levelBad (bs : List Byte) (nlev k : Nat) : Bool :=
  if nlev < k then decide (recN bs (0x80 + 16 * k) 16 ≠ 0)
  else
    let b := recN bs (0x84 + 16 * k) 1
    decide (recN bs (0x80 + 16 * k) 4 = 0) || decide (4 < bits b 4 3) || decide (4 < bits b 0 3) || bit b 3 ||
      decide (recN bs (0x85 + 16 * k) 11 ≠ 0)

/-- A launch as its record says (R259). -/
def parseRecord (vf q seq : Nat) (slot : DWord) (bad : Bool) (label : Label) (bs : List Byte) : Launch :=
  let m := recN bs 0x10 8
  { vf := vf, queue := q, seq := seq, slot := slot, slotBad := bad, label := label, record := bs
    args := d64 (recN bs 0x08 6), status := d64 (recN bs 0x18 6), prio := bits m 4 3, nlev := bits m 16 3, screen := bits m 32 16
    replay := bit m 11, paired := bit m 10, ckpt := bit m 9, det := bit m 8
    clear := BitVec.ofNat 256 (recN bs 0x20 32), wait := BitVec.ofNat 256 (recN bs 0x40 32), set := BitVec.ofNat 256 (recN bs 0x60 32)
    levels := levelsOf bs }

/-- Code 0x01: reserved bits, illegal fields, another queue, a priority above the queue's level, a determinism block that is
missing or misaligned (R259, R336, R343). -/
def recordBad (s : State) (la : Launch) : Bool :=
  let bs := la.record
  let m := recN bs 0x10 8
  decide (recN bs 0x06 2 ≠ 0) || decide (recN bs 0x0E 2 ≠ 0) || decide (recN bs 0x1E 2 ≠ 0) ||
  decide (bits m 48 16 ≠ 0) || decide (bits m 19 13 ≠ 0) || decide (bits m 12 4 ≠ 0) || bit m 7 ||
  decide (la.status.toNat % 8 ≠ 0) ||
  (upto 8).any (levelBad bs la.nlev) ||
  decide (bits m 0 4 ≠ la.queue) ||
  decide (bits ((tfind (s.ctx la.vf).queues la.queue).getD {}).w1.toNat 48 3 < la.prio) ||
  (la.det && (decide (la.status = 0) || decide (la.status.toNat % 64 ≠ 0)))

/-! The kernel header (R253, R254, R292, R293). -/

/-- A role entry. -/
def roleOf (hb : List Byte) (r : Nat) : Role :=
  let e := recN hb (0x40 + 16 * r) 8
  let m := recN hb (0x48 + 16 * r) 8
  { entry := d64 (bits e 0 48), threads := if bits m 32 6 = 0 then 64 else bits m 32 6, retdepth := bits m 24 5, groups := bits m 16 5
    oregs := bits m 8 5, vregs := 8 * (bits m 4 4 + 1), kind := bits m 0 2 }

/-- An illegal role entry. -/
def roleBad (hb : List Byte) (r : Nat) : Bool :=
  let e := recN hb (0x40 + 16 * r) 8
  let m := recN hb (0x48 + 16 * r) 8
  decide (bits e 48 16 ≠ 0) || decide (e % 4 ≠ 0) || decide (bits m 38 26 ≠ 0) || decide (bits m 29 3 ≠ 0) || decide (16 < bits m 24 5) ||
  decide (bits m 21 3 ≠ 0) || decide (bits m 16 5 = 0 ∨ 16 < bits m 16 5) || decide (bits m 13 3 ≠ 0) || decide (16 < bits m 8 5) ||
  decide (11 < bits m 4 4) || decide (bits m 2 2 ≠ 0) || decide (bits m 0 2 = 3)

/-- A ring descriptor (R292). -/
def descOf (d : Nat) : RingDesc :=
  { copy := bit d 31, inbound := bit d 30, n := bits d 22 8 + 1, log := bits d 18 4 + 4, base := bits d 6 12 * 64 }

/-- The bytes a ring takes of scratchpad: a copy ring 16 more (R293). -/
def ringLen (d : RingDesc) : Nat := d.n * 2 ^ d.log + if d.copy then 16 else 0

/-- A kernel header with its ring table. -/
def parseHeader (hb rt : List Byte) : Header :=
  let w := recN hb 0x04 4
  { rings := bits w 24 5, barriers := bits w 16 5, ambanks := bits w 8 6, spad := bits w 0 7, tvec := d64 (recN hb 0x08 8)
    textab := d64 (recN hb 0x18 8), samptab := d64 (recN hb 0x20 8), astab := d64 (recN hb 0x28 8)
    roles := (upto (min 4 (recN hb 0 1 % 8))).map (roleOf hb), descs := (upto (bits w 24 5)).map fun r => descOf (recN rt (8 * r) 8) }

/-- A kernel header of a context at a VA. -/
def headerAt (s : State) (vf va : Nat) : Header :=
  let hb := vaBytes s vf va 128
  parseHeader hb (vaBytes s vf (recN hb 0x10 8 % 2 ^ 48) 128)

/-- Two rings of a list meet. -/
def ringsMeet : List RingDesc → Bool
  | [] => false
  | d :: r => r.any (fun e => spansMeet d.base (ringLen d) e.base (ringLen e)) || ringsMeet r

/-- The ring table breaks R292 or R293. -/
def ringsBad (h : Header) (rt : List Byte) : Bool :=
  let raw := (upto 16).map fun r => recN rt (8 * r) 8
  ((raw.take h.rings).any fun d => decide (bits d 32 32 ≠ 0) || decide (bits d 0 6 ≠ 0) || decide (12 < bits d 18 4)) ||
  ((raw.drop h.rings).any fun d => decide (d ≠ 0)) ||
  (h.descs.any fun d => decide (h.spad * 4096 < d.base + ringLen d) || (d.copy && (d.inbound || decide (d.log ≠ 6)))) ||
  ringsMeet h.descs || decide (1 < (h.descs.filter (·.copy)).length)

/-- The instruction word at a VA, as the device reads it at its home, where the context may execute. -/
def codeWord (s : State) (vf : Nat) (va : DWord) : Option Instr :=
  match rangeOf s vf va with
  | none => none
  | some (_, r) =>
    if !permX r then none
    else match decode (w32 (leNat (vaBytes s vf va.toNat 4))) with
      | .ok i => some i
      | .error _ => none

/-- Code 0x02: the header breaks R253, R254 or R293, or an entry's preceding word is no PERIOD (R262). -/
def headerBad (s : State) (vf va : Nat) : Bool :=
  let hb := vaBytes s vf va 128
  let h := headerAt s vf va
  let w := recN hb 0x04 4
  let n := recN hb 0 1 % 8
  decide (va % 128 ≠ 0) || decide (recN hb 2 2 ≠ 0x4B48) || decide (recN hb 1 1 ≠ 1) || decide (bits (recN hb 0 1) 3 5 ≠ 0) || decide (n = 0 ∨ 4 < n) ||
  decide (bits w 29 3 ≠ 0) || decide (bits w 21 3 ≠ 0) || decide (bits w 14 2 ≠ 0) || bit w 7 ||
  decide (16 < h.rings) || decide (16 < h.barriers) || decide (32 < h.ambanks) || decide (64 < h.spad) ||
  decide (h.tvec.toNat % 4 ≠ 0) || ((upto 5).any fun i => decide (recN hb (0x0E + 8 * i) 2 ≠ 0)) ||
  (decide (h.rings = 0) && decide (recN hb 0x10 8 ≠ 0)) || decide (recN hb 0x30 16 ≠ 0) ||
  (upto n).any (roleBad hb) || decide (recN hb (0x40 + 16 * n) (16 * (4 - n)) ≠ 0) ||
  (decide (h.rings ≠ 0) && ringsBad h (vaBytes s vf (recN hb 0x10 8 % 2 ^ 48) 128)) ||
  ((h.roles.any fun r => decide (r.kind = 2)) && !(h.descs.any (·.copy))) ||
  h.roles.any fun r => !isPeriod (codeWord s vf (r.entry - 4))

/-- The device reads a kernel header: the header, its ring table, the words before its entries and at them (R262). -/
def headerTouch (s : State) (vf va : Nat) : Dev State :=
  (devTouch s vf va 128).bind fun s =>
    let h := headerAt s vf va
    (if h.rings = 0 then .ok s else devTouch s vf (recN (vaBytes s vf va 128) 0x10 8 % 2 ^ 48) 128).bind fun s =>
      h.roles.foldl (fun o r => o.bind fun s => (devTouch s vf (r.entry - 4).toNat 4)) (.ok s)

/-- Code 0x06 for a header: itself, its ring table or an entry (R253, R262). -/
def headerFar (s : State) (vf va : Nat) : Bool :=
  let h := headerAt s vf va
  !spanAll s vf va 128 (fun r => permR r && !permW r) || !devReadable s vf va 128 ||
  (decide (h.rings ≠ 0) && !spanAll s vf (recN (vaBytes s vf va 128) 0x10 8 % 2 ^ 48) 128 permR) ||
  h.roles.any fun r => !spanAll s vf r.entry.toNat 4 permX

/-! Level shapes and fit (R260 to R262). -/

/-- The workgroups of a launch (R260). -/
def totalOf (la : Launch) : Nat := unitsOf la la.nlev

/-- The scope a domain needs at least (R261). -/
def domScope (d : Nat) : Nat := match d with | 0 | 1 => 0 | 2 => 1 | 3 => 2 | _ => 3

/-- The level's shape breaks R261. -/
def shapeBad (la : Launch) (groups k : Nat) : Bool :=
  let l := (la.levels[k]?).getD {}
  let p := (la.levels[k - 1]?).getD {}
  decide (2 ^ 40 ≤ unitsOf la k) || (decide (0 < k) && decide (l.domain < p.domain)) || decide (l.scope < domScope l.domain) ||
  (l.cores && decide (0 < k) && !p.cores) || (decide (l.domain = 0) && (decide (k ≠ 0) || decide (l.count ≠ 1) || decide (groups ≠ 1)))

/-- The sum of a field over a header's groups. -/
def groupSum (h : Header) (f : Role → Nat) : Nat := h.roles.foldl (fun n r => n + r.groups * f r) 0

/-- A workgroup fits an empty CU (R262). -/
def fitsEmpty (h : Header) : Bool :=
  decide (groupSum h (fun _ => 1) ≤ 16) && decide (groupSum h (·.vregs) ≤ 1536) && decide (groupSum h (·.oregs) ≤ 256) &&
  decide (h.spad ≤ 64) && decide (h.ambanks ≤ 32) && decide (h.rings ≤ 16)

end Sys2Proof.Machine
end

