-- ==== Sys2Proof/Machine/PassRec.lean ====
section
/-! DEFINITION. Render-pass and pipeline-state records, formats and conversions, keys, tiles and tile regions (R227, R367,
R370 to R374, R381, R382). -/

namespace Sys2Proof.Machine

/-! Formats (R373, R374). -/

/-- Bytes of an element of a render-target format; 0 for an illegal code. -/
def fmtBytes (f : Nat) : Nat :=
  match f with
  | 0x01 => 1 | 0x02 => 2 | 0x03 => 4 | 0x04 => 4 | 0x05 => 4 | 0x06 => 2 | 0x07 => 8 | 0x08 => 4 | 0x09 => 8 | 0x0A => 16 | 0x0B => 4
  | _ => 0

/-- The FP32 nearest to m / d, ties to even (R374). -/
def f32Ratio (m d : Nat) : Nat :=
  if m = 0 then 0
  else
    let q := m * 2 ^ 200 / d
    (f32.round {} (.num false (2 * q + ofBool (decide (m * 2 ^ 200 % d ≠ 0))) (-201) false)).1

/-- UNORM of n bits to FP32 (R374). -/
def unormF (n q : Nat) : Nat := f32Ratio q (2 ^ n - 1)

/-- A number rounded to an integer, ties to even: m · 2^e. -/
def rneInt (m : Nat) (e : Int) : Nat := (roundAt 0 false m e 0 false).1

/-- An FP32 value clamped to 0 to 1, as m · 2^e (R374): NaN gives 0. -/
def clamp01 (x : Nat) : Nat × Int :=
  match f32.value x with
  | .nan _ => (0, 0)
  | .inf s => if s then (0, 0) else (1, 0)
  | .fin s m e => if s then (0, 0) else if 0 ≤ e then (if m = 0 then (0, 0) else (1, 0)) else if 2 ^ (-e).toNat ≤ m then (1, 0) else (m, e)

/-- FP32 to UNORM of n bits (R374). -/
def fUnorm (n x : Nat) : Nat :=
  let c := clamp01 x
  rneInt (c.1 * (2 ^ n - 1)) c.2

/-- The sRGB curve's upper part at a code q of 8 bits, to the fifth power, as a fraction: ((q/255 + 0.055) / 1.055)^12. -/
def srgbPow (num den : Nat) : Nat × Nat := (((num * 1000 + 55 * den) : Nat) ^ 12, (1055 * den) ^ 12)

/-- The fifth root of a fraction below 1: the largest r with (r / 2^60)^5 at most it. -/
def rootFrom (a b : Nat) : Nat → Nat → Nat
  | 0, r => r
  | k + 1, r => rootFrom a b k (if (r + 2 ^ k) ^ 5 * b ≤ a * 2 ^ 300 then r + 2 ^ k else r)

/-- SRGB8 to FP32: the correctly rounded value of the standard transfer curve (R374). The root carries 60 fraction bits and a
sticky bit. -/
def srgbF (q : Nat) : Nat :=
  if q * 100000 ≤ 4045 * 255 then f32Ratio (q * 100) (255 * 1292)
  else
    let (a, b) := srgbPow q 255
    let r := rootFrom a b 61 0
    (f32.round {} (.num false (2 * r + ofBool (decide (r ^ 5 * b ≠ a * 2 ^ 300))) (-61) false)).1

/-- x · 255 on the curve lies above t + 1/2, for an FP32 x = m · 2^e in 0 to 1 (R374). -/
def srgbAbove (m : Nat) (e : Int) (t : Nat) : Bool :=
  let d := 2 ^ (-e).toNat
  if m * 10000000 ≤ 31308 * d then decide ((2 * t + 1) * 100 * d < m * 1292 * 255 * 2)
  else
    let (a, b) := srgbPow (2 * t + 1) 510
    decide (a * d ^ 5 < m ^ 5 * b)

/-- FP32 to SRGB8: the code nearest to 255 times the curve (R374). -/
def fSrgb (x : Nat) : Nat :=
  let c := clamp01 x
  if c = (1, 0) then 255 else ((upto 255).filter (srgbAbove c.1 c.2)).length

/-- The RGBA of an element (R373, R374): missing components read 0, a missing alpha 1. -/
def decodeTexel (f : Nat) (bs : List Byte) : List Nat :=
  let v := leNat bs
  let one := 0x3F800000
  match f with
  | 0x01 => [unormF 8 (bits v 0 8), 0, 0, one]
  | 0x02 => [unormF 8 (bits v 0 8), unormF 8 (bits v 8 8), 0, one]
  | 0x03 => (upto 4).map fun i => unormF 8 (bits v (8 * i) 8)
  | 0x04 => [srgbF (bits v 0 8), srgbF (bits v 8 8), srgbF (bits v 16 8), unormF 8 (bits v 24 8)]
  | 0x05 => [unormF 10 (bits v 0 10), unormF 10 (bits v 10 10), unormF 10 (bits v 20 10), unormF 2 (bits v 30 2)]
  | 0x06 => [unpackF f16 (bits v 0 16), 0, 0, one]
  | 0x07 => (upto 4).map fun i => unpackF f16 (bits v (16 * i) 16)
  | 0x08 => [bits v 0 32, 0, 0, one]
  | 0x09 => [bits v 0 32, bits v 32 32, 0, one]
  | 0x0A => (upto 4).map fun i => bits v (32 * i) 32
  | _ => [bits v 0 32, 0, 0, one]

/-- The element of an RGBA colour (R374). -/
def encodeTexel (f : Nat) (c : List Nat) : Nat :=
  let x := fun i => c.getD i 0
  let h := fun i => (cvtFF f32 f16 {} (x i)).1
  match f with
  | 0x01 => fUnorm 8 (x 0)
  | 0x02 => fUnorm 8 (x 0) + fUnorm 8 (x 1) * 2 ^ 8
  | 0x03 => fUnorm 8 (x 0) + fUnorm 8 (x 1) * 2 ^ 8 + fUnorm 8 (x 2) * 2 ^ 16 + fUnorm 8 (x 3) * 2 ^ 24
  | 0x04 => fSrgb (x 0) + fSrgb (x 1) * 2 ^ 8 + fSrgb (x 2) * 2 ^ 16 + fUnorm 8 (x 3) * 2 ^ 24
  | 0x05 => fUnorm 10 (x 0) + fUnorm 10 (x 1) * 2 ^ 10 + fUnorm 10 (x 2) * 2 ^ 20 + fUnorm 2 (x 3) * 2 ^ 30
  | 0x06 => h 0
  | 0x07 => h 0 + h 1 * 2 ^ 16 + h 2 * 2 ^ 32 + h 3 * 2 ^ 48
  | 0x08 => x 0
  | 0x09 => x 0 + x 1 * 2 ^ 32
  | 0x0A => x 0 + x 1 * 2 ^ 32 + x 2 * 2 ^ 64 + x 3 * 2 ^ 96
  | _ => x 0

/-! The render-pass record (R370). -/

/-- Render targets. -/
def Pass.ntargets (p : Pass) : Nat := bits (recN p.record 0x08 4) 0 4
/-- The entry of a target: VA, format, load, store, pitch. -/
def Pass.tva (p : Pass) (t : Nat) : Nat := recN p.record (0x60 + 16 * t) 6
/-- The format of a target. -/
def Pass.tfmt (p : Pass) (t : Nat) : Nat := recN p.record (0x66 + 16 * t) 1
/-- The load field of a target. -/
def Pass.tload (p : Pass) (t : Nat) : Nat := bits (recN p.record (0x67 + 16 * t) 1) 0 2
/-- The store field of a target. -/
def Pass.tstore (p : Pass) (t : Nat) : Nat := bits (recN p.record (0x67 + 16 * t) 1) 2 2
/-- The pitch of a target. -/
def Pass.tpitch (p : Pass) (t : Nat) : Nat := recN p.record (0x68 + 16 * t) 4
/-- The depth plane is present. -/
def Pass.dep (p : Pass) : Bool := bit (recN p.record 0x08 4) 4
/-- The stencil plane is present. -/
def Pass.sten (p : Pass) : Bool := bit (recN p.record 0x08 4) 5
/-- Depth and stencil load. -/
def Pass.dload (p : Pass) : Nat := bits (recN p.record 0x08 4) 6 2
/-- Depth and stencil store. -/
def Pass.dstore (p : Pass) : Nat := bits (recN p.record 0x08 4) 8 2
/-- Nodes of the list pool. -/
def Pass.nodes (p : Pass) : Nat := recN p.record 0x48 4
/-- The default budget: 0 is read as 1. -/
def Pass.dbudget (p : Pass) : Nat := max 1 (bits (recN p.record 0x4C 1) 0 4)
/-- The default merge rule: word 1 of a head. -/
def Pass.drule (p : Pass) : Nat := bits (recN p.record 0x4C 1) 4 2 + 4 * bits (recN p.record 0x4C 1) 6 1
/-- Fragments of a tile-work unit. -/
def Pass.tilework (p : Pass) : Nat := recN p.record 0x14 2
/-- The samples a key distinguishes (R227). -/
def Pass.keySamples (p : Pass) : Nat := if p.perSample then p.samples else 1
/-- Tiles in a row of tiles. -/
def Pass.tilesX (p : Pass) : Nat := (p.width + 31) / 32
/-- Tiles of the pass. -/
def Pass.ntiles (p : Pass) : Nat := p.tilesX * ((p.height + 31) / 32)
/-- The tile of a pixel. -/
def Pass.tileAt (p : Pass) (x y : Nat) : Nat := y / 32 * p.tilesX + x / 32
/-- Keys of the pass, or of a tile in tile mode (R382). -/
def Pass.keys (p : Pass) : Nat := if p.tileMode then 1024 * p.samples else p.width * p.height * p.samples

/-- The bytes of a tile region (R371). -/
def Pass.regionBytes (p : Pass) : Nat :=
  let s := 1024 * p.samples
  (upto p.ntargets).foldl (fun n t => n + s * fmtBytes (p.tfmt t)) 0 + (if p.dep then 4 * s else 0) + (if p.sten then s else 0) +
  if p.lists then 8 * s + 20 * p.nodes else 0

/-- A pass as its record says (R370). -/
def parsePass (vf q : Nat) (label : Label) (rec : List Byte) (rh : Header) : Pass :=
  let b := recN rec 0 1
  { vf := vf, queue := q, record := rec, width := recN rec 0x04 2, height := recN rec 0x06 2, samples := 2 ^ bits b 0 3
    tileMode := bit b 7, perSample := bit b 6, lists := bit b 3, label := label, resolveHdr := rh }

/-- The record breaks R370, R382 or R394: reserved bits, illegal fields, a node count out of bounds, list fields without lists. -/
def passBad (rec : List Byte) : Bool :=
  let b := recN rec 0 1
  let c := recN rec 0x08 4
  let p := parsePass 0 0 0 rec {}
  let n := bits c 0 4
  decide (recN rec 2 2 ≠ 0x5250) || decide (recN rec 1 1 ≠ 1) || decide (bits b 4 2 ≠ 0) || decide (3 < bits b 0 3) ||
  decide (p.width = 0 ∨ 16384 < p.width) || decide (p.height = 0 ∨ 16384 < p.height) ||
  decide (bits c 10 22 ≠ 0) || decide (1 < bits c 8 2) || decide (bits c 6 2 = 3) || decide (8 < n) ||
  decide (recN rec 0x11 3 ≠ 0) || decide (recN rec 0x16 2 ≠ 0) || decide (p.tilework = 0) ||
  ([0x18, 0x20, 0x28, 0x30, 0x38, 0x40, 0x50].any fun o => decide (recN rec (o + 6) 2 ≠ 0)) ||
  decide (recN rec 0x18 6 % 4 ≠ 0) || ([0x38, 0x40, 0x50].any fun o => decide (recN rec o 6 % 16 ≠ 0)) ||
  decide (bits (recN rec 0x4C 4) 7 25 ≠ 0) || decide (recN rec 0x58 8 ≠ 0) || decide (recN rec 0xF0 16 ≠ 0) ||
  ((upto 8).any fun t =>
    if n ≤ t then decide (recN rec (0x60 + 16 * t) 16 ≠ 0)
    else decide (p.tva t % 16 ≠ 0) || decide (fmtBytes (p.tfmt t) = 0) || decide (p.tload t = 3) || decide (1 < p.tstore t) ||
      decide (bits (recN rec (0x67 + 16 * t) 1) 4 4 ≠ 0) || decide (p.tpitch t % 16 ≠ 0) || decide (recN rec (0x6C + 16 * t) 4 ≠ 0)) ||
  if p.lists then decide (p.nodes < p.keys) || decide (2 ^ 24 - 1 < p.nodes)
  else ([0x38, 0x40, 0x50].any fun o => decide (recN rec o 6 ≠ 0)) || decide (recN rec 0x48 5 ≠ 0)

/-! The pipeline-state record (R372), as its 128 bytes. -/

/-- The record breaks R372. -/
def psrBad (r : List Byte) : Bool :=
  let f := recN r 0x48 4
  decide (recN r 2 2 ≠ 0x5053) || decide (recN r 1 1 ≠ 1) || decide (bits (recN r 0 1) 0 3 ≠ 0) ||
  decide (recN r 0x04 2 % 4 ≠ 0) || decide (32 < bits (recN r 0x06 2) 0 6) || decide (recN r 0x04 2 < 16 + 4 * bits (recN r 0x06 2) 0 6) ||
  decide (bits (recN r 0x06 2) 6 10 ≠ 0) || ([0x08, 0x10, 0x18, 0x20].any fun o => decide (recN r (o + 6) 2 ≠ 0)) ||
  decide (bits f 18 14 ≠ 0) || decide (recN r 0x4F 1 ≠ 0) || decide (recN r 0x78 8 ≠ 0) ||
  (upto 8).any fun t =>
    let b := recN r (0x50 + 4 * t) 4
    bit b 31 || [1, 6, 14, 19].any (fun o => decide (14 < bits b o 5)) || [11, 24].any fun o => decide (4 < bits b o 3)

/-- The pipeline-state record of a draw. -/
def Launch.psrec (la : Launch) : List Byte := la.draw.drop 32
/-- The draw registers its fragments with the clause scoreboard. -/
def Launch.clause (la : Launch) : Bool := bit (recN la.psrec 0 1) 7
/-- Tests at the fragment's end. -/
def Launch.late (la : Launch) : Bool := bit (recN la.psrec 0 1) 6
/-- Attribute slots. -/
def Launch.nattr (la : Launch) : Nat := bits (recN la.psrec 0x06 2) 0 6
/-- The launch is a draw. -/
def Launch.isDraw (la : Launch) : Bool := la.pass.isSome

/-! Keys (R227, R381). -/

/-- The pixel key of a fragment. -/
def fragKey (f : Frag) : Nat := f.x + f.y * 2 ^ 14 + f.sample * 2 ^ 28

/-- The pixel of a key: x, y, sample. -/
def keyOf (v : Nat) : Nat × Nat × Nat := (bits v 0 14, bits v 14 14, bits v 28 3)

/-- The key lies in the render target. -/
def keyIn (p : Pass) (k : Nat × Nat × Nat) : Bool := decide (k.1 < p.width ∧ k.2.1 < p.height ∧ k.2.2 < p.keySamples)

/-- The linear index of a key (R381). -/
def keyIndex (p : Pass) (k : Nat × Nat × Nat) : Nat :=
  if p.tileMode then (k.2.1 % 32 * 32 + k.1 % 32) * p.samples + k.2.2 else (k.2.1 * p.width + k.1) * p.samples + k.2.2

/-! Where samples lie: memory, or the region of a tile (R370, R371). The model numbers a region's bytes: target t from
t · 2^20, depth from 8 · 2^20, stencil from 9 · 2^20, heads from 10 · 2^20, sequences from 11 · 2^20, nodes from 2^24. -/

/-- The VA of a sample of a target. -/
def targetVa (p : Pass) (t x y s : Nat) : Nat := p.tva t + y * p.tpitch t + (x * p.samples + s) * fmtBytes (p.tfmt t)

/-- A place that holds pass data: a VA, or an offset of a tile's region. -/
inductive Place where
  | va (a : Nat)
  | region (tile off : Nat)
  deriving DecidableEq, Repr

/-- The index of a sample of a pixel in its tile. -/
def inTile (p : Pass) (x y s : Nat) : Nat := (y % 32 * 32 + x % 32) * p.samples + s

/-- A sample of a target. -/
def targetPlace (p : Pass) (t x y s : Nat) : Place :=
  if p.tileMode then .region (p.tileAt x y) (t * 2 ^ 20 + inTile p x y s * fmtBytes (p.tfmt t)) else .va (targetVa p t x y s)

/-- The VA of a depth sample. -/
def depthVa (p : Pass) (x y s : Nat) : Nat := recN p.record 0x18 6 + 4 * ((y * p.width + x) * p.samples + s)
/-- The VA of a stencil sample. -/
def stencilVa (p : Pass) (x y s : Nat) : Nat := recN p.record 0x20 6 + ((y * p.width + x) * p.samples + s)
/-- A depth sample. -/
def depthPlace (p : Pass) (x y s : Nat) : Place :=
  if p.tileMode then .region (p.tileAt x y) (8 * 2 ^ 20 + 4 * inTile p x y s) else .va (depthVa p x y s)
/-- A stencil sample. -/
def stencilPlace (p : Pass) (x y s : Nat) : Place :=
  if p.tileMode then .region (p.tileAt x y) (9 * 2 ^ 20 + inTile p x y s) else .va (stencilVa p x y s)

/-- The head of a key's list (R381). -/
def headPlace (p : Pass) (tile i : Nat) : Place :=
  if p.tileMode then .region tile (10 * 2 ^ 20 + 8 * i) else .va (recN p.record 0x38 6 + 8 * i)
/-- A node (R382). -/
def nodePlace (p : Pass) (tile i : Nat) : Place :=
  if p.tileMode then .region tile (2 ^ 24 + 16 * i) else .va (recN p.record 0x40 6 + 16 * i)
/-- The sequence of a node. -/
def seqPlace (p : Pass) (tile i : Nat) : Place :=
  if p.tileMode then .region tile (11 * 2 ^ 20 + 4 * i) else .va (recN p.record 0x50 6 + 4 * i)

/-- The part of a region whose label a place shares: planes, heads, the pool pages of 256 nodes (R382). -/
def regionPart (off : Nat) : Nat := if off < 10 * 2 ^ 20 then 0 else if off < 2 ^ 24 then 1 else 2 + (off - 2 ^ 24) / 4096

/-- Change a tile of a pass. -/
def State.modTile (s : State) (p tile : Nat) (f : TileState → TileState) : State :=
  s.modPass p fun q => { q with tiles := tmod q.tiles tile f }

/-- A tile of a pass. -/
def Pass.tile (p : Pass) (tile : Nat) : TileState := (tfind p.tiles tile).getD {}

/-- Bytes of a place, and their label. -/
def placeRead (s : State) (p : Pass) (pl : Place) (n : Nat) : List Byte × Label :=
  match pl with
  | .va a => (vaBytes s p.vf a n, spanLabel s p.vf a n)
  | .region t off => (readBytes (p.tile t).region off n, sget 0 (p.tile t).labels (regionPart off))

/-- A place is about to be read. -/
def placeTouch (s : State) (p : Pass) (pl : Place) (n : Nat) : Dev State :=
  match pl with
  | .va a => devTouch s p.vf a n
  | .region _ _ => .ok s

/-- Write bytes at a place, raising its label; with the write-completion time, which the pass keeps for its launches' ends (R263). -/
def placeWriteAt (s : State) (id : Nat) (pl : Place) (bs : List Byte) (l : Label) : Dev (State × DWord) :=
  match s.pass? id with
  | none => .ok (s, s.now)
  | some p => match pl with
    | .va a => (devWriteAt s p.vf a bs l).map fun x => (x.1.modPass id fun q => { q with wct := if q.wct < x.2 then x.2 else q.wct }, x.2)
    | .region t off => .ok (s.modTile id t fun x =>
        { x with region := writeBytes x.region off bs, labels := sset 0 x.labels (regionPart off) (sget 0 x.labels (regionPart off) ||| l) }, s.now)

/-- Write bytes at a place, raising its label. -/
def placeWrite (s : State) (id : Nat) (pl : Place) (bs : List Byte) (l : Label) : Dev State := (placeWriteAt s id pl bs l).map (·.1)

/-- The pass of a launch. -/
def passOf (s : State) (l : Nat) : Option (Nat × Pass) := (s.launch l).pass.bind fun p => (s.pass? p).map fun x => (p, x)

end Sys2Proof.Machine
end

