-- ==== Sys2Proof/Machine/Texture.lean ====
section
/-! DEFINITION. Texture reads: tables, addressing, sparse tiles, levels of detail, footprints; TEX and TEXQ (R221 to R223,
R289, R373, R386, R387). -/

namespace Sys2Proof.Machine

/-! Relaxed loads of a thread, under leases (R289). -/

/-- What a relaxed load of an engine answers: it waits, its bytes cannot be read, or the bytes; with the labels of what it met. -/
inductive LaneRead where
  | wait (s : State)
  | bad (s : State) (l : Label)
  | ok (s : State) (bs : List Byte) (l : Label)

/-- The thread of an access. -/
def threadOf (s : State) (acc : Nat) : Nat := ((tfind s.accs acc).map (·.tid)).getD 0

/-- A line as an access of a thread has it: the thread's own earlier stores over what it fetched (R158, R222, R291). -/
def ownLine (s : State) (t acc : Nat) (sp : Space) (base : Nat) (v : LineView) : LineView :=
  let f := forward s t acc sp base (v.part 0 64)
  { bytes := f.1.map (·.1), bad := (upto 8).filter fun i => ((f.1.drop (8 * i)).take 8).any (·.2), label := v.label ||| f.2 }

/-- The access holds a line it has read. -/
def keepLine (s : State) (acc va : Nat) (v : LineView) : State := s.modAcc acc fun a => { a with lines := tput a.lines (va / 64) v }

/-- The part of one line that an access of a thread reads: a line is read once, in a step of its own, as a relaxed load under a lease
(R158, R222, R275, R277, R279, R289). -/
def lineRead (s : State) (acc va n : Nat) : LaneRead :=
  let t := threadOf s acc
  let vf := s.vfOf (wgOf t)
  match ((tfind s.accs acc).map (·.lines)).bind fun l => tfind l (va / 64) with
  | some v =>
    let p := v.part (va % 64) n
    if p.any (·.2) then .bad s v.label else .ok s (p.map (·.1)) v.label
  | none => match rangeOf s vf (d64 va) with
    | none => .bad s 0
    | some (_, r) =>
      let sp := spaceOf r
      let ia := iaOf r (d64 va)
      let base := ia / 64 * 64
      if !permR r then .bad s 0
      else if atomWaits s acc { kind := .tex, tid := t, space := sp, ia := ia, width := n } then .wait s
      else match cachedLine s (s.cidOf t) (s.wg (wgOf t)).launch (s.grp (gidOf t)).dom sp r ia with
      | some v => .wait (keepLine s acc va (ownLine s t acc sp base v))
      | none => match fetchLine s (.acc acc) vf (s.grp (gidOf t)).dom (s.cidOf t) (s.wg (wgOf t)).launch sp r ia 0 false with
        | .wait s' => .wait s'
        | .refused _ => .bad s (vaLabel s vf va)
        | .ok s' v => .wait (keepLine s' acc va (ownLine s' t acc sp base v))

/-- Read spans one after another. -/
def readSpans (acc : Nat) : List (Nat × Nat) → State → List Byte → Label → LaneRead
  | [], s, bs, l => .ok s bs l
  | (va, n) :: r, s, bs, l => match lineRead s acc va n with
    | .ok s' b l' => readSpans acc r s' (bs ++ b) (l ||| l')
    | .bad s' l' => .bad s' (l ||| l')
    | .wait s' => .wait s'

/-- The parts of a span by lines. -/
def lineParts (va n : Nat) : List (Nat × Nat) :=
  (spanPoints va n 64).map fun a => (a, min (a / 64 * 64 + 64) (va + n) - a)

/-- The relaxed load of n bytes by an access of a thread. -/
def laneRead (s : State) (acc va n : Nat) : LaneRead := readSpans acc (lineParts va n) s [] 0

/-! Texture and sampler entries (R386). -/

/-- A texture as its table entry says. -/
structure Texture where
  base : Nat
  fmt : Nat
  type : Nat
  w : Nat
  h : Nat
  d : Nat
  mips : Nat
  res : Nat
  deriving DecidableEq, Repr

/-- Widths and heights of the 14 ASTC blocks, in Vulkan's order (R373; log entry 9). -/
def astcBlocks : List (Nat × Nat) :=
  [(4, 4), (5, 4), (5, 5), (6, 5), (6, 6), (8, 5), (8, 6), (8, 8), (10, 5), (10, 6), (10, 8), (10, 10), (12, 10), (12, 12)]

/-- A format's block: width, height, bytes; bytes 0 for an illegal code (R373, R387). -/
def texBlock (f : Nat) : Nat × Nat × Nat :=
  if f < 0x20 then (1, 1, fmtBytes f)
  else if f ≤ 0x2C then (4, 4, if Config.bcWide f then 16 else 8)
  else match (if 0x30 ≤ f ∧ f ≤ 0x3D then astcBlocks[f - 0x30]? else if 0x40 ≤ f ∧ f ≤ 0x4D then astcBlocks[f - 0x40]? else none) with
    | some (a, b) => (a, b, 16)
    | none => (1, 1, 0)

/-- Layers of a texture at a level: array layers, slices, or faces (R387). -/
def Texture.layers (x : Texture) (m : Nat) : Nat :=
  match x.type with | 1 => x.d | 2 => max 1 (x.d / 2 ^ m) | 3 => 6 | _ => 1

/-- Texels of a level. -/
def levelSize (n m : Nat) : Nat := max 1 (n / 2 ^ m)

/-- A texture entry, where its fields are legal (R386). -/
def parseTexture (bs : List Byte) : Option Texture :=
  let a := recN bs 0 8
  let b := recN bs 8 8
  let x : Texture := { base := bits a 0 48, fmt := bits a 48 8, type := bits a 56 3, w := bits b 0 16 + 1, h := bits b 16 16 + 1, d := bits b 32 16 + 1
                       mips := bits b 48 4 + 1, res := recN bs 0x10 6 }
  if bits a 59 5 ≠ 0 ∨ 3 < x.type ∨ x.base % 65536 ≠ 0 ∨ (texBlock x.fmt).2.2 = 0 ∨ bits b 52 12 ≠ 0 ∨ recN bs 0x16 2 ≠ 0 ∨ recN bs 0x18 8 ≠ 0
  then none else some x

/-- A sampler entry, where its fields are legal (R386): word 0, bias, minimum and maximum level of detail. -/
def parseSampler (bs : List Byte) : Option (List Nat) :=
  let a := recN bs 0 4
  if bits a 19 13 ≠ 0 ∨ 4 < bits a 16 3 ∨ 4 < bits a 3 3 ∨ 4 < bits a 6 3 ∨ 4 < bits a 9 3 then none
  else some [a, recN bs 4 4, recN bs 8 4, recN bs 12 4]

/-! Sparse tiles (R387). -/

/-- Width and height of a 64 KiB tile in elements. -/
def tileShape (e : Nat) : Nat × Nat := match e with | 1 => (256, 256) | 2 => (256, 128) | 4 => (128, 128) | 8 => (128, 64) | _ => (64, 64)

/-- Tiles of a row and of a column of a level. -/
def levelTiles (x : Texture) (m : Nat) : Nat × Nat :=
  let (bw, bh, e) := texBlock x.fmt
  let (tw, th) := tileShape e
  let ew := (levelSize x.w m + bw - 1) / bw
  let eh := (levelSize x.h m + bh - 1) / bh
  ((ew + tw - 1) / tw, (eh + th - 1) / th)

/-- Tiles before a level: O_m. -/
def tilesBefore (x : Texture) (m : Nat) : Nat :=
  (upto m).foldl (fun n l => n + (levelTiles x l).1 * (levelTiles x l).2 * x.layers l) 0

/-- A texel: level, layer, x, y. -/
structure Texel where
  m : Nat
  layer : Nat
  x : Nat
  y : Nat
  deriving DecidableEq, Repr

/-- The tile number of a texel, over the whole texture: O_m + k. -/
def texelTile (x : Texture) (p : Texel) : Nat :=
  let (bw, bh, e) := texBlock x.fmt
  let (tw, th) := tileShape e
  let (nx, ny) := levelTiles x p.m
  tilesBefore x p.m + p.layer * (nx * ny) + p.y / bh / th * nx + p.x / bw / tw

/-- The VA of a texel's element. -/
def texelVa (x : Texture) (p : Texel) : Nat :=
  let (bw, bh, e) := texBlock x.fmt
  let (tw, th) := tileShape e
  x.base + 65536 * texelTile x p + (p.y / bh % th * tw + p.x / bw % tw) * e

/-- What reads of several texels answer: whether each of them is resident and could be read, the labels, the colours. -/
inductive TexelRead where
  | wait (s : State)
  | ok (s : State) (good : Bool) (l : Label) (cs : List (List Nat))

/-- A texel is resident: its tile's bit, read as a relaxed load. -/
def residentRead (s : State) (acc : Nat) (x : Texture) (p : Texel) : LaneRead :=
  if x.res = 0 then .ok s [1] 0
  else match laneRead s acc (x.res + texelTile x p / 8) 1 with
    | .ok s' bs l => .ok s' [ofBool (bit (leNat bs) (texelTile x p % 8))] l
    | y => y

/-- Read one texel: residency, then the element, decoded; whatever it answers, its label is that of its page and of its bit of the
residency map (R222, R374, R387). -/
def readTexel (acc : Nat) (x : Texture) (p : Texel) (s : State) : TexelRead :=
  let own := vaLabel s (s.vfOf (wgOf (threadOf s acc))) (texelVa x p)
  match residentRead s acc x p with
  | .wait s' => .wait s'
  | .bad s' l => .ok s' false (l ||| own) []
  | .ok s1 b l =>
    if b = [0] then .ok s1 false (l ||| own) []
    else
      let (bw, bh, e) := texBlock x.fmt
      match laneRead s1 acc (texelVa x p) e with
      | .wait s' => .wait s'
      | .bad s' l' => .ok s' false (l ||| l' ||| own) []
      | .ok s2 bs l' =>
        .ok s2 true (l ||| l') [if x.fmt < 0x20 then decodeTexel x.fmt bs else (Config.blockTexel x.fmt bs (p.y % bh * bw + p.x % bw)).map (·.toNat)]

/-- Read the texels of a footprint, all of them (R222). -/
def readTexels (acc : Nat) (x : Texture) : List Texel → State → Bool → Label → List (List Nat) → TexelRead
  | [], s, good, l, cs => .ok s good l cs
  | p :: r, s, good, l, cs => match readTexel acc x p s with
    | .wait s' => .wait s'
    | .ok s' g l' c => readTexels acc x r s' (good && g) (l ||| l') (cs ++ c)

/-! Coordinates (R373: the Vulkan addressing). -/

/-- The floor of an FP32 value times n, plus k halves. -/
def floorTimes (x n : Nat) (k : Int) : Int :=
  match f32.value x with
  | .fin s m e =>
    let v : Int := (if s then -(m : Int) else m) * n
    if 0 ≤ e then (2 * v * (2 ^ e.toNat : Nat) + k) / 2 else (2 * v + k * (2 ^ (-e).toNat : Nat)) / (2 * 2 ^ (-e).toNat : Nat)
  | _ => Config.wildCoord x

/-- An index wrapped into a dimension under an address mode; none in the border (VkSamplerAddressMode 0 to 4). -/
def wrapCoord (mode n : Nat) (i : Int) : Option Nat :=
  match mode with
  | 0 => some (i % (n : Int)).toNat
  | 1 => let j := (i % (2 * n : Int)).toNat; some (if j < n then j else 2 * n - 1 - j)
  | 2 => some (min i.toNat (n - 1))
  | 3 => if 0 ≤ i ∧ i < n then some i.toNat else none
  | _ => let j := if i < 0 then -1 - i else i; some (min j.toNat (n - 1))

/-- The array layer of a coordinate: rounded to even, clamped (Vulkan). -/
def arrayLayer (x n : Nat) : Nat :=
  match f32.value x with
  | .fin s m e => if s then 0 else min (rneInt m e) (n - 1)
  | _ => (Config.wildCoord x).toNat % n

/-- The face of a direction and the face coordinates as FP32 words (R373). -/
def cubeFace (u v w : Nat) : Nat × Nat × Nat :=
  let neg := fun x => f32.signed (!bit x 31) (x % 2 ^ 31)
  let mag := fun x => x % 2 ^ 31
  let (face, sc, tc, rc) :=
    if mag u ≤ mag w ∧ mag v ≤ mag w then (if bit w 31 then (5, neg u, neg v, w) else (4, u, neg v, w))
    else if mag u ≤ mag v then (if bit v 31 then (3, u, neg w, v) else (2, u, w, v))
    else (if bit u 31 then (1, w, neg v, u) else (0, neg w, neg v, u))
  let half := fun c => (f32.mul {} ((f32.add {} ((f32.mul {} c (rcpF {} (mag rc)).1).1) 0x3F800000).1) 0x3F000000).1
  (face, half sc, half tc)

/-- The direction of a point of a cube face, of side 2n about the origin: the inverse of the face coordinates (R373). -/
def faceDir (face : Nat) (s t n : Int) : Int × Int × Int :=
  match face with
  | 0 => (n, -t, -s)
  | 1 => (-n, -t, s)
  | 2 => (s, n, t)
  | 3 => (s, -n, -t)
  | 4 => (s, -t, n)
  | _ => (-s, -t, -n)

/-- The face of a direction whose major axis has length n, and its face coordinates. -/
def dirFace (x y z n : Int) : Nat × Int × Int :=
  if x = n then (0, -z, -y) else if x = -n then (1, z, -y)
  else if y = n then (2, x, z) else if y = -n then (3, x, -z)
  else if z = n then (4, x, -y) else (5, -x, -y)

/-- The texel across an edge of a cube face of n by n texels: the direction of the texel's centre folds over the edge (R373: the
texels about an edge are those of the adjoining face). -/
def acrossEdge (face : Nat) (i j : Int) (n : Nat) : Nat × Int × Int :=
  let v := faceDir face (2 * i + 1 - n) (2 * j + 1 - n) n
  let fold := fun (c : Int) =>
    if c.natAbs = n + 1 then (if c < 0 then -(n : Int) else n)
    else if c.natAbs = n then (if c < 0 then 1 - (n : Int) else n - 1)
    else c
  let d := dirFace (fold v.1) (fold v.2.1) (fold v.2.2) n
  (d.1, (d.2.1 + n - 1) / 2, (d.2.2 + n - 1) / 2)

/-- The indices a coordinate reads in a dimension of n texels: one, or the two neighbours. -/
def axisIndices (linear : Bool) (x n : Nat) : List Int :=
  if linear then let i := floorTimes x n (-1); [i, i + 1] else [floorTimes x n 0]

/-- The texels of one level: by layer or slice, then row, then column; border texels are none. -/
def levelTexels (x : Texture) (samp m : Nat) (linear : Bool) (u v w : Nat) : List (Option Texel) :=
  let (a, b, c) := (bits samp 3 3, bits samp 6 3, bits samp 9 3)
  let lw := levelSize x.w m
  let lh := levelSize x.h m
  if x.type = 3 then
    let (f, s, t) := cubeFace u v w
    ((axisIndices linear t lh).map fun (j : Int) => (axisIndices linear s lw).map fun (i : Int) =>
      if 0 ≤ i ∧ i < lw ∧ 0 ≤ j ∧ j < lh then some ({ m := m, layer := f, x := i.toNat, y := j.toNat } : Texel)
      else if (0 ≤ i ∧ i < lw) ∨ (0 ≤ j ∧ j < lh) then
        let (f', i', j') := acrossEdge f i j lw
        some { m := m, layer := f', x := i'.toNat, y := j'.toNat }
      else
        let (f', i', j') := Config.cubeEdge f i j lw
        some { m := m, layer := f' % 6, x := i' % lw, y := j' % lh }).flatten
  else
    let zs : List (Option Nat) :=
      if x.type = 2 then (axisIndices linear w (x.layers m)).map (wrapCoord c (x.layers m))
      else [some (if x.type = 1 then arrayLayer w x.d else 0)]
    (zs.map fun z => ((axisIndices linear v lh).map fun j => (axisIndices linear u lw).map fun i =>
      match z, wrapCoord b lh j, wrapCoord a lw i with
      | some z, some j, some i => some ({ m := m, layer := z, x := i, y := j } : Texel)
      | _, _, _ => none).flatten).flatten

/-! Levels of detail (R221, R373). -/

/-- The forms of TEX: 0 plain, 1 .l, 2 .b, 3 .g, 4 .gather. -/
abbrev TexForm := Nat

/-- An FP32 value limited to an interval of FP32 bounds. -/
def fClamp (lo hi x : Nat) : Nat := if fvLt (f32.value x) (f32.value lo) then lo else if fvLt (f32.value hi) (f32.value x) then hi else x

/-- The level of detail: 0 for the gathered form and for plain TEX outside a fragment thread, else base, plus biases, limited by the
sampler (R221). -/
def lodOf (zero : Bool) (samp : List Nat) (base bias : Nat) : Nat :=
  if zero then 0
  else fClamp (arg samp 2) (arg samp 3) (f32.add {} base (f32.add {} (arg samp 1) bias).1).1

/-- The levels a level of detail reads: the nearest, or the two about it (Vulkan). -/
def lodLevels (mipLinear : Bool) (mips lod : Nat) : List Nat :=
  match f32.value lod with
  | .fin s m e =>
    if s then [0]
    else if mipLinear then
      let i := (floorTimes lod 1 0).toNat
      if mips ≤ i + 1 then [mips - 1] else if 0 ≤ e ∨ m % 2 ^ (-e).toNat = 0 then [i] else [i, i + 1]
    else [min (mips - 1) (-(floorTimes (f32.signed true lod) 1 (-1)) - 1).toNat]
  | .inf s => if s then [0] else [mips - 1]
  | .nan _ => [(Config.wildCoord lod).toNat % mips]

/-- The level of detail magnifies: at or below 0. -/
def magnifies (lod : Nat) : Bool := bit lod 31 || decide (lod % 2 ^ 31 = 0)

/-- The footprint of a coordinate: its texels, level by level. -/
def footprint (x : Texture) (samp : List Nat) (form : TexForm) (lod u v w : Nat) : List (Option Texel) :=
  let sw := arg samp 0
  if form = 4 then levelTexels x sw 0 true u v w
  else
    let linear := if magnifies lod then bit sw 0 else bit sw 1
    let points := if bits sw 16 3 = 0 ∨ form = 1 then [[u, v, w]] else [u, v, w] :: (Config.anisotropic [sw, lod, u, v, w] form).take 15
    (points.map fun p => ((lodLevels (bit sw 2) x.mips lod).map fun m => levelTexels x sw m linear (arg p 0) (arg p 1) (arg p 2)).flatten).flatten

/-- Colours of a footprint: the border is transparent black. -/
def withBorder : List (Option Texel) → List (List Nat) → List (List Nat)
  | [], _ => []
  | none :: r, cs => [0, 0, 0, 0] :: withBorder r cs
  | some _ :: r, c :: cs => c :: withBorder r cs
  | some _ :: r, [] => [] :: withBorder r []

/-- The colour of a sample: the one texel, the gathered components, or the filtered value. -/
def sampleColour (samp : List Nat) (form : TexForm) (comp : Nat) (words : List Nat) (cs : List (List Nat)) : List Nat :=
  if form = 4 then
    let c := fun i => arg ((cs[i]?).getD []) comp
    [c 2, c 3, c 1, c 0]
  else match cs, bit (arg samp 0) 12 with
    | [c], false => c
    | _, _ => (Config.filtered (arg samp 0) words cs).map (·.toNat)

/-! TEX (R221, R222). -/

/-- The tables of a thread's textures, samplers and structures: the pipeline-state record's or the kernel header's. -/
def tablesOf (s : State) (t : Nat) : Nat × Nat × Nat :=
  let g := s.wg (wgOf t)
  (g.textab.toNat, g.samptab.toNat, g.astab.toNat)

/-- The derivative of a word of a fragment lane along an axis of its quad, from the lane and its neighbour: step 1 along x, 2 along y;
0 where the neighbour is absent (R111, R221). -/
def quadSlope (s : State) (t field step : Nat) : Nat :=
  let lo := t / 4 * 4 + (t % 4 - (if t / step % 2 = 1 then step else 0))
  if alive (s.thr lo) && alive (s.thr (lo + step)) then
    (f32.add {} (readReg s (lo + step) field).val.toNat (f32.signed (!bit (readReg s lo field).val.toNat 31) ((readReg s lo field).val.toNat % 2 ^ 31))).1
  else 0

/-- The words a form reads of its octet. -/
def texWords (form : TexForm) : Nat := match form with | 0 | 4 => 4 | 1 | 2 => 5 | _ => 8

/-- The derivatives a lane's level of detail comes from: of u, v and w along x, then along y (R221). -/
def texSlopes (s : State) (form : TexForm) (a t : Nat) : List Nat :=
  let x := fun k => (readReg s t (a + k)).val.toNat
  if form = 3 then [x 4, x 5, 0, x 6, x 7, 0]
  else if (form = 0 ∨ form = 2) ∧ (s.thr t).frag.isSome then ([1, 2].map fun d => (upto 3).map fun k => quadSlope s t (a + k) d).flatten
  else []

/-- A coordinate of a live neighbour in a fragment lane's quad is poisoned. -/
def quadPoison (s : State) (form : TexForm) (a t : Nat) : Bool :=
  decide (form = 0 ∨ form = 2) && (s.thr t).frag.isSome &&
  (upto 4).any fun i => alive (s.thr (t / 4 * 4 + i)) && (upto 3).any fun k => (readReg s (t / 4 * 4 + i) (a + k)).poison

/-- The base level of detail: the word of .l, 0 without derivatives, minus infinity where each of them is 0, else of the derivatives
over the size of the texture (R221, R373; log entry 9). -/
def baseLod (x : Texture) (form : TexForm) (word : Nat) (slopes : List Nat) : Nat :=
  if form = 1 then word
  else if slopes.isEmpty then 0
  else if slopes.all fun d => decide (d % 2 ^ 31 = 0) then 0xFF800000
  else (Config.lod (slopes ++ [x.w, x.h, x.d, x.type])).toNat

/-- A lane of TEX: its form, coordinates and handle, the word of .l or .b, whether its level of detail is 0, whether a neighbour's
coordinate is poisoned, the derivatives. -/
def texLane (s : State) (form : TexForm) (a t : Nat) : Access :=
  let x := fun k => (readReg s t (a + k)).val.toNat
  { kind := .tex, tid := t, op := form, width := 4
    aux := [x 0, x 1, x 2, x 3, x 4, ofBool (decide (form = 4 ∨ (form = 0 ∧ (s.thr t).frag = none))), ofBool (quadPoison s form a t)] ++ texSlopes s form a t }

/-- TEX: only a poisoned coordinate traps. -/
def texEff (form : TexForm) (d a : BitVec 7) (s : State) (w : Wx) : Eff :=
  let act := w.act s
  let bad := act.filter fun t => (upto (texWords form)).any fun k => (readReg s t (a.toNat + k)).poison
  if kindFull s .tex act then .hold s
  else match bad with
    | [] => .done (raiseIdle s w act (some (.p 7)) (issueLanes s w (some (.quad d)) (texLane s form a.toNat)))
    | bad => .fail (bad.map fun t => { tid := t, cause := 0x12 })

/-- TEX (R221). -/
def execTex (g : BitVec 4) (d a : BitVec 7) (s : State) : Out := runWord (.tex g d a) s (texEff 0 d a)
/-- TEX.l (R221). -/
def execTexL (g : BitVec 4) (d a : BitVec 7) (s : State) : Out := runWord (.texL g d a) s (texEff 1 d a)
/-- TEX.b (R221). -/
def execTexB (g : BitVec 4) (d a : BitVec 7) (s : State) : Out := runWord (.texB g d a) s (texEff 2 d a)
/-- TEX.g (R221). -/
def execTexG (g : BitVec 4) (d a : BitVec 7) (s : State) : Out := runWord (.texG g d a) s (texEff 3 d a)
/-- TEX.gather (R221). -/
def execTexGather (g : BitVec 4) (d a : BitVec 7) (s : State) : Out := runWord (.texGather g d a) s (texEff 4 d a)

/-- What reading the entries of a handle answers: they wait, or the entries with their labels; none where a table is absent, cannot be
read, or an entry is illegal (R222, R386). -/
inductive HandleRead where
  | wait (s : State)
  | ok (s : State) (l : Label) (e : Option (Texture × List Nat))

/-- The entries of a handle, read as relaxed loads (R222, R386). -/
def handleRead (s : State) (acc h : Nat) (withSampler : Bool) : HandleRead :=
  let (tt, st, _) := tablesOf s (threadOf s acc)
  if tt = 0 ∨ (withSampler ∧ st = 0) then .ok s 0 none
  else match laneRead s acc (tt + 32 * bits h 0 16) 32 with
    | .wait s' => .wait s'
    | .bad s' l => .ok s' l none
    | .ok s1 tb l1 =>
      if !withSampler then .ok s1 l1 ((parseTexture tb).map fun x => (x, []))
      else match laneRead s1 acc (st + 16 * bits h 16 12) 16 with
        | .wait s' => .wait s'
        | .bad s' l => .ok s' (l1 ||| l) none
        | .ok s2 sb l2 => .ok s2 (l1 ||| l2) ((parseTexture tb).bind fun x => (parseSampler sb).map fun y => (x, y))

/-- The result of a lane's TEX: its colour and residency, with the labels of what it read (R222). -/
def texResult (a : Access) (cs : Option (List Nat)) (l : Label) : Access :=
  { a with
    stage := .returned, resLabel := l, pred := some cs.isSome, lines := []
    result := (upto 4).map fun i => { val := w32 (arg (cs.getD []) i), poison := cs.isSome && decide (arg a.aux 6 = 1) } }

/-- TEX reads its tables and texels, a line a step (R221, R222). -/
def texPerform (s : State) (id : Nat) (a : Access) : State :=
  let x := arg a.aux
  match handleRead s id (x 3) true with
  | .wait s' => s'
  | .ok s' l none => s'.modAcc id fun _ => texResult a none l
  | .ok s1 l (some (tx, samp)) =>
    let lod := lodOf (x 5 = 1) samp (baseLod tx a.op (x 4) (a.aux.drop 7)) (if a.op = 2 then x 4 else 0)
    let fp := footprint tx samp a.op lod (x 0) (x 1) (x 2)
    match readTexels id tx (fp.filterMap fun p => p) s1 true l [] with
    | .wait s' => s'
    | .ok s' good l' cs =>
      s'.modAcc id fun _ => texResult a
        (if good then some (sampleColour samp a.op (bits (x 3) 28 2) [x 0, x 1, x 2, lod] (withBorder fp cs)) else none) l'

/-- A lane of TEXQ: the words of its quad, and whether one of them is poisoned. -/
def texqLane (op : Nat) (s : State) (a t : Nat) : Access :=
  { kind := .tex, tid := t, op := op, width := 4
    aux := (upto 4).map (fun k => (readReg s t (a + k)).val.toNat) ++ [ofBool (anyPoison ((upto 4).map fun k => readReg s t (a + k)))] }

/-- TEXQ: asynchronous; it never faults, and a poisoned word of its quad poisons what it answers (R72, R223, R233). -/
def texqEff (dst : Opnd) (op : Nat) (a : BitVec 7) (s : State) (w : Wx) : Eff :=
  if kindFull s .tex (w.act s) then .hold s else .done (issueLanes s w (some dst) fun t => texqLane op s a.toNat t)

/-- TEXQ.minlod (R223). -/
def execTexqMinlod (g : BitVec 4) (d a : BitVec 7) (s : State) : Out :=
  runWord (.texqMinlod g d a) s (texqEff (.r d) 5 a)
/-- TEXQ.size (R223). -/
def execTexqSize (g : BitVec 4) (d a : BitVec 7) (s : State) : Out :=
  runWord (.texqSize g d a) s (texqEff (.quad d) 6 a)

/-- The level whose tile holds a coordinate: the lowest resident one from a level on, else the mip count (R223). -/
def minLevel (acc : Nat) (x : Texture) (samp u v w : Nat) : Nat → Nat → State → Label → TexelRead
  | 0, _, s, l => .ok s true l [[x.mips]]
  | n + 1, m, s, l =>
    match levelTexels x samp m false u v w with
    | some p :: _ => match residentRead s acc x p with
      | .wait s' => .wait s'
      | .bad s' l' => minLevel acc x samp u v w n (m + 1) s' (l ||| l')
      | .ok s' b l' => if b = [0] then minLevel acc x samp u v w n (m + 1) s' (l ||| l') else .ok s' true (l ||| l') [[m]]
    | _ => minLevel acc x samp u v w n (m + 1) s l

/-- The result of TEXQ. -/
def texqResult (a : Access) (cs : List Nat) (l : Label) : Access :=
  { a with stage := .returned, resLabel := l, lines := [], result := cs.map fun c => { val := w32 c, poison := decide (arg a.aux 4 = 1) } }

/-- TEXQ.minlod reads its tables and the residency map: the mip count where no level is resident; beyond the table nothing is,
and the count is 0 (R223; log entry 9). -/
def minlodPerform (s : State) (id : Nat) (a : Access) : State :=
  let x := arg a.aux
  match handleRead s id (x 3) true with
  | .wait s' => s'
  | .ok s' l none => s'.modAcc id fun _ => texqResult a [0] l
  | .ok s1 l (some (tx, samp)) =>
    match minLevel id tx (arg samp 0) (x 0) (x 1) (x 2) tx.mips 0 s1 l with
    | .wait s' => s'
    | .ok s' _ l' cs => s'.modAcc id fun _ => texqResult a [arg (cs.headD []) 0] l'

/-- TEXQ.size reads the texture entry of its handle: the level in the first word of the quad, the handle in the fourth (R223; DEDUCED,
log entry 29). -/
def texSizePerform (s : State) (id : Nat) (a : Access) : State :=
  let m := arg a.aux 0
  match handleRead s id (arg a.aux 3) false with
  | .wait s' => s'
  | .ok s' l none => s'.modAcc id fun _ => texqResult a [0, 0, 0, 0] l
  | .ok s' l (some (tx, _)) =>
    s'.modAcc id fun _ => texqResult a [levelSize tx.w m, levelSize tx.h m, if tx.type = 2 then levelSize tx.d m else tx.layers 0, tx.mips] l

end Sys2Proof.Machine
end

