-- ==== Sys2Proof/Machine/Rays.lean ====
section
/-! DEFINITION. Rays: the acceleration structure, the box and triangle tests, the traversal (R224, R388 to R390). -/

namespace Sys2Proof.Machine

/-! FP32 operations under RNE. -/

/-- f32(a + b). -/
def fa (a b : Nat) : Nat := (f32.add {} a b).1
/-- f32(a − b). -/
def fs (a b : Nat) : Nat := (f32.sub {} a b).1
/-- f32(a × b). -/
def fm (a b : Nat) : Nat := (f32.mul {} a b).1

/-- The sign of an FP32 value, where it is not NaN. -/
def fSign : Fv → Bool
  | .nan _ => false
  | .inf s => s
  | .fin s _ _ => s

/-- f32(a / b), correctly rounded. -/
def fq (a b : Nat) : Nat :=
  let s := fSign (f32.value a) != fSign (f32.value b)
  match f32.value a, f32.value b with
  | .nan _, _ | _, .nan _ | .inf _, .inf _ => f32.nanBits
  | .inf _, .fin _ _ _ => f32.signed s f32.infBits
  | .fin _ _ _, .inf _ => f32.signed s 0
  | .fin _ m e, .fin _ n k =>
    if n = 0 then (if m = 0 then f32.nanBits else f32.signed s f32.infBits)
    else if m = 0 then f32.signed s 0
    else (f32.round {} (.num s (m * 2 ^ 64 / n) (e - k - 64) (decide (m * 2 ^ 64 % n ≠ 0)))).1

/-- A value is below another. -/
def fLt (a b : Nat) : Bool := fvLt (f32.value a) (f32.value b)
/-- A value is a NaN. -/
def fNan (a : Nat) : Bool := (f32.value a).isNan
/-- FMIN. -/
def fMin (a b : Nat) : Nat := (f32.minmax false false a b).1
/-- FMAX. -/
def fMax (a b : Nat) : Nat := (f32.minmax false true a b).1
/-- The value is zero of either sign. -/
def fZero (a : Nat) : Bool := decide (a % 2 ^ 31 = 0)

/-! The ray (R224). -/

/-- A ray: origin, direction, tmax, flags of va+7. -/
structure Ray where
  o : List Nat
  d : List Nat
  tmax : Nat
  opaq : Bool
  cull : Bool
  first : Bool
  deriving DecidableEq, Repr

/-- The ray of an octet. -/
def rayOf (x : List Nat) : Ray :=
  { o := x.take 3, d := (x.drop 3).take 3, tmax := arg x 6, opaq := bit (arg x 7) 12, cull := bit (arg x 7) 13, first := bit (arg x 7) 14 }

/-- A hit: t, the primitive index, the barycentrics. -/
structure Hit where
  t : Nat
  prim : Nat
  u : Nat
  v : Nat
  deriving DecidableEq, Repr

/-! Box nodes (R388, R389). -/

/-- A plane of a child box: lo + q · 2^(e − 127), rounded down (mode 3) or up (mode 2). -/
def boxPlane (mode lo q e : Nat) : Nat := (f32.round { mode := mode } (exAdd mode (f32.value lo) (.fin false q ((e : Int) - 127))).1).1

/-- The span of a ray in one axis: entry and exit. An axis whose distances are not numbers bounds nothing (DEDUCED, log entry
30). -/
def slab (o d lo hi : Nat) : Nat × Nat :=
  let a := fq (fs lo o) d
  let b := fq (fs hi o) d
  if fNan a || fNan b then (f32.signed true f32.infBits, f32.infBits) else (fMin a b, fMax a b)

/-- The entry distance of a ray into child c of a box node, where it enters. -/
def childEntry (r : Ray) (nd : List Byte) (c : Nat) : Option Nat :=
  let sp := (upto 3).map fun k =>
    let lo := recN nd (4 * k) 4
    let e := recN nd (0x0C + k) 1
    slab (arg r.o k) (arg r.d k) (boxPlane 3 lo (recN nd (0x10 + 6 * c + k) 1) e) (boxPlane 2 lo (recN nd (0x13 + 6 * c + k) 1 + 1) e)
  let near := sp.foldl (fun m x => fMax m x.1) 0
  let far := sp.foldl (fun m x => fMin m x.2) r.tmax
  if fLt far near then none else some near

/-- A node still to be visited. -/
structure Visit where
  va : Nat
  tri : Bool
  entry : Nat
  depth : Nat
  deriving DecidableEq, Repr

/-- Insert a visit in ascending entry distance, ties to the earlier child. -/
def insertVisit (v : Visit) : List Visit → List Visit
  | [] => [v]
  | x :: r => if fLt v.entry x.entry then v :: x :: r else x :: insertVisit v r

/-- The children of a box node the ray enters, in order of visit. -/
def childVisits (r : Ray) (root depth : Nat) (nd : List Byte) : List Visit :=
  ((upto (recN nd 0x0F 1)).filterMap fun c =>
    let ref := recN nd (0x40 + 4 * c) 4
    if bit ref 31 then none
    else (childEntry r nd c).map fun e => ({ va := root + 64 * bits ref 0 30, tri := bit ref 30, entry := e, depth := depth + 1 } : Visit)).foldl
    (fun l v => insertVisit v l) []

/-- The node ends the traversal: a child count outside 1 to 8, or a reserved bit set. -/
def boxBad (nd : List Byte) : Bool := decide (recN nd 0x0F 1 = 0 ∨ 8 < recN nd 0x0F 1) || decide (recN nd 0x60 32 ≠ 0)

/-! Triangles (R390). -/

/-- The axis of the largest magnitude of a direction, and the two others in the order that keeps the winding. -/
def rayAxes (d : List Nat) : Nat × Nat × Nat :=
  let m := fun k => arg d k % 2 ^ 31
  let kz := if m 1 < m 0 then (if m 2 < m 0 then 0 else 2) else if m 2 < m 1 then 1 else 2
  let kx := (kz + 1) % 3
  let ky := (kz + 2) % 3
  if fLt (arg d kz) 0 then (ky, kx, kz) else (kx, ky, kz)

/-- The watertight test in FP32: t and the barycentrics, and whether the triangle faces back (R390; log entry 30). -/
def woop (r : Ray) (nd : List Byte) : Option (Nat × Nat × Nat × Bool) :=
  let (kx, ky, kz) := rayAxes r.d
  let dz := arg r.d kz
  let sx := fq (arg r.d kx) dz
  let sy := fq (arg r.d ky) dz
  let sz := fq 0x3F800000 dz
  let rel := fun v k => fs (recN nd (12 * v + 4 * k) 4) (arg r.o k)
  let px := fun v => fs (rel v kx) (fm sx (rel v kz))
  let py := fun v => fs (rel v ky) (fm sy (rel v kz))
  let u := fs (fm (px 2) (py 1)) (fm (py 2) (px 1))
  let v := fs (fm (px 0) (py 2)) (fm (py 0) (px 2))
  let w := fs (fm (px 1) (py 0)) (fm (py 1) (px 0))
  if (fLt u 0 || fLt v 0 || fLt w 0) && (fLt 0 u || fLt 0 v || fLt 0 w) then none
  else
    let det := fa (fa u v) w
    if fZero det then none
    else
      let t := fa (fa (fm u (fm sz (rel 0 kz))) (fm v (fm sz (rel 1 kz)))) (fm w (fm sz (rel 2 kz)))
      let rd := fq 0x3F800000 det
      some (fm t rd, fm u rd, fm v rd, fLt det 0)

/-- The accepted hit of a triangle node (R390). -/
def triHit (r : Ray) (nd : List Byte) : Option Hit :=
  match woop r nd with
  | none => none
  | some (t, u, v, back) =>
    let fl := recN nd 0x28 4
    if fNan t || fNan r.tmax || fLt t 0 || fLt r.tmax t then none
    else if (bit fl 0 && !r.opaq) || (r.cull && back && !bit fl 1) then none
    else some { t := t, prim := recN nd 0x24 4, u := u, v := v }

/-- The nearer of two hits, ties to the lower primitive index (R224). -/
def nearer (a : Option Hit) (b : Hit) : Hit :=
  match a with
  | none => b
  | some h => if fLt b.t h.t || (!fLt h.t b.t && decide (b.prim < h.prim)) then b else h

/-! The traversal (R389). -/

/-- What a traversal answers. -/
inductive TraceRead where
  | wait (s : State)
  | bad (s : State) (l : Label)
  | ok (s : State) (l : Label) (h : Option Hit)

/-- Visit the nodes of a stack, depth first. -/
def traverse (acc : Nat) (r : Ray) (root : Nat) : Nat → List Visit → State → Label → Option Hit → TraceRead
  | 0, _, s, l, _ => .bad s l
  | _ + 1, [], s, l, h => .ok s l h
  | n + 1, v :: rest, s, l, h =>
    if (h.map fun x => fLt x.t v.entry).getD false then traverse acc r root n rest s l h
    else if !v.tri && decide (64 < v.depth) then .bad s l
    else match laneRead s acc v.va (if v.tri then 64 else 128) with
      | .wait s' => .wait s'
      | .bad s' l' => .bad s' (l ||| l')
      | .ok s' nd l' =>
        if v.tri then
          if recN nd 0x2C 20 ≠ 0 then .bad s' (l ||| l')
          else match triHit r nd with
            | none => traverse acc r root n rest s' (l ||| l') h
            | some x => if r.first then .ok s' (l ||| l') (some x) else traverse acc r root n rest s' (l ||| l') (some (nearer h x))
        else if boxBad nd then .bad s' (l ||| l')
        else traverse acc r root n (childVisits r root v.depth nd ++ rest) s' (l ||| l') h

/-- More visits than a structure of 64 levels of eight children has. -/
def visitLimit : Nat := 2 ^ 200

/-- Trace the ray of an octet, for an access of a thread (R224, R388). -/
def traceRay (s : State) (acc : Nat) (x : List Nat) : TraceRead :=
  let (_, _, ast) := tablesOf s (threadOf s acc)
  if ast = 0 then .bad s 0
  else match laneRead s acc (ast + 16 * bits (arg x 7) 0 12) 16 with
    | .wait s' => .wait s'
    | .bad s' l => .bad s' l
    | .ok s' e l =>
      let root := recN e 0 6
      if recN e 6 10 ≠ 0 ∨ root % 128 ≠ 0 then .bad s' l
      else traverse acc (rayOf x) root visitLimit [{ va := root, tri := false, entry := 0, depth := 1 }] s' l none

/-- What TRACE writes: the hit, a miss, or the end at an unreadable node (R224). -/
def traceWords (bad : Bool) : Option Hit → List Nat
  | some h => [h.t, h.prim, h.u, h.v]
  | none => [f32.infBits, if bad then 0xFFFFFFFE else 0xFFFFFFFF, 0, 0]

/-- The result of a lane's TRACE. -/
def traceResult (a : Access) (ws : List Nat) (l : Label) : Access :=
  { a with stage := .returned, resLabel := l, lines := [], result := ws.map fun w => { val := w32 w } }

/-- TRACE traverses (R224). -/
def tracePerform (s : State) (id : Nat) (a : Access) : State :=
  match traceRay s id a.aux with
  | .wait s' => s'
  | .bad s' l => s'.modAcc id fun _ => traceResult a (traceWords true none) l
  | .ok s' l h => s'.modAcc id fun _ => traceResult a (traceWords false h) l

/-- The eight words of an octet in a lane. -/
def octWords (s : State) (t a : Nat) : List Nat := (upto 8).map fun k => (readReg s t (a + k)).val.toNat

/-- TRACE (R224): only a poisoned word of the octet traps. -/
def traceEff (d a : BitVec 7) (s : State) (w : Wx) : Eff :=
  let act := w.act s
  if kindFull s .walk act then .hold s
  else match poisonFails s act (.oct a) with
    | [] => .done (issueLanes s w (some (.quad d)) fun t => { kind := .walk, tid := t, op := 1, aux := octWords s t a.toNat })
    | bad => .fail bad

/-- TRACE (R224). -/
def execTrace (g : BitVec 4) (d a : BitVec 7) (s : State) : Out := runWord (.trace g d a) s (traceEff d a)

end Sys2Proof.Machine
end

