-- ==== Sys2Proof/Machine/Lists.lean ====
section
/-! DEFINITION. Fragment lists: heads, nodes, insertion, merging, walks; FLSET, FLINS, FLWALK, TRACE.append and the steps that
perform them (R225 to R227, R230, R231, R381 to R385). -/

namespace Sys2Proof.Machine

/-! Tiles (R371). -/

/-- The bytes of an element's planes of a tile at its first work, target by target, pixel by pixel (R370, R371): loaded from
memory, cleared, or undefined. -/
def loadPlane (load : Nat) (clear : List Byte) (memory : List Byte) (held : List Byte) : List Byte :=
  match load with | 0 => memory | 1 => clear | _ => held

/-- The samples of a tile that lie in the render target: x, y, sample. -/
def tileSamples (p : Pass) (tile : Nat) : List (Nat × Nat × Nat) :=
  let x0 := tile % p.tilesX * 32
  let y0 := tile / p.tilesX * 32
  ((upto 32).map fun j => ((upto 32).map fun i => (upto p.samples).map fun k => (x0 + i, y0 + j, k)).flatten).flatten.filter fun e =>
    decide (e.1 < p.width ∧ e.2.1 < p.height)

/-- Offset of a place in its region. -/
def regionOff : Place → Nat
  | .va _ => 0
  | .region _ o => o

/-- Fill a part of the region from memory, from the clear value, or with what it held, which R370 leaves open: the bytes are free values,
their label is 0 (DESIGN CHOICE, log entry 79); the label of what is read. -/
def fillPart (s : State) (p : Pass) (held : Nat → Byte) (load off va : Nat) (clear : List Byte) (x : TileState) : TileState :=
  let n := clear.length
  let bs := loadPlane load clear (vaBytes s p.vf va n) ((upto n).map fun i => held (off + i))
  let l := if load = 0 then spanLabel s p.vf va n else 0
  { x with region := writeBytes x.region off bs, labels := sset 0 x.labels (regionPart off) (sget 0 x.labels (regionPart off) ||| l) }

/-- The elements of a sample: target planes, depth, stencil; with their load field, region offset, VA and clear bytes. -/
def sampleParts (p : Pass) (e : Nat × Nat × Nat) : List (Nat × Nat × Nat × List Byte) :=
  let (x, y, k) := e
  ((upto p.ntargets).map fun t => (p.tload t, regionOff (targetPlace p t x y k), targetVa p t x y k,
    leBytes (encodeTexel (p.tfmt t) ((upto 4).map fun i => recN p.record (0xE0 + 4 * i) 4)) (fmtBytes (p.tfmt t)))) ++
  (if p.dep then [(p.dload, regionOff (depthPlace p x y k), depthVa p x y k, leBytes (recN p.record 0x0C 4) 4)] else []) ++
  if p.sten then [(p.dload, regionOff (stencilPlace p x y k), stencilVa p x y k, leBytes (recN p.record 0x10 1) 1)] else []

/-- The default head of the pass (R381). -/
def defaultHead (p : Pass) : List Byte := leBytes (p.dbudget * 2 ^ 28 + 0xFFFFFF) 4 ++ leBytes p.drule 4

/-- The region of a tile at the start of the tile's first work (R371, R381). What a sample part that is neither loaded nor cleared holds
is a free value (R370; log entry 79). -/
def filledTile (s : State) (id : Nat) (p : Pass) (tile : Nat) (x : TileState) : TileState :=
  let x1 := (tileSamples p tile).foldl (fun x e => (sampleParts p e).foldl (fun x q => fillPart s p (Config.tileByte id tile) q.1 q.2.1 q.2.2.1 q.2.2.2 x) x) x
  let x2 := if p.lists then { x1 with region := (upto p.keys).foldl (fun m i => writeBytes m (10 * 2 ^ 20 + 8 * i) (defaultHead p)) x1.region } else x1
  { x2 with loaded := true }

/-- A step for each element of a tile's samples. -/
def eachPart (p : Pass) (tile : Nat) (f : State → Nat × Nat × Nat × List Byte → Dev State) (s : State) : Dev State :=
  (tileSamples p tile).foldl (fun o e => (sampleParts p e).foldl (fun o q => o.bind fun s => f s q) o) (.ok s)

/-- A tile's first work. In tile mode its region is filled, from memory where the load field says so; in immediate mode the load fields
act on the memory itself, sample by sample (R370, R371). -/
def startTile (s : State) (id tile : Nat) : Dev State :=
  match s.pass? id with
  | none => .ok s
  | some p =>
    if (p.tile tile).loaded then .ok s
    else if p.tileMode then
      (eachPart p tile (fun s q => if q.1 = 0 then devTouch s p.vf q.2.2.1 q.2.2.2.length else .ok s) s).map fun s => s.modTile id tile (filledTile s id p tile)
    else
      (eachPart p tile (fun s q => if q.1 = 1 then placeWrite s id (.va q.2.2.1) q.2.2.2 p.label else .ok s) s).map fun s =>
        s.modTile id tile fun x => { x with loaded := true }

/-! Lists in memory or a region (R381, R382). -/

/-- A node of a list: its index where it has one, depth, payload, flags, sequence. -/
structure LNode where
  idx : Option Nat
  depth : Nat
  p0 : Nat
  p1 : Nat
  flags : Nat
  seq : Nat
  deriving DecidableEq, Repr

/-- A list: budget, rule, press, its nodes from the nearest, the label of what was read. -/
structure FragList where
  budget : Nat
  rule : Nat
  press : Bool
  count : Nat
  nodes : List LNode
  label : Label
  deriving DecidableEq, Repr

/-- The context may read the place. -/
def placeReadable (s : State) (p : Pass) (pl : Place) (n : Nat) : Bool :=
  match pl with
  | .va a => devReadable s p.vf a n
  | .region _ _ => true

/-- A node from its bytes and its sequence word. -/
def nodeOf (i : Nat) (b q : List Byte) : LNode :=
  { idx := some i, depth := recN b 0 4, p0 := recN b 4 4, p1 := recN b 8 4, flags := recN b 15 1, seq := leNat q }

/-- A list from its head's bytes and its nodes (R381). -/
def listOf (b : List Byte) (nodes : List LNode) (l : Label) : FragList :=
  let w := recN b 0 4
  { budget := bits w 28 4, rule := bits (recN b 4 4) 0 3, press := bit (recN b 4 4) 3, count := bits w 24 4, nodes := nodes, label := l }

/-- The list that cannot be read. -/
def noList : FragList := { budget := 1, rule := 0, press := false, count := 0, nodes := [], label := 0 }

/-- Read a place for a step at its home: none where the context may not read it. -/
def placeGet (s : State) (p : Pass) (pl : Place) (n : Nat) : Dev (State × Option (List Byte × Label)) :=
  (placeTouch s p pl n).map fun s => (s, if placeReadable s p pl n then some (placeRead s p pl n) else none)

/-- Walk at most n nodes from an index (R385). -/
def walkNodes (p : Pass) (tile : Nat) : Nat → Nat → State → Dev (State × List LNode × Label)
  | 0, _, s => .ok (s, [], 0)
  | n + 1, i, s =>
    if p.nodes ≤ i then .ok (s, [], 0)
    else (placeGet s p (nodePlace p tile i) 16).bind fun a => (placeGet a.1 p (seqPlace p tile i) 4).bind fun c =>
      match a.2, c.2 with
      | some (b, l), some (q, lq) => (walkNodes p tile n (recN b 12 3) c.1).map fun r => (r.1, nodeOf i b q :: r.2.1, l ||| lq ||| r.2.2)
      | _, _ => .ok (c.1, [], 0)

/-- The list of a key (R381, R382, R385). -/
def readList (s : State) (p : Pass) (tile i : Nat) : Dev (State × FragList) :=
  (placeGet s p (headPlace p tile i) 8).bind fun a => match a.2 with
    | none => .ok (a.1, noList)
    | some (b, l) => (walkNodes p tile (bits (recN b 0 4) 24 4) (bits (recN b 0 4) 0 24) a.1).map fun r => (r.1, listOf b r.2.1 (l ||| r.2.2))

/-! Insertion and merging (R383, R384). -/

/-- Depth order: as FCMP.lt, NaN after +∞. -/
def depthLt (a b : Nat) : Bool := if fNan a then false else if fNan b then true else fLt a b

/-- A node stays before the one inserted. -/
def staysBefore (n x : LNode) : Bool := depthLt x.depth n.depth || (!depthLt n.depth x.depth && decide (x.seq ≤ n.seq))

/-- Place a node in ascending depth (R383). -/
def placeNode (n : LNode) : List LNode → List LNode
  | [] => [n]
  | x :: r => if staysBefore n x then x :: placeNode n r else n :: x :: r

/-- Element c of a node's payload. -/
def payloadElem (n : LNode) (c : Nat) : Nat := if c < 2 then bits n.p0 (16 * c) 16 else bits n.p1 (16 * (c - 2)) 16

/-- An exact value rounded once to FP16. -/
def toF16 (e : Ex) : Nat := (f16.round {} e).1

/-- The value of an exact sum where it is one number again. -/
def exVal : Ex → Fv
  | .nan => .nan false
  | .inf s => .inf s
  | .zero s => .fin s 0 0
  | .num s m e _ => .fin s m e

/-- One element of a merge: over, add, min, max (R384). -/
def mergeElem (rule : Nat) (n f : LNode) (c : Nat) : Nat :=
  let a := f16.value (payloadElem n c)
  let b := f16.value (payloadElem f c)
  match rule % 4 with
  | 0 => toF16 (exAdd 0 a (exMul (exVal (exAdd 0 (.fin false 1 0) (f16.value (payloadElem n 3)).neg).1) b).1).1
  | 1 => toF16 (exAdd 0 a b).1
  | 2 => (f16.minmax false false (payloadElem n c) (payloadElem f c)).1
  | _ => (f16.minmax false true (payloadElem n c) (payloadElem f c)).1

/-- A merge of the nearer node n and the farther f, at n's index, or at f's where n has none (R384). -/
def mergeNodes (rule : Nat) (n f : LNode) : LNode :=
  let e := mergeElem rule n f
  { idx := n.idx.orElse fun _ => f.idx, depth := if bit rule 2 then f.depth else n.depth, p0 := e 0 + e 1 * 2 ^ 16, p1 := e 2 + e 3 * 2 ^ 16
    flags := (d64 n.flags ||| d64 f.flags).toNat, seq := n.seq }

/-- The index a merge returns to the pool. -/
def mergeFrees (n f : LNode) : List Nat := if n.idx.isSome then f.idx.toList else []

/-- Merge the two farthest nodes: the list and the index freed. -/
def mergeLast (rule : Nat) : List LNode → List LNode × List Nat
  | [] => ([], [])
  | [n] => ([n], [])
  | [n, f] => ([mergeNodes rule n f], mergeFrees n f)
  | x :: r => let m := mergeLast rule r; (x :: m.1, m.2)

/-- Merge while the count exceeds the budget. -/
def mergeDown (rule budget : Nat) : Nat → List LNode → List LNode × List Nat
  | 0, l => (l, [])
  | k + 1, l =>
    if l.length ≤ budget ∨ l.length < 2 then (l, [])
    else
      let m := mergeLast rule l
      let r := mergeDown rule budget k m.1
      (r.1, m.2 ++ r.2)

/-! The free pool (R382, R383). -/

/-- Nodes taken and returned: of the pass, or of a tile. -/
def poolOf (p : Pass) (tile : Nat) : List Nat × List Nat :=
  if p.tileMode then ((p.tile tile).used, (p.tile tile).freed) else (p.used, p.freed)

/-- Keep nodes taken and returned. -/
def setPool (s : State) (id tile : Nat) (used freed : List Nat) : State :=
  match s.pass? id with
  | none => s
  | some p =>
    if p.tileMode then s.modTile id tile fun x => { x with used := used, freed := freed }
    else s.modPass id fun q => { q with used := used, freed := freed }

/-- The j-th node from a base on that an ascending list does not name. -/
def nthUnused (base j : Nat) (used : List Nat) : Nat := used.foldl (fun x u => if u ≤ x then x + 1 else x) (base + j)

/-- Take a node of the free pool (Config.freeNode chooses; log entry 28): the node, and the pool without it. -/
def takeNode (p : Pass) (tile fresh : Nat) : Option (Nat × List Nat × List Nat) :=
  let (used, freed) := poolOf p tile
  let size := freed.length + (p.nodes - p.keys - used.length)
  if size = 0 then none
  else
    let j := Config.freeNode fresh % size
    match freed[j]? with
    | some i => some (i, used, freed.eraseIdx j)
    | none => let i := nthUnused p.keys (j - freed.length) used; some (i, insertNat i used, freed)

/-! Writing a list back. -/

/-- The bytes of a node with its next index. -/
def nodeBytes (n : LNode) (next : Nat) : List Byte := leBytes n.depth 4 ++ leBytes n.p0 4 ++ leBytes n.p1 4 ++ leBytes (n.flags * 2 ^ 24 + next) 4

/-- What writing a list leaves: the state and the write-completion time of all that has been written (R160, R289). -/
structure ListOut where
  st : State
  wct : DWord := 0

/-- Write a place for a list step of a CU: its own copies of the line are dropped (R277). -/
def writePlace (cid id : Nat) (l : Label) (o : ListOut) (pl : Place) (bs : List Byte) : Dev ListOut :=
  (placeWriteAt o.st id pl bs l).map fun x =>
    { st := match pl, x.1.pass? id with
        | .va a, some p => match rangeOf x.1 p.vf (d64 a) with
          | some (_, r) => dropCopies x.1 (32 + cid) (lineOf (spaceOf r) (iaOf r (d64 a)))
          | none => x.1
        | _, _ => x.1
      wct := if o.wct < x.2 then x.2 else o.wct }

/-- Write a place unless it holds the bytes already. -/
def changePlace (cid id : Nat) (p : Pass) (l : Label) (o : ListOut) (pl : Place) (bs : List Byte) : Dev ListOut :=
  if (placeRead o.st p pl bs.length).1 = bs then .ok o else writePlace cid id l o pl bs

/-- Write the nodes and sequences of a list: a node that is not among the old ones is written whatever its place holds, so that its
page or block takes the label (R230). -/
def writeNodes (cid id : Nat) (p : Pass) (tile : Nat) (l : Label) (old : List LNode) : List LNode → ListOut → Dev ListOut
  | [], o => .ok o
  | n :: r, o =>
    let i := n.idx.getD 0
    let next := match r with | m :: _ => m.idx.getD 0 | [] => 0xFFFFFF
    let put := fun (o : ListOut) (pl : Place) (bs : List Byte) => if old.contains n then changePlace cid id p l o pl bs else writePlace cid id l o pl bs
    ((put o (nodePlace p tile i) (nodeBytes n next)).bind fun o => put o (seqPlace p tile i) (leBytes n.seq 4)).bind
      (writeNodes cid id p tile l old r)

/-- The bytes of a head. -/
def headBytes (fl : FragList) : List Byte :=
  leBytes (fl.budget * 2 ^ 28 + fl.nodes.length % 16 * 2 ^ 24 + (match fl.nodes with | n :: _ => n.idx.getD 0 | [] => 0xFFFFFF)) 4 ++
  leBytes (fl.rule + ofBool fl.press * 8) 4

/-- Write a list: nodes, then the head, which is always raised by the label (R230). -/
def writeList (s : State) (cid id : Nat) (p : Pass) (tile i : Nat) (old : List LNode) (fl : FragList) (l : Label) : Dev ListOut :=
  (writeNodes cid id p tile l old fl.nodes { st := s }).bind fun o => writePlace cid id l o (headPlace p tile i) (headBytes fl)

/-- The node without an index, if there is one, takes the index that a merge has freed (R383: the insertion takes no node of the pool). -/
def seatNode (l : List LNode) (freed : List Nat) : List LNode × List Nat :=
  match freed with
  | f :: r => if l.any (·.idx.isNone) then (l.map fun n => if n.idx.isNone then { n with idx := some f } else n, r) else (l, freed)
  | [] => (l, [])

/-- Insert a node into the list of a key as one step (R230, R383). -/
def insertStep (s : State) (cid id tile i : Nat) (n : LNode) (l : Label) : Dev ListOut :=
  match s.pass? id with
  | none => .ok { st := s }
  | some p => (readList s p tile i).bind fun rd =>
    let s := rd.1
    let fl := rd.2
    let (used, freed) := poolOf p tile
    let got : Option (Nat × List Nat × List Nat) := if fl.count = 0 then some (i, used, freed) else takeNode p tile s.fresh
    match got with
    | some (x, used, freed) =>
      let m := mergeDown fl.rule fl.budget 16 (placeNode { n with idx := some x } fl.nodes)
      (writeList s cid id p tile i fl.nodes { fl with nodes := m.1 } l).map fun o =>
        { o with st := setPool { o.st with fresh := s.fresh + 1 } id tile used (freed ++ m.2) }
    | none =>
      let m := mergeLast fl.rule (placeNode n fl.nodes)
      let q := seatNode m.1 m.2
      (writeList s cid id p tile i fl.nodes { fl with nodes := q.1, budget := fl.count, press := true } l).map fun o =>
        { o with st := (setPool o.st id tile used (freed ++ q.2)).modPass id fun q => { q with pressure := true } }

/-- FLSET: budget and rule in one step, merging at once (R230, R383). -/
def setStep (s : State) (cid id tile i v : Nat) (l : Label) : Dev ListOut :=
  match s.pass? id with
  | none => .ok { st := s }
  | some p => (readList s p tile i).bind fun rd =>
    let fl := rd.2
    let budget := max 1 (bits v 0 4)
    let rule := bits v 4 2 + (if bits v 6 2 = 1 then 4 else 0)
    let m := mergeDown rule budget 16 fl.nodes
    let (used, freed) := poolOf p tile
    (writeList rd.1 cid id p tile i fl.nodes { fl with budget := budget, rule := rule, nodes := m.1 } l).map fun o =>
      { o with st := setPool o.st id tile used (freed ++ m.2) }

/-! The words (R225 to R227, R230, R231). -/

/-- The pass with fragment lists that the launch of a thread lies in. -/
def listPass (s : State) (t : Nat) : Option (Nat × Pass) := (passOf s (s.wg (wgOf t)).launch).filter fun e => e.2.lists

/-- The fragment of a thread. -/
def fragOf (s : State) (t : Nat) : Option (Nat × Frag) := (s.thr t).frag.bind fun f => (tfind s.frags f).map fun x => (f, x)

/-- The key a field names in a lane: z is the thread's own; none in a thread that has no fragment (R227). -/
def keyIn? (s : State) (t : Nat) (k : BitVec 7) : Option Nat :=
  if k = 116#7 then (fragOf s t).map fun e => fragKey e.2 else some (readReg s t k.toNat).val.toNat

/-- The tile and index of a key in a pass, where it lies in the render target. -/
def keyPlace (p : Pass) (v : Nat) : Option (Nat × Nat) :=
  let k := keyOf v
  if keyIn p k then some (p.tileAt k.1 k.2.1, keyIndex p k) else none

/-- A lane's insertion: operation (0 FLINS, 1 FLSET, 2 TRACE.append), key, words. -/
def listAccess (op : Nat) (key : Nat) (ws : List Nat) : Access := { kind := .insert, tid := 0, op := op, ia := key, aux := ws }

/-- The primitive sequence of a thread's nodes (R225). -/
def seqOf (s : State) (t : Nat) : Nat := ((fragOf s t).map fun e => e.2.seq).getD 0xFFFFFFFF

/-- The lanes whose insertion is not dropped at once: lists are bound, and the key lies in the render target. -/
def listLane (s : State) (k : BitVec 7) (t : Nat) : Option Nat :=
  (listPass s t).bind fun e => (keyIn? s t k).filter fun v => (keyPlace e.2 v).isSome

/-- FLINS and TRACE.append count as stores; FLSET does not (R194, R225, R230). -/
def countList (op : Nat) (f : Thread → Thread) (x : Thread) : Thread := if op = 1 then x else f x

/-- A list word of the store kind: its lanes are issued, or dropped (R194, R226, R227). -/
def listEff (k : BitVec 7) (data : Opnd) (op : Nat) (ws : State → Nat → List Nat) (s : State) (w : Wx) : Eff :=
  let act := w.act s
  if decide (op ≠ 1) && kindFull s .insert act then .hold s
  else match poisonFails s act (.r k) ++ (if op = 1 then [] else poisonFails s act data) with
    | [] => .done ((act.filter fun t => (listLane s k t).isSome).foldl (fun s' t =>
        let a := { listAccess op ((listLane s k t).getD 0) (ws s t) with
          tid := t, pc := w.b.pc, label := w.label s (gidOf t), inst := s.fresh, sentAt := s.now.toNat }
        (s'.addAcc a).modThr t (countList op (countUp .insert))) s)
    | bad => .fail bad

/-- FLSET (R230). -/
def execFlset (g : BitVec 4) (k c : BitVec 7) (s : State) : Out :=
  runWord (.flset g k c) s (listEff k (.r c) 1 fun s t => [(readReg s t c.toNat).val.toNat])
/-- FLINS (R230). -/
def execFlins (g : BitVec 4) (k q : BitVec 7) (s : State) : Out :=
  runWord (.flins g k q) s (listEff k (.quad q) 0 fun s t => ((upto 4).map fun i => (readReg s t (q.toNat + i)).val.toNat) ++ [seqOf s t])
/-- TRACE.append (R225). -/
def execTraceAppend (g : BitVec 4) (k a : BitVec 7) (s : State) : Out :=
  runWord (.traceAppend g k a) s (listEff k (.oct a) 2 fun s t => octWords s t a.toNat ++ [seqOf s t])

/-- FLWALK (R231). -/
def flwalkEff (d a : BitVec 7) (s : State) (w : Wx) : Eff :=
  let act := w.act s
  let own := decide (a = 116#7)
  if kindFull s .walk act then .hold s
  else match if own then [] else (act.filter fun t => (readReg s t a.toNat).poison).map fun t => ({ tid := t, cause := 0x12 } : Fail) with
    | [] => .done (issueLanes s w (some (.quad d)) fun t =>
        { kind := .walk, tid := t, op := 0, ia := (keyIn? s t a).getD 0, aux := [if own then 0 else (readReg s t (a.toNat + 1)).val.toNat, ofBool (keyIn? s t a).isSome] })
    | bad => .fail bad

/-- FLWALK (R231). -/
def execFlwalk (g : BitVec 4) (d a : BitVec 7) (s : State) : Out := runWord (.flwalk g d a) s (flwalkEff d a)

/-! The steps. -/

/-- What reading a place for FLWALK answers: it waits, the context may not read it, or its bytes, whether one of them is poisoned, and
their label. -/
inductive WalkGet where
  | wait (s : State)
  | none (s : State)
  | ok (s : State) (bs : List Byte) (bad : Bool) (l : Label)

/-- The relaxed load of one part of a line of a thread, from its line's home, under a lease (R289). -/
def leasedPart (s : State) (acc va n : Nat) : WalkGet :=
  let t := threadOf s acc
  let vf := s.vfOf (wgOf t)
  match rangeOf s vf (d64 va) with
  | none => .none s
  | some (_, r) =>
    let sp := spaceOf r
    let ia := iaOf r (d64 va)
    if !permR r then .none s
    else if atomWaits s acc { kind := .walk, tid := t, space := sp, ia := ia, width := n } then .wait s
    else match fetchLine s (.acc acc) vf (s.grp (gidOf t)).dom (s.cidOf t) (s.wg (wgOf t)).launch sp r ia 0 false with
      | .wait s' => .wait s'
      | .refused _ => .none s
      | .ok s' v =>
        let o := ownLine s' t acc sp (ia / 64 * 64) v
        let p := o.part (ia % 64) n
        .ok s' (p.map (·.1)) (p.any (·.2)) o.label

/-- The parts of a span, one after another. -/
def leasedParts (acc : Nat) : List (Nat × Nat) → WalkGet → WalkGet
  | [], x => x
  | e :: r, .ok s bs bad l => match leasedPart s acc e.1 e.2 with
    | .ok s' bs' bad' l' => leasedParts acc r (.ok s' (bs ++ bs') (bad || bad') (l ||| l'))
    | x => x
  | _ :: _, x => x

/-- A place as FLWALK reads it (R231, R289). -/
def walkGet (s : State) (acc : Nat) (p : Pass) (pl : Place) (n : Nat) : WalkGet :=
  match pl with
  | .va a => leasedParts acc (lineParts a n) (.ok s [] false 0)
  | .region _ _ => let x := placeRead s p pl n; .ok s x.1 false x.2

/-- What FLWALK has read of a list: or it waits. -/
inductive WalkList where
  | wait (s : State)
  | ok (s : State) (nodes : List LNode) (bad : Bool) (l : Label)

/-- Read at most n nodes from an index, as loads (R231, R385). -/
def walkLoads (acc : Nat) (p : Pass) (tile : Nat) : Nat → Nat → State → WalkList
  | 0, _, s => .ok s [] false 0
  | n + 1, i, s =>
    if p.nodes ≤ i then .ok s [] false 0
    else match walkGet s acc p (nodePlace p tile i) 16 with
      | .wait s' => .wait s'
      | .none s' => .ok s' [] false 0
      | .ok s' b bad l => match walkLoads acc p tile n (recN b 12 3) s' with
        | .wait s2 => .wait s2
        | .ok s2 ns bad' l' => .ok s2 (nodeOf i b [] :: ns) (bad || bad') (l ||| l')

/-- The list of a key as FLWALK reads it: head and nodes in one step, each line from its home, so that the list is one that some step
left (R231, R289, R383); none where the head cannot be read. -/
def loadList (s : State) (acc : Nat) (p : Pass) (tile i : Nat) : WalkList × FragList :=
  match walkGet s acc p (headPlace p tile i) 8 with
  | .wait s' => (.wait s', noList)
  | .none s' => (.ok s' [] false 0, noList)
  | .ok s' b bad l => match walkLoads acc p tile (bits (recN b 0 4) 24 4) (bits (recN b 0 4) 0 24) s' with
    | .wait s2 => (.wait s2, noList)
    | .ok s2 ns bad' l' => (.ok s2 ns (bad || bad') (l ||| l'), listOf b ns (l ||| l'))

/-- What FLWALK reads: the node's words, or +∞, 0, 0 (R231). -/
def walkWords (fl : FragList) (n : Nat) : List Nat :=
  match fl.nodes.drop n with
  | x :: _ => [x.depth, x.p0, x.p1, x.flags + 256 * fl.count]
  | [] => [f32.infBits, 0, 0, 256 * fl.count]

/-- An earlier insertion of the thread to the key has not been performed (R278). -/
def insertPending (s : State) (id : Nat) (a : Access) : Bool :=
  (accsOf s a.tid).any fun e => decide (e.1 < id) && decide (e.2.kind = .insert) && decide (e.2.stage = .issued) && decide (keyOf e.2.ia = keyOf a.ia)

/-- The result of FLWALK; words of a failed grain are poisoned (R412). -/
def walkResult (a : Access) (fl : FragList) (bad : Bool) : Access :=
  let b := traceResult a (walkWords fl (arg a.aux 0)) fl.label
  { b with result := b.result.map fun c => { c with poison := bad } }

/-- FLWALK reads its list (R231, R383); with no list bound, or outside the render target, the list is empty (R226, R227). -/
def walkPerform (s : State) (id : Nat) (a : Access) : State :=
  if insertPending s id a then s
  else match listPass s a.tid, (listPass s a.tid).bind fun e => keyPlace e.2 a.ia with
    | some (p, _), some (tile, i) =>
      if arg a.aux 1 = 0 then s.modAcc id fun _ => walkResult a noList false
      else match startTile s p tile with
        | .error e => devWaits s e
        | .ok s1 => match (s1.pass? p).map fun q => loadList s1 id q tile i with
          | some (.wait s2, _) => s2
          | some (.ok s2 _ bad _, fl) => s2.modAcc id fun _ => walkResult a fl bad
          | none => s1
    | _, _ => s.modAcc id fun _ => walkResult a noList false

/-- The insertions of one key arrive in the order of their requests (R172, R230). -/
def firstAtKey (s : State) (id : Nat) (a : Access) : Bool :=
  let p := (s.launchOf (wgOf a.tid)).pass
  !s.accs.any fun e => decide (e.2.kind = .insert) && decide (e.2.stage = .issued) && decide ((s.launchOf (wgOf e.2.tid)).pass = p) &&
    decide (keyOf e.2.ia = keyOf a.ia) && keyBefore (requestKey s e.1 e.2) (requestKey s id a)

/-- The step has been performed: its completion is on its way. -/
def insertDone (s : State) (id : Nat) (wct : DWord) : State := s.modAcc id fun a => { a with stage := .returned, wct := wct }

/-- The node a TRACE.append inserts (R225). -/
def appendNode (h : Hit) (seq : Nat) : LNode :=
  { idx := none, depth := h.t, p0 := h.prim, p1 := (cvtFF f32 f16 {} h.u).1 + (cvtFF f32 f16 {} h.v).1 * 2 ^ 16, flags := 0xFF, seq := seq }

/-- Perform a list step of an access (R383). -/
def listPerform (s : State) (id : Nat) (a : Access) : State :=
  match listPass s a.tid, (listPass s a.tid).bind fun e => keyPlace e.2 a.ia with
  | some (p, _), some (tile, i) => match startTile s p tile with
    | .error e => devWaits s e
    | .ok s1 =>
      let cid := s.cidOf a.tid
      let fin := fun (s : State) (o : Dev ListOut) => match o with
        | .ok r => insertDone r.st id (if r.wct < r.st.now then r.st.now else r.wct)
        | .error e => devWaits s e
      let x := arg a.aux
      match a.op with
      | 0 => fin s (insertStep s1 cid p tile i { idx := none, depth := x 0, p0 := x 1, p1 := x 2, flags := x 3 % 256, seq := x 4 } a.label)
      | 1 => fin s (setStep s1 cid p tile i (x 0) a.label)
      | _ => match traceRay s1 id a.aux with
        | .wait s' => s'
        | .bad s' _ | .ok s' _ none => insertDone s' id s'.now
        | .ok s' l (some h) => fin s' (insertStep s' cid p tile i (appendNode h (x 8)) (a.label ||| l))
  | _, _ => insertDone s id s.now

/-- LIST_INSERT_STEP (R383). -/
def execListInsertStep (acc : Nat) (s : State) : Out :=
  .next (match tfind s.accs acc with
    | some a => if decide (a.kind = .insert) && decide (a.stage = .issued) && firstAtKey s acc a then listPerform s acc a else s
    | none => s)

/-- An engine's read for a lane: texels, texture sizes, rays, walks (R222 to R224, R231). -/
def engineReads (s : State) (id : Nat) (a : Access) : State :=
  match a.kind, a.op with
  | .walk, 0 => walkPerform s id a
  | .walk, _ => tracePerform s id a
  | _, 5 => minlodPerform s id a
  | _, 6 => texSizePerform s id a
  | _, _ => texPerform s id a

/-- LOAD_VALUE_ARRIVAL: a value arrives; the engines of texels, rays and lists read first (R154). -/
def execLoadValueArrival (acc : Nat) (s : State) : Out :=
  .next (match tfind s.accs acc with
    | some a =>
      if !delivers a.kind then s
      else if decide (a.kind = .tex ∨ a.kind = .walk) && decide (a.stage = .issued) then
        let s1 := engineReads s acc a
        match tfind s1.accs acc with
        | some b => if b.stage = .returned then loadArrives s1 acc b else s1
        | none => s1
      else if decide (a.stage = .returned) then loadArrives s acc a else s
    | none => s)

end Sys2Proof.Machine
end

