-- ==== Sys2Proof/Machine/Clause.lean ====
section
/-! DEFINITION. The clause scoreboard, fragment output words, and the end of threads: OCENTER, OCLEAVE, OCSKIP, PIXOUT, INTERP,
DISCARD, EXIT (R133, R226 to R229, R232, R374, R378 to R380). -/

namespace Sys2Proof.Machine

/-- Change a fragment. -/
def State.modFrag (s : State) (f : Nat) (g : Frag → Frag) : State := { s with frags := tmod s.frags f g }

/-- A fragment is registered at its key (R378). -/
def atKey (f : Frag) : Bool := f.registered && !f.popped && !f.ended

/-- The fragment heads its key: no registered one of its pass has a lower sequence (R378). -/
def headsKey (s : State) (id : Nat) (f : Frag) : Bool :=
  atKey f && !s.frags.any fun e => decide (e.1 ≠ id) && decide (fragKey e.2 = fragKey f) && decide (e.2.seq < f.seq) && atKey e.2 &&
    decide ((s.launch e.2.launch).pass = (s.launch f.launch).pass)

/-! OCENTER (R228). -/

/-- What OCENTER finds in a lane: cause 0x12 for a poisoned key, 0x10 for another key or a popped fragment. -/
def ocenterFail (s : State) (k : BitVec 7) (t : Nat) : List Fail :=
  if k ≠ 116#7 && (readReg s t k.toNat).poison then [{ tid := t, cause := 0x12 }]
  else match fragOf s t with
    | none => [{ tid := t, cause := 0x10 }]
    | some (_, f) =>
      let own := (keyIn? s t k).map keyOf = some (keyOf (fragKey f))
      if own ∧ f.registered ∧ !f.popped then [] else [{ tid := t, cause := 0x10 }]

/-- OCENTER: held at the sentence boundary until its fragment heads its key; no effect while it holds the clause. -/
def ocenterEff (k : BitVec 7) (s : State) (w : Wx) : Eff :=
  let act := w.act s
  match (act.map (ocenterFail s k)).flatten with
  | [] => .done ((act.filter fun t => !holdsClause s t).foldl (fun s t => s.modThr t fun x => { x with holds := x.holds ++ [.clause] }) s)
  | bad => .fail bad

/-- OCENTER (R228). -/
def execOcenter (g : BitVec 4) (k : BitVec 7) (s : State) : Out := runWord (.ocenter g k) s (ocenterEff k)

/-- A hold that is not the clause's. -/
def notClause : Hold → Bool
  | .clause => false
  | _ => true

/-- OCENTER_ENTRY: the fragment heads its key and the thread takes the clause, with the effect of FENCE.acq.core (R228, R229). -/
def execOcenterEntry (tid : Nat) (s : State) : Out :=
  let x := s.thr tid
  .next (match fragOf s tid with
    | none => s
    | some (id, f) =>
      if decide (x.picker = .held) && !x.holds.all notClause && headsKey s id f then
        let s1 := s.modFrag id fun f => { f with holding := true }
        releaseHolds (acqExpire s1 { kind := .acquire, scope := .core } tid) tid fun h => notClause h && awaitUnmet x h
      else s)

/-! Leaving the clause (R229). -/

/-- Pop the fragment of a thread, and release its clause. -/
def popFrag (s : State) (t : Nat) : State :=
  match (s.thr t).frag with
  | none => s
  | some f => s.modFrag f fun x => { x with popped := true, holding := false }

/-- The effect of FENCE.rel.core before a pop: the stores done and the CU's pins performed; what is left to wait for (R184,
R229). -/
def releaseFirst (s : State) (ts : List Nat) : Option State :=
  let ps := ts.filter (registeredNow s)
  if !ps.all (storesDone s) then some s
  else (ps.find? fun t => !(narrowPins s (wgOf t) .core).isEmpty).map fun t => performPins s (wgOf t) .core t

/-- OCLEAVE: held at issue until the release is done. -/
def ocleaveEff (s : State) (w : Wx) : Eff :=
  match releaseFirst s (w.act s) with
  | some s' => .hold s'
  | none => .done ((w.act s).foldl popFrag s)

/-- OCLEAVE (R229). -/
def execOcleave (g : BitVec 4) (s : State) : Out := runWord (.ocleave g) s ocleaveEff

/-- OCSKIP pops without the release (R229). -/
def execOcskip (g : BitVec 4) (s : State) : Out := runWord (.ocskip g) s fun s w => .done ((w.act s).foldl popFrag s)

/-! The end of threads (R133, R229, R232). -/

/-- The guard-true threads end, after the release that a pop needs; the others go on. -/
def endEff (drop : State → Nat → State) (s : State) (w : Wx) : Eff :=
  let act := w.act s
  match releaseFirst s act with
  | some s' => .hold s'
  | none =>
    let s1 := act.foldl drop (advance s w act)
    .gone (act.foldl exitThread (dropFromPipes s1 act))

/-- EXIT (R133). -/
def execExit (g : BitVec 4) (s : State) : Out := runWord (.exit g) s (endEff fun s _ => s)

/-- A discarded fragment writes nothing (R376). -/
def dropOutputs (s : State) (t : Nat) : State :=
  match (s.thr t).frag with
  | none => s
  | some f => s.modFrag f fun x => { x with discarded := true, outs := [] }

/-- DISCARD (R232). -/
def execDiscard (g : BitVec 4) (s : State) : Out := runWord (.discard g) s (endEff dropOutputs)

/-! PIXOUT and INTERP (R232). -/

/-- PIXOUT: the colour of a render target. -/
def pixoutEff (v : BitVec 7) (t : Nat) (s : State) (w : Wx) : Eff :=
  let act := w.act s
  match poisonFails s act (.quad v) with
  | [] => .done (act.foldl (fun s' u => match (s.thr u).frag with
      | none => s'
      | some f => s'.modFrag f fun x =>
          { x with outs := tput x.outs t ((upto 4).map fun i => (readReg s u (v.toNat + i)).val), label := x.label ||| w.label s (gidOf u) }) s)
  | bad => .fail bad

/-- PIXOUT (R232). -/
def execPixout (g : BitVec 4) (v t : BitVec 7) (s : State) : Out := runWord (.pixout g v t) s (pixoutEff v t.toNat)

/-- f32(a · b + c). -/
def ffma (a b c : Nat) : Nat := (f32.fma {} false false a b c).1

/-- A plane at a position: FFMA(a, x, FFMA(b, y, c)) (R232). -/
def planeAt (pl : List Word) (x y : Nat) : Nat :=
  let v := pl.map (·.toNat)
  ffma (arg v 0) x (ffma (arg v 1) y (arg v 2))

/-- The reciprocal, rounded. -/
def rcp (a : Nat) : Nat := (rcpF {} a).1

/-- The triangle of a fragment. -/
def triOf (s : State) (f : Frag) : Option Tri := ((tfind s.tris f.launch).getD []).find? fun t => t.seq == f.seq

/-- The centroid: the pixel centre where every sample is covered or there is one sample, else a place Vulkan leaves open (log
entry 31). -/
def centroidOf (p : Pass) (f : Frag) : Nat × Nat :=
  let c := fun n => (cvtIF f32 {} ((2 * n + 1 : Nat) : Int)).1
  if p.samples = 1 ∨ f.cov = 2 ^ p.samples - 1 then (fm (c f.x) 0x3F000000, fm (c f.y) 0x3F000000)
  else let q := Config.centroid f.x f.y f.cov; (q.1.toNat, q.2.toNat)

/-- INTERP's value in a lane (R232). -/
def interpValue (s : State) (mode slot t : Nat) : Nat :=
  match fragOf s t with
  | none => 0
  | some (_, f) =>
    match triOf s f, passOf s f.launch with
    | some tr, some (_, p) =>
      if (s.launch f.launch).nattr ≤ slot then (Config.noAttribute slot mode).toNat
      else
        let pos := if mode = 3 then centroidOf p f else (f.px.toNat, f.py.toNat)
        if mode = 2 then ((tr.flat[slot]?).getD 0).toNat
        else if mode = 1 then planeAt ((tr.lin[slot]?).getD []) pos.1 pos.2
        else fm (planeAt ((tr.attrs[slot]?).getD []) pos.1 pos.2) (rcp (planeAt tr.wplane pos.1 pos.2))
    | _, _ => 0

/-- INTERP (R232): synchronous, no flag. -/
def execInterp (g : BitVec 4) (d : BitVec 7) (m : BitVec 2) (l : BitVec 5) (s : State) : Out :=
  runWord (.interp g d m l) s fun s w =>
    .done (writeOuts s w (.r d) ((w.act s).map fun t => { tid := t, val := interpValue s m.toNat l.toNat t }) (w.label s))

end Sys2Proof.Machine
end

