-- ==== Sys2Proof/Machine/Place.lean ====
section
/-! DEFINITION. Placing workgroups: fit, domains, pairs, co-resident instances, transcripts, reservations (R42, R256, R257,
R262, R264, R295, R305, R341, R344, R371, R420, R432, R433). -/

namespace Sys2Proof.Machine

/-! The CUs of a partition. -/

/-- The partition owns the core, and it is enabled (R399, R454). -/
def ownsCore (s : State) (p c : Nat) : Bool := bit (s.part p).w1.toNat 63 && bit (s.part p).w0.toNat c && s.pkg.enabledCores.getLsbD c

/-- The cores of a partition, ascending. -/
def partCores (s : State) (p : Nat) : List Nat := (upto 32).filter (ownsCore s p)

/-- The CUs of a partition. -/
def partCus (s : State) (p : Nat) : List Nat := ((partCores s p).map fun c => (upto 8).map (8 * c + ·)).flatten

/-- The unit of a domain a CU lies in (R260, R261). -/
def domUnit (d cid : Nat) : Nat := if d ≤ 1 then cid else if d = 2 then cid / 8 else 0

/-- The workgroups of a context that hold resources of a CU. -/
def wgsOn (s : State) (vf cid : Nat) : List (Nat × Workgroup) :=
  s.wgs.filter fun e => decide (e.2.cid = cid) && !e.2.ended && decide (s.vfOf e.1 = vf)

/-- The bytes of the tile regions a CU holds (R371). -/
def regionsOn (s : State) (vf cid : Nat) : Nat :=
  (s.passes.filter fun e => decide (e.2.vf = vf) && e.2.tileMode).foldl (fun n e =>
    n + e.2.regionBytes * (e.2.tiles.filter fun t => decide (t.2.cid = cid) && t.2.loaded && !t.2.stored).length) 0

/-- A workgroup of a header fits a CU beside those on it (R262). -/
def fitsCu (s : State) (vf cid : Nat) (h : Header) : Bool :=
  let hs := h :: (wgsOn s vf cid).map (·.2.hdr)
  let sum := fun (f : Header → Nat) => hs.foldl (fun n x => n + f x) 0
  decide (sum (groupSum · fun _ => 1) ≤ 16) && decide (sum (groupSum · (·.vregs)) ≤ 1536) && decide (sum (groupSum · (·.oregs)) ≤ 256) &&
  decide (sum (·.spad) * 4096 + regionsOn s vf cid ≤ 262144) && decide (sum (·.ambanks) ≤ 32) && decide (sum (·.rings) ≤ 16)

/-- The workgroups a launch has placed, the pairs' antecedents only. -/
def placedWgs (s : State) (l : Nat) : List (Nat × Workgroup) :=
  s.wgs.filter fun e => decide (e.2.launch = l) && decide (e.2.mode ≠ .ana) && e.2.tile.isNone

/-- The CU lies in the unit that each level's instance of workgroup w has taken (R261). -/
def domainOk (s : State) (l w cid : Nat) : Bool :=
  let la := s.launch l
  let ws := placedWgs s l
  (upto (la.nlev + 1)).all fun k =>
    let u := unitsOf la k
    let d := ((la.levels[k]?).getD {}).domain
    ws.all fun e => decide (e.2.index / u ≠ w / u) || decide (domUnit d e.2.cid = domUnit d cid)

/-! Transcripts (R344). -/

/-- The CU a transcript entry names, where the partition has it. -/
def entryCu (s : State) (p e : Nat) : Option Nat :=
  if bits e 58 6 ≠ 0 then none else ((partCores s p)[bits e 53 5]?).map fun c => 8 * c + bits e 50 3

/-- The transcript entries of a launch. -/
def entriesOf (s : State) (la : Launch) (n : Nat) : List Nat := (upto n).map fun i => leNat (vaBytes s la.vf (la.tvec.toNat + 8 * i) 8)

/-- The numbers of devices and cores of a partition (R399). -/
def partShape (s : State) (p : Nat) : Nat × Nat := (bits (s.part p).w1.toNat 0 6 + 1, (partCores s p).length)

/-- The transcript does not bind: a wrong capacity, a CU outside the partition, or a partition with other numbers of devices or cores
than the recording run had (log entry 78). -/
def transcriptBad (s : State) (la : Launch) (total : Nat) : Bool :=
  decide (la.tcap ≠ total) || decide (Config.recordedShape la.vf la.tvec.toNat ≠ partShape s (s.partOf la.vf)) ||
  (entriesOf s la la.tcap).any fun e => (entryCu s (s.partOf la.vf) e).isNone

/-- The CU a binding transcript gives a workgroup, and whether every earlier entry of that CU is of a lower workgroup, which R264 has
placed before it. -/
def transcriptCu (s : State) (l w : Nat) : Option (Nat × Bool) :=
  let la := s.launch l
  let es := entriesOf s la la.tcap
  match es.find? fun e => decide (bits e 0 40 = w) with
  | none => none
  | some e => (entryCu s (s.partOf la.vf) e).map fun c =>
      (c, ((es.takeWhile fun x => decide (bits x 0 40 ≠ w)).filter fun x => entryCu s (s.partOf la.vf) x == some c).all fun x =>
        decide (bits x 0 40 < w))

/-- A binding transcript places the launch. -/
def bindsPlaces (la : Launch) : Bool := la.det && transcriptApplied la

/-- Workgroup w may take the CU as far as a transcript says (R344). -/
def entryAllows (s : State) (l w cid : Nat) : Bool := !bindsPlaces (s.launch l) || transcriptCu s l w == some (cid, true)

/-- Record a placement. -/
def recordPlacement (s : State) (l w cid : Nat) : Dev State :=
  let la := s.launch l
  if la.det && decide (la.tvec ≠ 0) && !la.treplay then
    if w < la.tcap then
      let core := ((partCores s (s.partOf la.vf)).filter fun c => decide (c < cid / 8)).length
      (devWriteAt s la.vf (la.tvec.toNat + 8 * w) (leBytes (core * 2 ^ 53 + cid % 8 * 2 ^ 50 + w) 8) la.label).map fun x => raiseLaunch x.1 l x.2
    else .ok (if w = la.tcap then detCause s l 0x04 0 else s)
  else .ok s

/-! Starting a workgroup (R42, R256, R257). -/

/-- The kind of a role. -/
def kindOf (k : Nat) : RoleKind := if k = 1 then .matrix else if k = 2 then .copy else .vector

/-- The roles of the groups in order of group index. -/
def groupRoles (h : Header) : List (Nat × Role) :=
  (((upto h.roles.length).zip h.roles).map fun e => (upto e.2.groups).map fun _ => (e.1, e.2)).flatten

/-- A group at launch. -/
def newGroup (wn role : Nat) (r : Role) (h : Header) (args : DWord) (dom : BitVec 8) : Group :=
  { wg := wn, role := role, kind := kindOf r.kind, vregs := r.vregs, oregs := r.oregs, retdepth := r.retdepth, threads := r.threads
    g := sset ({} : GCell) [] 0 { val := args }, dom := dom, tvec := h.tvec }

/-- A thread at launch. -/
def newThread (r : Role) (cycle : Nat) : Thread := { pc := r.entry, readyAt := cycle }

/-- The checkpointed part of a workgroup at launch (R175, R298). -/
def newMem (h : Header) : WgMem :=
  let m : WgMem := {
    rings := ((upto h.descs.length).zip h.descs).map fun e => (e.1, ({ desc := e.2, free := e.2.n } : Ring))
    copy := { ring := ((upto h.descs.length).zip h.descs).findSome? fun e => if e.2.copy then some e.1 else none }
    bars := (upto h.barriers).map fun b => (b, {}) }
  m

/-- Rings that declare remote puts. -/
def inboundRings (h : Header) : List (Nat × RingDesc) := ((upto h.descs.length).zip h.descs).filter fun e => e.2.inbound && !e.2.copy

/-- The workgroup of a launch on a CU that remote puts to a ring reach (R181): the lowest index. -/
def ringTarget (s : State) (l cid q : Nat) : Option Nat :=
  (s.wgs.filter fun e => decide (e.2.launch = l ∧ e.2.cid = cid) && !e.2.ended && (tfind e.2.mem.rings q).any fun r => r.desc.inbound).foldl
    (fun b e => match b with
      | none => some e.1
      | some w => if e.2.index < (s.wg w).index then some e.1 else b) none

/-- The report of a ring of a launch on a CU, to a CU: of the workgroup that remote puts reach, with an absent mark where there is none
(R181, R295). -/
def ringReport (s : State) (launch cid : Nat) (gen : Word) (q d : Nat) : State :=
  match ringTarget s launch cid q with
  | some x => sendReport s cid q d (s.ring x q).free (sget 0 (s.ring x q).served d) (s.wg x).gen false
  | none => sendReport s cid q d 0 0 gen true

/-- The reports to every CU of the core when a workgroup is placed or has ended (R295). Where several workgroups declare the ring, the
report that stands is that of the one R181 names (DEDUCED, log entry 77). -/
def ringReports (s : State) (w : Nat) : State :=
  let g := s.wg w
  (inboundRings g.hdr).foldl (fun s e => (upto 8).foldl (fun s i => ringReport s g.launch g.cid g.gen e.1 (g.cid / 8 * 8 + i)) s) s

/-- Place a workgroup: its number is the state's next (R257, R305, R433). The lanes of each group that start are given. -/
def startWg (s : State) (g : Workgroup) (h : Header) (args : DWord) (lanes : Nat → Role → List Nat) : State :=
  let wn := s.fresh
  let rs := (upto (groupRoles h).length).zip (groupRoles h)
  let dom := (s.ctx (s.launch g.launch).vf).dom
  let gs : Table Group := rs.map fun e => (wn * 16 + e.1, newGroup wn e.2.1 e.2.2 h args dom)
  let ts : Table Thread := (rs.map fun e => (lanes e.1 e.2.2).map fun i => ((wn * 16 + e.1) * 64 + i, newThread e.2.2 s.cycle)).flatten
  let m := newMem h
  let s1 := s.modCu g.cid fun u => { u with genCount := u.genCount + 1 }
  let w1 : Workgroup :=
    { g with hdr := h, gen := (s1.cu g.cid).genCount, mem := m, since := s.now.toNat
             shadow := if g.mode = .plain then none else some { threads := ts, groups := gs, mem := m } }
  let gs1 := gs.map fun e => (e.1, if ts.any (fun t => decide (t.1 / 64 = e.1)) then e.2 else { e.2 with done := true })
  ringReports
    { s1 with
      wgs := tput s1.wgs wn w1, groups := gs1.foldl (fun m e => tput m e.1 e.2) s1.groups
      threads := ts.foldl (fun m e => tput m e.1 e.2) s1.threads, fresh := s1.fresh + 1 } wn

/-- All lanes of a role. -/
def allLanes (_ : Nat) (r : Role) : List Nat := upto r.threads

/-- The workgroup is chosen for pairing (R420; log entry 16). -/
def chosenPair (la : Launch) (l w : Nat) : Bool :=
  la.paired && (decide (la.screen = 0) || decide (Config.screened l w % la.screen = 0))

/-- An anaphor may run on a CU (R420). -/
def anaOk (s : State) (l cid ana : Nat) : Bool :=
  let la := s.launch l
  let p := s.partOf la.vf
  (partCus s p).contains ana && (if (partCores s p).length = 1 then decide (ana ≠ cid) else decide (ana / 8 ≠ cid / 8)) &&
    fitsCu s la.vf ana la.header

/-- Place workgroup w of a launch on a CU, and its anaphor: none where one of them does not fit. -/
def putWg (s : State) (l w cid ana : Nat) : Option State :=
  let la := s.launch l
  let base : Workgroup := { launch := l, index := w, cid := cid, textab := la.header.textab, samptab := la.header.samptab, astab := la.header.astab }
  if !(fitsCu s la.vf cid la.header && domainOk s l w cid) then none
  else if chosenPair la l w then
    let a := s.fresh
    let s1 := startWg s { base with mode := .ante } la.header la.args allLanes
    if !anaOk s1 l cid ana then none
    else
      let b := s1.fresh
      let s2 := startWg s1 { base with mode := .ana, cid := ana, twin := some a } la.header la.args allLanes
      some ((s2.modWg a fun g => { g with twin := some b }).modCtx la.vf fun c => { c with injectCount := 0 })
  else some (startWg s { base with mode := if la.ckpt || la.paired then .ckpt else .plain } la.header la.args allLanes)

/-- Place a workgroup on the first CU of a list that takes it, with its anaphor on the first that takes that. -/
def putFirst (s : State) (l w : Nat) (cus anas : List Nat) : Option State :=
  cus.findSome? fun c => (if chosenPair (s.launch l) l w then anas else [0]).findSome? fun a => putWg s l w c a

/-- The units of a domain in a list of CUs. -/
def unitsIn (d : Nat) (cus : List Nat) : List (List Nat) :=
  (dedup (cus.map (domUnit d))).map fun u => cus.filter fun c => domUnit d c == u

/-- An instance of level k whose first workgroup is w, placed first fit inside one unit of its domain (R261, R264). Its workgroups
are alike, so it fits exactly where this finds places. -/
def putInstance (l : Nat) (la : Launch) (anas : List Nat) : Nat → State → Nat → List Nat → Option State
  | 0, s, w, cus =>
    let e := (la.levels[0]?).getD {}
    (unitsIn e.domain cus).findSome? fun u => (upto e.count).foldl (fun o i => o.bind fun s => putFirst s l (w + i) u anas) (some s)
  | k + 1, s, w, cus =>
    let e := (la.levels[k + 1]?).getD {}
    (unitsIn e.domain cus).findSome? fun u =>
      (upto e.count).foldl (fun o i => o.bind fun s => putInstance l la anas k s (w + i * unitsOf la k) u) (some s)

/-- The highest co-resident level. -/
def coLevel (la : Launch) : Option Nat := ((upto (la.nlev + 1)).filter fun k => ((la.levels[k]?).map (·.cores)).getD false).getLast?

/-- Workgroups that are placed together. -/
def batchSize (la : Launch) : Nat := match coLevel la with | some k => unitsOf la k | none => 1

/-- The launch holds no work of other launches: for what would fit with no other work present. -/
def State.emptied (s : State) : State := { s with wgs := [], passes := [] }

/-- A co-resident level fits its domain in the empty partition (R262). -/
def levelFits (s : State) (l k : Nat) : Bool :=
  let la := s.launch l
  let cus := partCus s (s.partOf la.vf)
  decide (unitsOf la k ≤ 16 * cus.length) && (putInstance l { la with paired := false } [] k { s.emptied with launches := tmod s.launches l fun x => { x with paired := false, det := false } } 0 cus).isSome

/-- The launch is being placed: admitted, its context resident and not being pre-empted (R402, R406). -/
def placing (s : State) (l : Nat) : Bool :=
  let la := s.launch l
  let c := s.ctx la.vf
  decide (la.phase = .admitted) && c.resident && c.preempting.isNone && decide (la.next < la.total) && bit c.binding.toNat 63

/-- Places for the next workgroup of a launch, or for its next co-resident instance whole, on CUs of a list: those its transcript names,
else the first that fit. None where it does not fit. -/
def tryPlaces (s : State) (l : Nat) (cus : List Nat) : Option State :=
  let la := s.launch l
  if bindsPlaces la then
    (upto (batchSize la)).foldl (fun o i => o.bind fun s1 => match transcriptCu s l (la.next + i) with
      | some (c, true) => if cus.contains c then putFirst s1 l (la.next + i) [c] cus else none
      | _ => none) (some s)
  else match coLevel la with
    | none => putFirst s l la.next cus cus
    | some k => putInstance l la cus k s la.next cus

/-- The launch's next workgroup, or its co-resident instance, fits CUs of a list now. -/
def fitsAmong (s : State) (l : Nat) (cus : List Nat) : Bool := (tryPlaces s l cus).isSome

/-- The launch's next workgroup fits a CU now. -/
def nextFits (s : State) (l : Nat) : Bool := fitsAmong s l (partCus s (s.partOf (s.launch l).vf))

/-! Fragment workgroups (R375, R376, R379), resolve workgroups (R391). -/

/-- The fragments of a draw in a tile that are not launched yet. -/
def unlaunched (s : State) (l tile : Nat) : List (Nat × Frag) :=
  s.frags.filter fun e => decide (e.2.launch = l ∧ e.2.tile = tile) && e.2.tid.isNone

/-- The earlier draws of the pass have been binned and have no fragment of the tile left to launch (R376). -/
def fragTurn (s : State) (p : Pass) (l tile : Nat) : Bool :=
  (p.draws.takeWhile (· ≠ l)).all fun d => (s.launch d).binned && (unlaunched s d tile).isEmpty

/-- The fragments registered on a CU (R379). -/
def clauseCount (s : State) (vf cid : Nat) : Nat :=
  (s.frags.filter fun e => decide ((s.launch e.2.launch).vf = vf) && e.2.registered && !e.2.popped && !e.2.ended && decide (e.2.cu = cid)).length

/-- The last fragment of the tile in the pass has ended and is written; the pass is closed. -/
def tileDone (s : State) (p : Pass) (tile : Nat) : Bool :=
  p.closed && p.draws.all (fun d => (s.launch d).binned) && !s.frags.any fun e =>
    decide (e.2.tile = tile) && p.draws.contains e.2.launch

/-- The pass has a resolve kernel. -/
def Pass.resolves (p : Pass) : Bool := decide (recN p.record 0x28 6 ≠ 0)

/-- A tile's resolve workgroup is to be placed. -/
def resolveWaits (s : State) (la : Launch) (p : Pass) (tile : Nat) : Bool :=
  la.endDraw && p.resolves && tileDone s p tile && (tfind p.tiles tile).isSome && (p.tile tile).resolve.isNone

/-- The context of a launch runs, and its fragment launcher may start a unit, or goes on with one (R377, R402, R406). -/
def shadingOn (s : State) (la : Launch) (mid : Bool) : Bool :=
  let c := s.ctx la.vf
  decide (la.phase = .admitted) && c.resident && (c.preempting.isNone || mid)

/-- A workgroup of a draw that waits for a place: the CUs it may take, its header, and whether its fragments are registered. -/
structure Spot where
  cus : List Nat
  hdr : Header
  clause : Bool
  deriving DecidableEq, Repr

/-- The fragment and resolve workgroups of a draw that wait for a place (R342, R376, R391). -/
def spotsOf (s : State) (l : Nat) : List Spot :=
  let la := s.launch l
  match passOf s l with
  | none => []
  | some (_, p) =>
    if !(la.binned && shadingOn s la false) then []
    else
      let tiles := dedup ((s.frags.filter fun e => decide (e.2.launch = l) && e.2.tid.isNone).map (·.2.tile))
      ((tiles.filter (fragTurn s p l)).map fun t => { cus := [(p.tile t).cid], hdr := la.fragHdr, clause := la.clause }) ++
      (((p.tiles.map (·.1)).filter (resolveWaits s la p)).map fun t =>
        { cus := if p.tileMode then [(p.tile t).cid] else partCus s (s.partOf la.vf), hdr := p.resolveHdr, clause := false })

/-- A waiting workgroup of a draw fits one of its CUs that a condition admits. -/
def spotFits (s : State) (vf : Nat) (ok : Nat → Bool) (x : Spot) : Bool :=
  x.cus.any fun c => ok c && fitsCu s vf c x.hdr && (!x.clause || decide (clauseCount s vf c < 4096))

/-! Which launch places next (R341, R342). -/

/-- A workgroup of the launch waits for a place. -/
def waitsToPlace (s : State) (l : Nat) : Bool := placing s l || !(spotsOf s l).isEmpty

/-- A workgroup of the launch that waits for a place fits one now. -/
def workFits (s : State) (l : Nat) : Bool :=
  (placing s l && nextFits s l) || (spotsOf s l).any (spotFits s (s.launch l).vf fun _ => true)

/-- The cores on which the next workgroup or instance of a launch would fit with no other work present; under a transcript those its
entries name (R341). -/
def nextCores (s : State) (l : Nat) : List Nat :=
  let la := s.launch l
  let cores := partCores s (s.partOf la.vf)
  let e := s.emptied
  let inUnit := fun c => (upto 8).any fun i => domainOk s l la.next (8 * c + i)
  if bindsPlaces la then (upto (batchSize la)).filterMap fun i => (transcriptCu s l (la.next + i)).map (·.1 / 8)
  else match coLevel la with
    | some k => if ((la.levels[k]?).getD {}).domain ≤ 2 then
        cores.filter fun c => inUnit c && (putInstance l la (partCus s (s.partOf la.vf)) k e la.next ((upto 8).map (8 * c + ·))).isSome
      else cores
    | none => cores.filter fun c => (upto 8).any fun i => fitsCu e la.vf (8 * c + i) la.header && domainOk s l la.next (8 * c + i)

/-- The cores a reservation keeps (R341, R342). -/
def reservedCores (s : State) (l : Nat) : List Nat :=
  (if placing s l then nextCores s l else []) ++
  ((spotsOf s l).map fun x => (x.cus.filter fun c => fitsCu s.emptied (s.launch l).vf c x.hdr).map (· / 8)).flatten

/-- A launch ranks before another: a higher priority, or the same and eligible earlier (R341). -/
def ranksBefore (a b : Launch) : Bool := decide (b.prio < a.prio) || (decide (a.prio = b.prio) && decide (a.eligible < b.eligible))

/-- Other launches of the context. -/
def othersOf (s : State) (l : Nat) : List (Nat × Launch) := s.launches.filter fun e => decide (e.1 ≠ l) && decide (e.2.vf = (s.launch l).vf)

/-- A reservation of another launch of equal or higher priority keeps the core; of two launches that both hold one, the one that
ranks first goes on (R341; log entry 49). -/
def keptByOther (s : State) (l core : Nat) : Bool :=
  let la := s.launch l
  (othersOf s l).any fun e =>
    e.2.reserved && decide (la.prio ≤ e.2.prio) && !(la.reserved && ranksBefore la e.2) && (reservedCores s e.1).contains core

/-- The CUs of the partition that no other launch's reservation keeps. -/
def freeCus (s : State) (l : Nat) : List Nat :=
  let cus := partCus s (s.partOf (s.launch l).vf)
  let kept := (dedup (cus.map (· / 8))).filter (keptByOther s l)
  cus.filter fun c => !kept.contains (c / 8)

/-- Another launch comes first: it ranks before, and a workgroup of it that waits fits where reservations let it (R341, R342). -/
def comesFirst (s : State) (l : Nat) : Bool :=
  (othersOf s l).any fun e => ranksBefore e.2 (s.launch l) &&
    ((placing s e.1 && fitsAmong s e.1 (freeCus s e.1)) || (spotsOf s e.1).any (spotFits s e.2.vf fun c => !keptByOther s e.1 (c / 8)))

/-- A launch has placed a workgroup: its wait and its reservation are over (R341). -/
def State.placedOne (s : State) (l : Nat) : State := s.modLaunch l fun x => { x with waitSince := none, reserved := false }

/-- The waits for a place, as they stand when time passes: from the first tick without fitting (R341). -/
def noteWaits (s : State) : State :=
  { s with launches := tmap s.launches fun l la =>
    if la.phase ≠ .admitted then la
    else if waitsToPlace s l && !workFits s l then { la with waitSince := some (la.waitSince.getD s.now) }
    else { la with waitSince := none } }

/-- Place the workgroups of a launch from w on, each on the CU named for it, its anaphor on the one named for that. -/
def placeEach (l : Nat) : State → Nat → List Nat → List Nat → Option State
  | s, _, [], _ => some s
  | s, w, c :: cus, anas => (putWg s l w c (anas.headD 0)).bind fun s1 => placeEach l s1 (w + 1) cus anas.tail

/-- Place the next workgroup of a launch, or its next co-resident instance whole, on the CUs named: any that fit, in one unit of each
level's domain, that a transcript and the reservations of others allow (R264, R341, R344). -/
def placeNext (s : State) (l : Nat) (cus anas : List Nat) : Dev State :=
  let la := s.launch l
  let free := freeCus s l
  let ws := ((upto cus.length).map (la.next + ·)).zip cus
  if cus.length ≠ batchSize la ∨ anas.length ≠ cus.length ∨ !cus.all free.contains ∨
      !(ws.zip anas).all (fun e => !chosenPair la l e.1.1 || free.contains e.2) ∨ !ws.all (fun e => entryAllows s l e.1 e.2) then .error .held
  else match placeEach l s la.next cus anas with
    | none => .error .held
    | some s1 => (ws.foldl (fun (o : Dev State) e => o.bind fun s => recordPlacement s l e.1 e.2) (.ok s1)).map fun s2 =>
        (s2.modLaunch l fun x => { x with next := x.next + cus.length }).placedOne l

/-- Places that the next workgroup or instance of a launch can take now, with its anaphors'. -/
def choosePlaces (s : State) (l : Nat) : Option (List Nat × List Nat) :=
  (tryPlaces s l (freeCus s l)).map fun t =>
    let la := s.launch l
    let ws := (upto (batchSize la)).map fun i =>
      ((placedWgs t l).find? fun e => decide (e.2.index = la.next + i)).map (·.2)
    (ws.map fun g => (g.map (·.cid)).getD 0, ws.map fun g => ((g.bind (·.twin)).map fun b => (t.wg b).cid).getD 0)

end Sys2Proof.Machine
end

