-- ==== Sys2Proof/Machine/Queues.lean ====
section
/-! DEFINITION. Queues, events, eligibility, admission of launches and draws, and the end of a launch (R262, R263, R333 to
R344, R348, R367 to R372, R392, R428, R441, R457). -/

namespace Sys2Proof.Machine

/-! Draws at admission (R367 to R372). -/

/-- A queue of a context. -/
def State.queue (s : State) (vf q : Nat) : Queue := (tfind (s.ctx vf).queues q).getD {}

/-- Change a queue. -/
def State.modQueue (s : State) (vf q : Nat) (f : Queue → Queue) : State :=
  s.modCtx vf fun c => { c with queues := tput c.queues q (f (s.queue vf q)) }

/-- The VF is bound (R401). -/
def vfBound (s : State) (vf : Nat) : Bool := bit (s.ctx vf).binding.toNat 63

/-- The launch is taken as a draw: its queue has an open pass, or its first argument word has begin = 1 (R367). -/
def takenAsDraw (s : State) (la : Launch) : Bool :=
  (s.queue la.vf la.queue).pass.isSome || bit (vaByte s la.vf (la.args.toNat + 7)).toNat 6

/-- The draw header, as its 32 bytes. -/
def drawHead (s : State) (la : Launch) : List Byte := if la.requeued then la.argCopy.take 32 else vaBytes s la.vf la.args.toNat 32

/-- The open pass of the launch's queue. -/
def openPass (s : State) (la : Launch) : Option (Nat × Pass) :=
  (s.queue la.vf la.queue).pass.bind fun p => (s.pass? p).map fun x => (p, x)

/-- The pass of a draw: the open one, or as its record says. -/
def drawPass (s : State) (la : Launch) : Pass :=
  match openPass s la with
  | some (_, p) => p
  | none =>
    let rc := vaBytes s la.vf (recN (drawHead s la) 0 6) 256
    let rk := recN rc 0x28 6
    parsePass la.vf la.queue la.label rc (if rk = 0 then {} else headerAt s la.vf rk)

/-- The pipeline-state record of a draw that is being admitted. -/
def drawPsr (s : State) (la : Launch) : List Byte := vaBytes s la.vf (recN (drawHead s la) 0x08 6) 128

/-- The fragment kernel header's VA. -/
def drawFrag (s : State) (la : Launch) : Nat := recN (drawPsr s la) 0x08 6
/-- The resolve kernel header's VA: 0 for none. -/
def drawResolve (s : State) (la : Launch) : Nat := recN (drawPass s la).record 0x28 6

/-- The draw header breaks R367: a field of its own, or its place in the pass. -/
def drawHeadBad (s : State) (la : Launch) : Bool :=
  let h := drawHead s la
  let w := recN h 0 8
  decide (bits w 48 14 ≠ 0) || decide (bits w 0 8 ≠ 0) || decide (recN h 0x08 6 % 128 ≠ 0) || decide (recN h 0x0E 2 ≠ 0) ||
  decide (recN h 0x10 6 % 16 ≠ 0) || decide (recN h 0x16 2 ≠ 0) || decide (2 ^ 24 ≤ recN h 0x18 4) || decide (recN h 0x1C 4 ≠ 0) ||
  match openPass s la with
    | some (_, q) => bit w 62 || decide (recN h 0 6 ≠ q.va)
    | none => !bit w 62

/-- Code 0x06 of a draw: records and headers out of reach (R262, R370, R372). -/
def drawFar (s : State) (la : Launch) : Bool :=
  let h := drawHead s la
  ((openPass s la).isNone && !devReadable s la.vf (recN h 0 6) 256) || !devReadable s la.vf (recN h 0x08 6) 128 ||
  headerFar s la.vf (drawFrag s la) || (decide (drawResolve s la ≠ 0) && headerFar s la.vf (drawResolve s la))

/-- Code 0x02 of a draw: the fragment or resolve kernel header (R372). -/
def drawHeaderBad (s : State) (la : Launch) : Bool :=
  headerBad s la.vf (drawFrag s la) || (decide (drawResolve s la ≠ 0) && headerBad s la.vf (drawResolve s la))

/-- Code 0x08 of a draw: its header, its place in the pass, its records, its fragment kernel, its tile region (R367 to R372). -/
def drawBad (s : State) (la : Launch) : Bool :=
  let h := drawHead s la
  let p := drawPass s la
  let f := headerAt s la.vf (drawFrag s la)
  let r := drawResolve s la
  drawHeadBad s la || ((openPass s la).isNone && passBad p.record) ||
  psrBad (drawPsr s la) || decide (2 ^ 32 - 1 < p.seq + recN h 0x18 4) ||
  !(match f.roles with | [x] => decide (x.kind = 0) | _ => false) ||
  (p.tileMode && decide (262144 < p.regionBytes + 4096 * max f.spad (if r = 0 then 0 else (headerAt s la.vf r).spad)))

/-- The heads of a pass in immediate mode take their defaults (R381). -/
def initHeads (s : State) (id : Nat) (p : Pass) : Dev State :=
  if p.lists && !p.tileMode then
    (upto p.keys).foldl (fun (o : Dev State) i => o.bind fun s =>
      placeWrite s id (headPlace p 0 i) (leBytes (p.dbudget * 2 ^ 28 + 0xFFFFFF) 4 ++ leBytes p.drule 4) p.label) (.ok s)
  else .ok s

/-- A begin draw opens its pass: each tile gets its CU in cyclic order (R367, R371). -/
def beginPass (s : State) (la : Launch) : Dev (State × Nat) :=
  let cus := partCus s (s.partOf la.vf)
  let id := s.fresh
  let p0 := drawPass s la
  let p := { p0 with
    va := recN (drawHead s la) 0 6
    tiles := (upto p0.ntiles).map fun i => (i, ({ cid := (cus[i % max 1 cus.length]?).getD 0 } : TileState)) }
  let s1 := { s with passes := tput s.passes id p, fresh := id + 1 }
  (initHeads s1 id p).map fun s2 => (s2.modQueue la.vf la.queue fun q => { q with pass := some id }, id)

/-- A draw is admitted (R367 to R369). -/
def admitDraw (s : State) (l : Nat) (la : Launch) : Dev State :=
  let h := drawHead s la
  let psr := drawPsr s la
  let f := headerAt s la.vf (drawFrag s la)
  let opened : Dev (State × Nat) := match openPass s la with
    | some (id, _) => .ok (s, id)
    | none => beginPass s la
  opened.map fun e =>
  let s1 := e.1
  let id := e.2
  let n := recN h 0x18 4
  let base := ((s1.pass? id).map (·.seq)).getD 0
  let last := bit (recN h 0 8) 63
  let s2 := s1.modPass id fun p => { p with seq := p.seq + n, draws := p.draws ++ [l], closed := last }
  let s3 := if last then s2.modQueue la.vf la.queue fun q => { q with pass := none } else s2
  s3.modLaunch l fun x => { x with pass := some id, draw := h ++ psr, seqBase := base, ntri := n, endDraw := last, fragHdr := f }

/-! Admission (R262). -/

/-- The bytes of the argument block that admission reads. -/
def argBytes (s : State) (la : Launch) : Nat := if la.replay then 256 else if takenAsDraw s la then 32 else 8

/-- The refusal of a launch, with its level: the first failing code in table order (R262). -/
def refusal (s : State) (l : Nat) (la : Launch) : Option (Nat × Nat) :=
  let k := recN la.record 0 6
  let h := headerAt s la.vf k
  let draw := takenAsDraw s la
  let groups := groupSum h fun _ => 1
  let writable := fun (r : List DWord) => permits { wr := true } r
  if la.slotBad || headerFar s la.vf k ||
      (decide (la.status ≠ 0) && !spanAll s la.vf la.status.toNat (if la.det then 64 else 8) writable) ||
      !devReadable s la.vf la.args.toNat (argBytes s la) || (draw && drawFar s la) then some (0x06, 0)
  else if recordBad s la then some (0x01, 0)
  else if headerBad s la.vf k || (draw && drawHeaderBad s la) then some (0x02, 0)
  else match (upto (la.nlev + 1)).find? (shapeBad la groups) with
    | some i => some (0x05, i)
    | none =>
      if !fitsEmpty h then some (0x03, 0)
      else match ((upto (la.nlev + 1)).filter fun i => ((la.levels[i]?).getD {}).cores).find?
          (fun i => !levelFits (s.modLaunch l fun x => { x with header := h }) l i) with
        | some i => some (0x04, i)
        | none => if draw && drawBad s la then some (0x08, 0) else none

/-- The device reads what a draw's admission reads: its header, its records, the kernel headers they name (R367, R370, R372). -/
def drawTouch (s : State) (la : Launch) : Dev State :=
  let h := drawHead s la
  (devTouch s la.vf (recN h 0 6) 256).bind fun s =>
  (devTouch s la.vf (recN h 0x08 6) 128).bind fun s =>
  (headerTouch s la.vf (drawFrag s la)).bind fun s =>
  if drawResolve s la = 0 then .ok s else headerTouch s la.vf (drawResolve s la)

/-- The device reads a determinism block and a transcript that is to bind (R343, R344). -/
def detTouch (s : State) (la : Launch) : Dev State :=
  if !la.det then .ok s
  else (devTouch s la.vf la.status.toNat 64).bind fun s =>
    let blk := vaBytes s la.vf la.status.toNat 64
    if bit (recN blk 0x10 8) 63 && decide (recN blk 0x08 6 ≠ 0) && decide (recN blk 0x10 4 = totalOf la) then
      devTouch s la.vf (recN blk 0x08 6) (8 * totalOf la)
    else .ok s

/-- The device reads what admission reads: pins performed, pages backed (R262). -/
def admitTouch (s : State) (la : Launch) : Dev State :=
  (headerTouch s la.vf (recN la.record 0 6)).bind fun s =>
  (devTouch s la.vf la.args.toNat (argBytes s la)).bind fun s =>
  (detTouch s la).bind fun s => if takenAsDraw s la then drawTouch s la else .ok s

/-- A launch is admitted: header, workgroups, determinism block, draw (R262, R343, R344, R367, R428). -/
def admitLaunch (s : State) (l : Nat) (la : Launch) : Dev State :=
  let h := headerAt s la.vf (recN la.record 0 6)
  let blk := if la.det then vaBytes s la.vf la.status.toNat 64 else []
  let total := totalOf la
  let la1 :=
    { la with
      header := h, phase := .admitted, total := total, tvec := d64 (recN blk 0x08 6), treplay := la.det && bit (recN blk 0x10 8) 63
      tcap := recN blk 0x10 4, logva := d64 (recN blk 0x18 6), logbytes := recN blk 0x20 4, eligible := s.fresh, waitSince := none
      argCopy := if la.requeued then la.argCopy else if la.replay then vaBytes s la.vf la.args.toNat 256 else [] }
  let bad := la1.treplay && decide (la1.tvec ≠ 0) && transcriptBad s la1 total
  let s1 := { s with fresh := s.fresh + 1 }.modLaunch l fun _ => { la1 with tskip := bad }
  let s2 := if bad then detCause s1 l 0x05 0 else s1
  if takenAsDraw s2 la then admitDraw s2 l la else .ok s2

/-! The end of a launch (R263, R334, R339, R392, R428). -/

/-- The shadows of a replayable launch replace their pages (R428). -/
def commitShadows (s : State) (l : Nat) : State :=
  let s1 := (s.launch l).shadowPages.foldl (fun s e =>
    { s with mem := e.2.foldl (fun m c => sset 0 m c.1 c.2) (s.mem.filter fun c => decide (c.1 / 65536 ≠ e.1)) }) s
  s1.modLaunch l fun x => { x with shadowPages := [] }

/-- The status word (R263). -/
def statusWord (code level done : Nat) : Nat := code * 2 ^ 56 + level * 2 ^ 48 + done % 2 ^ 48

/-- The launch ends or is refused: status word, then set mask (R263, R339). -/
def endLaunch (s : State) (l code level : Nat) (phase : LaunchPhase) : Dev State :=
  let la := s.launch l
  let s1 := if la.replay then commitShadows s l else s
  let o := if la.status = 0 then .ok s1 else devWrite s1 la.vf la.status.toNat (leBytes (statusWord code level la.doneWgs) 8) la.label
  o.map fun s2 => (s2.modLaunch l fun x => { x with phase := phase, code := code }).modCtx la.vf fun c => { c with events := c.events ||| la.set }

/-- The device writes its consumer index (R334). -/
def writeCon (s : State) (vf q : Nat) : Dev State :=
  devWrite s vf (bits (s.queue vf q).w1.toNat 4 44 * 16 + 8) (leBytes (s.queue vf q).con.toNat 8) 0

/-! Queues (R333 to R340). -/

/-- Slots of a queue; 0 disables it (R333). -/
def queueSlots (q : Queue) : Nat := let k := bits q.w1.toNat 52 4; if k = 0 ∨ 12 < k then 0 else 2 ^ k

/-- The queue is enabled. -/
def queueOn (q : Queue) : Bool := bit q.w1.toNat 63 && decide (queueSlots q ≠ 0)

/-- Disable a queue: a head that is not eligible stays in its slot (R333). -/
def disableQueue (s : State) (vf q : Nat) : State :=
  let keep := match (s.queue vf q).head with
    | some l => if (s.launch l).requeued then [l] else []
    | none => []
  let s1 := match (s.queue vf q).head with
    | some l => if (s.launch l).requeued then s else { s with launches := tdel s.launches l }
    | none => s
  s1.modQueue vf q fun x => { x with w1 := x.w1 &&& 0x7FFFFFFFFFFFFFFF#64, head := none, again := keep ++ x.again }

/-- Queue scheduling is host-assisted (R449). -/
def assisted (s : State) (vf k : Nat) : Bool := bit (s.part (s.partOf vf)).mode.toNat k

/-- A queue whose head can be read (R336), or holds a launch queued again (R428). -/
def headFree (s : State) (vf q : Nat) : Bool :=
  let x := s.queue vf q
  queueOn x && x.head.isNone && (!x.again.isEmpty || decide (x.con ≠ x.prod))

/-- The device reads the head record, once (R336). -/
def readHead (s : State) (vf q : Nat) : Dev State :=
  let x := s.queue vf q
  let va := bits x.w0.toNat 8 40 * 256 + x.con.toNat % queueSlots x * 256
  (devTouch s vf va 256).map fun s1 =>
    let bad := !devReadable s1 vf va 256
    let la := parseRecord vf q x.con.toNat (d64 va) bad (if bad then 0 else vaLabel s1 vf va) (if bad then [] else vaBytes s1 vf va 256)
    ({ s1 with launches := tput s1.launches s1.fresh la, fresh := s1.fresh + 1 }).modQueue vf q fun x => { x with head := some s1.fresh }

/-- The queue takes its next head: a launch queued again first (R428). -/
def takeHead (s : State) (vf q : Nat) : Dev State :=
  match (s.queue vf q).again with
  | l :: r => .ok (s.modQueue vf q fun x => { x with head := some l, again := r })
  | [] => readHead s vf q

/-- Launches of a context that are eligible and not yet ended (R340). -/
def eligibleCount (s : State) (vf : Nat) : Nat := (s.launches.filter fun e => decide (e.2.vf = vf) && decide (e.2.phase = .admitted)).length

/-- The heads whose wait masks the event vector contains. -/
def candidates (s : State) (vf : Nat) : List (Nat × Nat) :=
  (upto 16).filterMap fun q => match (s.queue vf q).head with
    | none => none
    | some l => if (s.launch l).wait &&& ~~~(s.ctx vf).events = 0 then some (q, l) else none

/-- Where a queue stands in the cyclic order of a priority (R338). -/
def turnOf (s : State) (vf q prio : Nat) : Nat := (q + 31 - sget 15 (s.ctx vf).lastQueue prio) % 16

/-- The candidate that is taken next (R338). -/
def nextCandidate (s : State) (vf : Nat) : Option (Nat × Nat) :=
  ((candidates s vf).filter fun e => !assisted s vf 2 || (s.launch e.2).accepted).foldl (fun b e =>
    match b with
    | none => some e
    | some x =>
      let p := (s.launch e.2).prio; let r := (s.launch x.2).prio
      if r < p ∨ (r = p ∧ turnOf s vf e.1 p < turnOf s vf x.1 r) then some e else some x) none

/-- A candidate becomes eligible and is admitted or refused, once every access of the device that this takes can be made (R262, R334,
R338). -/
def takeCandidate (s : State) (vf q l : Nat) : Dev State :=
  let la := s.launch l
  let s1 := s.modCtx vf fun c => { c with events := c.events &&& ~~~la.clear, lastQueue := tput c.lastQueue la.prio q }
  (admitTouch s1 la).bind fun s2 =>
    let s3 := s2.modQueue vf q fun x => { x with head := none, con := if la.requeued then x.con else x.con + 1 }
    match refusal s3 l la with
    | some (code, level) => (endLaunch s3 l code level .refused).bind fun s4 => writeCon s4 vf q
    | none => admitLaunch s3 l la

/-- The candidates a host-assisted context has not reported yet (R342). -/
def unasked (s : State) (vf : Nat) : List (Nat × Nat) := if assisted s vf 2 then (candidates s vf).filter fun e => !(s.launch e.2).asked else []

/-- One change of the queues: a head is read, a candidate reported, a candidate taken. -/
def queueStep (s : State) (vf : Nat) : Dev State :=
  match (upto 16).find? (headFree s vf) with
  | some q => takeHead s vf q
  | none => match unasked s vf with
    | (_, l) :: _ => .ok (postVf (s.modLaunch l fun x => { x with asked := true }) vf { type := 5, reply := true, detail := d64 l })
    | [] => if 64 ≤ eligibleCount s vf then .error .held
      else match nextCandidate s vf with
        | some e => takeCandidate s vf e.1 e.2
        | none => .error .held

/-- The event unit passes over the heads until nothing changes (R338). -/
def settle (vf : Nat) : Nat → State → State
  | 0, s => s
  | n + 1, s => match queueStep s vf with
    | .error e => devWaits s e
    | .ok s' => settle vf n s'

/-- Passes of one step: more than the changes of every slot of every queue of a context, with a launch queued again for each. -/
def passLimit : Nat := 2 ^ 20

/-- The event unit's pass after a step (R338); none while every partition is held in reset (R458). -/
def eventPass (s : State) (vf : Nat) : State := if s.pkg.hotReset then s else settle vf passLimit s

/-- The partition is in PL0 and not held in reset (R334, R457, R458). -/
def partAwake (s : State) (p : Nat) : Bool := decide ((s.part p).power = 0) && !s.pkg.hotReset

/-- The partition of a VF is awake. -/
def awake (s : State) (vf : Nat) : Bool := partAwake s (s.partOf vf)

/-! Accesses of the host ports: each port's take effect in the order the port receives them (R290, R337, R441). -/

/-- The host port of a VF (R401). -/
def portOf (vf : Nat) : Nat := vf / 192

/-- The VF of a host access. -/
def HostAcc.vf : HostAcc → Nat
  | .doorbell v _ | .eventSet v _ _ | .eventClear v _ _ | .queueWrite v _ _ _ | .preempt v _ | .causes v _ | .counters v _ | .register v _ _
  | .bar2Read v _ _ | .bar2Write v _ _ _ => v
  | .flit _ _ _ _ => 0

/-- The port an access came by: 0 and 1 the host ports, the Basor ports after them. -/
def HostAcc.port : HostAcc → Nat
  | .flit _ p _ _ => 2 + p
  | a => portOf a.vf

/-- The partition whose exit an access begins, where it does (R457). -/
def wakes (s : State) (a : HostAcc) : Option Nat :=
  match a with
  | .doorbell v _ | .eventSet v _ _ | .bar2Read v _ _ | .bar2Write v _ _ _ => some (s.partOf v)
  | .flit p _ _ _ => some p
  | .eventClear _ _ _ | .queueWrite _ _ _ _ | .preempt _ _ | .causes _ _ | .counters _ _ | .register _ _ _ => none

/-- No access of the port waits, and the partition that the access needs is awake. -/
def portReady (s : State) (l : List HostAcc) (a : HostAcc) : Bool :=
  !l.any (fun b => decide (b.port = a.port)) && (wakes s a).all (partAwake s)

/-- An access waits; it begins its partition's exit, or its wait is over with the partition's next step out of waiting (R457). -/
def waitForExit (s : State) (a : HostAcc) : State :=
  let s1 := s.modPkg fun k => { k with waiting := k.waiting ++ [a] }
  match wakes s a with
  | some p => s1.modPart p fun q => { q with waking := true }
  | none => s1

/-- An access of a port: it has its effect, or waits in the port's order (R290, R337, R441, R457). -/
def portStep (s : State) (a : HostAcc) (d : Dev State) : State :=
  if portReady s s.pkg.waiting a then
    match d with
    | .ok s' => s'
    | .error e => waitForExit (devWaits s e) a
  else waitForExit s a

/-- The device reads a producer index with an acquire at sys scope (R334, R335). -/
def readProducer (s : State) (vf q : Nat) : Dev State :=
  let x := s.queue vf q
  let va := bits x.w1.toNat 4 44 * 16
  if !(queueOn x && vfBound s vf) then .ok s
  else (devTouch s vf va 8).map fun s1 =>
    if !devReadable s1 vf va 8 then s1
    else
      let p := d64 (leNat (vaBytes s1 vf va 8))
      if queueSlots x < (p - x.con).toNat then disableQueue s1 vf q
      else eventPass (s1.modQueue vf q fun y => { y with prod := p }) vf

/-- A doorbell is acted on. -/
def doorbell (s : State) (vf : Nat) (data : DWord) : Dev State := readProducer s vf (bits data.toNat 0 4)

/-- DOORBELL_WRITE (R334, R441). -/
def execDoorbellWrite (vf : Nat) (data : BitVec 64) (s : State) : Out := .next (portStep s (.doorbell vf data) (doorbell s vf data))

/-- QUEUE_POLL: in PL0 only (R334). -/
def execQueuePoll (vf queue : Nat) (s : State) : Out :=
  .next (if awake s vf ∧ queue < 16 then devStep s (readProducer s vf queue) else s)

/-- A write to a queue descriptor word: while enabled, word 0 is fixed and word 1 changes only en; enabling reads the consumer index
(R333, R334). -/
def writeQueue (s : State) (vf queue word : Nat) (data : DWord) : Dev State :=
  let q := s.queue vf queue
  let on := bit q.w1.toNat 63
  if 16 ≤ queue then .ok s
  else if word = 0 then
    .ok (if on then s else s.modQueue vf queue fun x => { x with w0 := data &&& 0x0000FFFFFFFFFF00#64 })
  else if word = 1 then
    if on then .ok (if bit data.toNat 63 then s else disableQueue s vf queue)
    else if !bit data.toNat 63 then .ok s
    else
      let w1 := data &&& 0x80F7FFFFFFFFFFF0#64
      let s1 := s.modQueue vf queue fun x => { x with w1 := w1 }
      let va := bits w1.toNat 4 44 * 16 + 8
      (devTouch s1 vf va 8).map fun s2 =>
        let c := if devReadable s2 vf va 8 then d64 (leNat (vaBytes s2 vf va 8)) else 0
        s2.modQueue vf queue fun x => { x with con := c, prod := c }
  else .ok s

/-- QUEUE_DESCRIPTOR_WRITE (R333, R334, R441). -/
def execQueueDescriptorWrite (vf queue word : Nat) (data : BitVec 64) (s : State) : Out :=
  .next (portStep s (.queueWrite vf queue word data) (writeQueue s vf queue word data))

/-! The event vector (R337, R441). -/

/-- A word of the event vector. -/
def eventWord (word : Nat) (data : DWord) : BitVec 256 := data.zeroExtend 256 <<< (64 * word)

/-- A write to event-set. -/
def setEvents (s : State) (vf word : Nat) (data : DWord) : State :=
  eventPass (s.modCtx vf fun c => { c with events := c.events ||| eventWord word data }) vf

/-- A write to event-clear. -/
def clearEvents (s : State) (vf word : Nat) (data : DWord) : State :=
  s.modCtx vf fun c => { c with events := c.events &&& ~~~eventWord word data }

/-- EVENT_SET_WRITE (R337, R338). -/
def execEventSetWrite (vf word : Nat) (data : BitVec 64) (s : State) : Out :=
  .next (if 4 ≤ word then s else portStep s (.eventSet vf word data) (.ok (setEvents s vf word data)))

/-- EVENT_CLEAR_WRITE (R337). -/
def execEventClearWrite (vf word : Nat) (data : BitVec 64) (s : State) : Out :=
  .next (if 4 ≤ word then s else portStep s (.eventClear vf word data) (.ok (clearEvents s vf word data)))

/-- A write to the cause summary: 1 to ovf clears every entry and the summary (R348). -/
def clearCauses (s : State) (vf : Nat) (data : DWord) : State :=
  if bit data.toNat 63 then s.modCtx vf fun c => { c with causes := [], causeOvf := false } else s

/-- CAUSE_SUMMARY_WRITE (R348). -/
def execCauseSummaryWrite (vf : Nat) (data : BitVec 64) (s : State) : Out :=
  .next (portStep s (.causes vf data) (.ok (clearCauses s vf data)))

/-! Placement (R341). -/

/-- WORKGROUP_PLACEMENT: the next workgroup, or co-resident instance, of the launch that comes first, on the CUs named; after the last,
the consumer index (R264, R334, R341). -/
def execWorkgroupPlacement (launch : Nat) (cus anas : List Nat) (s : State) : Out :=
  .next (if !placing s launch || comesFirst s launch then s
  else devStep s ((placeNext s launch cus anas).bind fun s1 =>
    let la := s1.launch launch
    if la.next < la.total then .ok s1 else writeCon s1 la.vf la.queue))

/-- PLACEMENT_RESERVATION: after 20 000 ticks without fitting (R341, R342). -/
def execPlacementReservation (launch : Nat) (s : State) : Out :=
  .next (match (s.launch launch).waitSince with
    | none => s
    | some t =>
      if waitsToPlace s launch && decide (20000 ≤ (s.now - t).toNat) && !workFits s launch then
        s.modLaunch launch fun x => { x with reserved := true }
      else s)

/-! The end of a workgroup (R257, R306). -/

/-- Earlier stores of a thread that a release among a commit's entries waits for. -/
def priorStores (s : State) (id t : Nat) : List Nat := (earlierStores s t).filter fun i => decide (i < id)

/-- An entry of the buffer leaves it: stores and atomics on their way, releases held, puts sent, commands published
(R417, R418 step 3, R421). -/
def releaseEntry (s : State) (r : Retained) : State :=
  match tfind s.accs r.acc with
  | none => s
  | some a0 =>
    let a := { a0 with data := r.data, sentAt := s.now.toNat }
    match a.kind with
    | .ringPut =>
      let b := { a with retained := false }
      sendPut (s.modAcc r.acc fun _ => b) r.acc b
    | .special => s.modAcc r.acc fun _ => { a with stage := .held, retained := false }
    | _ => s.modAcc r.acc fun _ =>
        if isRel a.order then { a with stage := .held, after := priorStores s r.acc a.tid } else { a with stage := .issued }

/-- An anaphor's entry is discarded: it completes without effect (R421). -/
def discardEntry (s : State) (r : Retained) : State :=
  match tfind s.accs r.acc with
  | none => s
  | some a =>
    if a.kind = .special then (a.aux.drop 1).foldl (fun s t => s.modThr t (octDown .copy)) (s.delAcc r.acc)
    else completeStore s r.acc a

/-- What a halted workgroup has issued and kept back: its stores, atomics and copies still complete (R257); a pair's, which the other
member has not confirmed, have no effect (R421, R423). -/
def dischargeHalted (s : State) (w : Nat) : State :=
  let g := s.wg w
  if !g.halted then s
  else
    let s1 := s.modWg w fun x => { x with retained := [] }
    g.retained.foldl (fun s r => if isPaired g.mode then discardEntry s r else releaseEntry s r) s1

/-- The outbound work of a workgroup has finished (R306 step 1): every command published to its copy ring is completed, those behind a
stop too (log entry 44). -/
def outboundDone (s : State) (w : Nat) : Bool :=
  let m := (s.wg w).mem
  (m.copy.ring.isNone || decide (m.copy.pub = m.copy.con)) && !(s.cmds.any fun e => decide (e.2.wg = w)) &&
  !(s.accs.any fun e => decide (wgOf e.2.tid = w) && decide (e.2.kind = .ringPut ∨ e.2.kind = .special)) &&
  m.rings.all (fun e => e.2.puts.isEmpty) &&
  !(s.mxops.any fun e => e.2.members.any fun g => decide (g / 16 = w))

/-- The pins a workgroup holds are performed (R163, R306 step 2). -/
def dropPins (s : State) (w : Nat) : State :=
  let cid := (s.wg w).cid
  [32 + cid, cid / 8].foldl (fun s h => ((pinsOf s h).filter fun p => p.heldBy w).foldl (fun s p => performPin s h p (some p.tid)) s) s

/-- A bank of the workgroup is freed (R217, R306 step 4). -/
def freeBanks (s : State) (w : Nat) : State :=
  s.modCu (s.wg w).cid fun u => { u with banks := u.banks.filter fun e => bankHolder e.2.state != some w }

/-- The generation retires, banks, rings and scratchpad are released (R306 steps 3 to 5). -/
def retireWg (s : State) (w : Nat) : State :=
  let g := s.wg w
  let queued := (g.mem.rings.map fun e => e.2.inbound).flatten
  let s1 := s.modWg w fun x => { x with ended := true, mem := {}, shadow := none, retained := [], endAt := none }
  let s2 := ringReports s1 w
  queued.foldl (fun s e => completePut s e true) (freeBanks s2 w)

/-- A draw's last fragment is written, and the end draw's pass has ended (R368, R392). -/
def drawDone (s : State) (l : Nat) : Bool :=
  match passOf s l with
  | none => true
  | some (_, p) =>
    let la := s.launch l
    la.binned && !(s.frags.any fun e => decide (e.2.launch = l)) && (!la.endDraw || p.ended)

/-- Every workgroup of a launch has been placed and has ended. -/
def allEnded (s : State) (l : Nat) : Bool :=
  decide ((s.launch l).next = (s.launch l).total) && s.wgs.all fun e => decide (e.2.launch ≠ l) || e.2.ended

/-- The workgroups of a launch. -/
def wgsOfLaunch (s : State) (l : Nat) : List Nat := (s.wgs.filter fun e => decide (e.2.launch = l)).map (·.1)

/-- Everything written for a launch has completed, and device time has passed it: what a store-release at sys scope waits for (R161, R263,
R285). -/
def launchDrained (s : State) (l : Nat) : Bool :=
  let past := fun (v : DWord) => decide (v = 0) || decide (v < s.now)
  let mine := fun (t : Nat) => decide ((s.wg (wgOf t)).launch = l)
  s.accs.all (fun e => !mine e.2.tid || decide (classOf e.2.kind ≠ some .store)) && s.threads.all (fun e => !mine e.1 || past e.2.wct) &&
  past (s.launch l).wct && past (((passOf s l).map fun p => p.2.wct).getD 0)

/-- The launch ends where it can: the logs first, one entry at a time, then status and set mask, and the pass over the heads
(R263, R338, R345). -/
def tryFinish (s : State) (l : Nat) : State :=
  let la := s.launch l
  if !(decide (la.phase = .admitted) && allEnded s l && drawDone s l) then s
  else match nextLog s (wgsOfLaunch s l) with
    | some (w, e) => applyLog s w e
    | none =>
      if !launchDrained s l then s
      else
        let press := la.endDraw && decide (la.code = 0) && ((passOf s l).map fun p => p.2.pressure).getD false
        match endLaunch s l la.code (ofBool press) .ended with
        | .ok s1 => eventPass s1 la.vf
        | .error e => devWaits s e

/-- A workgroup has ended: counted, but for anaphors and the workgroups of a draw's tiles. -/
def countEnd (s : State) (w : Nat) : State :=
  let g := s.wg w
  if g.mode = .ana || g.tile.isSome then s else s.modLaunch g.launch fun l => { l with doneWgs := l.doneWgs + 1 }

/-- WORKGROUP_END, and the end of the launch with its last (R257, R263, R306). -/
def execWorkgroupEnd (wg : Nat) (s : State) : Out :=
  let g := s.wg wg
  .next (if (tfind s.wgs wg).isNone then s
  else if g.ended then tryFinish s g.launch
  else if !(liveWg s wg).isEmpty || !(decide (g.mode = .plain) || g.halted || g.final) then s
  else
    let s0 := dischargeHalted s wg
    if !outboundDone s0 wg then s0
    else tryFinish (countEnd (retireWg (dropPins s0 wg) wg) wg) g.launch)

end Sys2Proof.Machine
end

