-- ==== Sys2Proof/Machine/Raster.lean ====
section
/-! DEFINITION. The raster engine: reading the primitive buffer, clipping, the viewport, planes, coverage, fragments (R368, R369,
R373 to R375). -/

namespace Sys2Proof.Machine

/-! Numbers. A finite FP32 value is an integer times 2^-149; homogeneous positions are integers. -/

/-- A finite FP32 value in units of 2^-149; none for NaN and infinities. -/
def fixed (x : Nat) : Option Int :=
  match f32.value x with
  | .fin s m e => some (if s then -((m * 2 ^ (e + 149).toNat : Nat) : Int) else (m * 2 ^ (e + 149).toNat : Nat))
  | _ => none

/-- n / d rounded to an integer, ties to even. -/
def rneDiv (n : Int) (d : Nat) : Int :=
  let q := n / d
  let r := (n % d).toNat
  if 2 * r < d ∨ (2 * r = d ∧ q % 2 = 0) then q else q + 1

/-- The FP32 nearest to n / d. -/
def ratioF (n : Int) (d : Nat) : Nat :=
  if n = 0 then 0
  else (f32.round {} (.num (decide (n < 0)) (n.natAbs * 2 ^ 400 / d) (-400) (decide (n.natAbs * 2 ^ 400 % d ≠ 0)))).1

/-! The primitive buffer (R369). -/

/-- The device can read a span and none of it has failed. -/
def cleanSpan (s : State) (vf va n : Nat) : Bool :=
  devReadable s vf va n && !(spanPoints va n 64).any fun a => match rangeOf s vf (d64 a) with
    | some (_, r) => spanBad s (spaceOf r) (iaOf r (d64 a)) (min (a / 64 * 64 + 64) (va + n) - a)
    | none => true

/-- A vertex record, where it can be read and its position is finite. -/
def vertexAt (s : State) (vf va stride nattr : Nat) : Option Vertex :=
  if !cleanSpan s vf va stride then none
  else
    let bs := vaBytes s vf va (16 + 4 * nattr)
    let w := fun k => w32 (recN bs (4 * k) 4)
    let p := (upto 4).map w
    if p.all fun x => (fixed x.toNat).isSome then some { pos := p, attrs := (upto nattr).map fun i => w (4 + i) } else none

/-! Clipping (R373: the Vulkan view volume), in homogeneous integers x, y, z, w. -/

/-- A homogeneous position. -/
abbrev HPoint := List Int

/-- Component k. -/
def hc (p : HPoint) (k : Nat) : Int := (p[k]?).getD 0

/-- The distances of a position from the six planes of the view volume. -/
def planeDist (p : HPoint) : Nat → Int
  | 0 => hc p 3 - hc p 0
  | 1 => hc p 3 + hc p 0
  | 2 => hc p 3 - hc p 1
  | 3 => hc p 3 + hc p 1
  | 4 => hc p 2
  | _ => hc p 3 - hc p 2

/-- Where an edge crosses a plane. -/
def crossAt (k : Nat) (a b : HPoint) : HPoint :=
  let da := (planeDist a k).natAbs
  let db := (planeDist b k).natAbs
  (a.zip b).map fun e => e.1 * db + e.2 * da

/-- The points of one edge that a plane keeps. -/
def clipEdge (k : Nat) (a b : HPoint) : List HPoint :=
  let ina := decide (0 ≤ planeDist a k); let inb := decide (0 ≤ planeDist b k)
  (if ina then [a] else []) ++ if ina = inb then [] else [crossAt k a b]

/-- A polygon clipped by one plane. -/
def clipPlane (k : Nat) (l : List HPoint) : List HPoint := ((l.zip (l.tail ++ l.take 1)).map fun e => clipEdge k e.1 e.2).flatten

/-- A polygon clipped by the view volume, but for points with w = 0. -/
def clipAll (l : List HPoint) : List HPoint := ((upto 6).foldl (fun l k => clipPlane k l) l).filter fun p => decide (0 < hc p 3)

/-! The viewport (R372, R373). -/

/-- Word k of the viewport: x, y, width, height, minimum and maximum depth. -/
def Launch.vp (la : Launch) (k : Nat) : Nat := recN la.psrec (0x28 + 4 * k) 4

/-- A word of the viewport in units of 2^-149. -/
def vpFixed (la : Launch) (k : Nat) : Int := (fixed (la.vp k)).getD 0

/-- Window x and y of a position, snapped to 1/256 pixel (R373). -/
def windowXy (la : Launch) (p : HPoint) : Int × Int :=
  let w := hc p 3
  let at_ := fun k => rneDiv (256 * (2 * vpFixed la k * w + (hc p k + w) * vpFixed la (k + 2))) (2 * w.toNat * 2 ^ 149)
  (at_ 0, at_ 1)

/-- Window depth of a position as an FP32 value: the viewport transform, rounded once (log entry 32). -/
def windowZ (la : Launch) (p : HPoint) : Nat :=
  let w := hc p 3
  ratioF (vpFixed la 4 * w + hc p 2 * (vpFixed la 5 - vpFixed la 4)) (w.toNat * 2 ^ 149)

/-! Setup (R374). -/

/-- A plane from three window positions and three values. -/
def planeOf (xs ys f : List Nat) : List Word :=
  let x := arg xs; let y := arg ys
  let e1x := fs (x 1) (x 0); let e1y := fs (y 1) (y 0); let e2x := fs (x 2) (x 0); let e2y := fs (y 2) (y 0)
  let r := rcp (fs (fm e1x e2y) (fm e2x e1y))
  let d1 := fs (arg f 1) (arg f 0); let d2 := fs (arg f 2) (arg f 0)
  let a := fm (fs (fm d1 e2y) (fm d2 e1y)) r
  let b := fm (fs (fm d2 e1x) (fm d1 e2x)) r
  [w32 a, w32 b, w32 (fs (arg f 0) (fa (fm a (x 0)) (fm b (y 0))))]

/-- The window positions x, y, z that planes are formed from: of the three vertices; free where a vertex has w at or below 0 (log
entry 27). -/
def setupWindow (la : Launch) (vs : List Vertex) : List (List Nat) :=
  let hs : List HPoint := vs.map fun v => v.pos.map fun x => (fixed x.toNat).getD 0
  if hs.all fun p => decide (0 < hc p 3) then
    hs.map fun p => let (x, y) := windowXy la p; [ratioF x 256, ratioF y 256, windowZ la p]
  else Config.clippedWindow (vs.map fun v => v.pos.map (·.toNat))

/-- A triangle after setup. -/
def setupTri (la : Launch) (seq : Nat) (vs : List Vertex) (front : Bool) : Tri :=
  let win := setupWindow la vs
  let xs := win.map (arg · 0); let ys := win.map (arg · 1)
  let rw := vs.map fun v => rcp ((v.pos[3]?).getD 0).toNat
  let val := fun (k : Nat) => vs.map fun (v : Vertex) => ((v.attrs[k]?).getD 0).toNat
  { seq := seq
    zplane := planeOf xs ys (win.map (arg · 2)), wplane := planeOf xs ys rw
    attrs := (upto la.nattr).map fun k => planeOf xs ys (((val k).zip rw).map fun e => fm e.1 e.2)
    lin := (upto la.nattr).map fun k => planeOf xs ys (val k)
    flat := ((vs.head?).map (·.attrs)).getD [], front := front }

/-! Coverage (R373): the standard sample locations, the top-left rule, in 1/256 pixel. -/

/-- The locations of the samples of a pixel, in 1/16 pixel (Vulkan's standard locations). -/
def sampleSpots (n : Nat) : List (Nat × Nat) :=
  match n with
  | 1 => [(8, 8)]
  | 2 => [(12, 12), (4, 4)]
  | 4 => [(6, 2), (14, 6), (2, 10), (10, 14)]
  | _ => [(9, 5), (7, 11), (13, 9), (5, 3), (3, 13), (1, 7), (11, 15), (15, 1)]

/-- Twice the signed area of a triangle of window points: positive for clockwise on the screen (y grows down). -/
def area2 (a b c : Int × Int) : Int := (b.1 - a.1) * (c.2 - a.2) - (c.1 - a.1) * (b.2 - a.2)

/-- A point lies on the inner side of an edge of a clockwise triangle, or on a top or left edge. -/
def insideEdge (a b p : Int × Int) : Bool :=
  let e := area2 a b p
  decide (0 < e) || (decide (e = 0) && (decide (b.2 < a.2) || (decide (a.2 = b.2) && decide (a.1 < b.1))))

/-- A triangle covers a point. -/
def coversPoint (a b c p : Int × Int) : Bool :=
  let d := area2 a b c
  if 0 < d then insideEdge a b p && insideEdge b c p && insideEdge c a p
  else decide (d < 0) && insideEdge a c p && insideEdge c b p && insideEdge b a p

/-- The triangles of a polygon, as a fan. -/
def fanOf : List (Int × Int) → List ((Int × Int) × (Int × Int) × (Int × Int))
  | a :: r => (r.zip r.tail).map fun e => (a, e.1, e.2)
  | [] => []

/-- Twice the area of a polygon. -/
def polyArea (l : List (Int × Int)) : Int := (fanOf l).foldl (fun n e => n + area2 e.1 e.2.1 e.2.2) 0

/-- The mask of the samples of a pixel that a polygon covers. -/
def coverMask (l : List (Int × Int)) (n x y : Nat) : Nat :=
  ((upto n).zip (sampleSpots n)).foldl (fun m e =>
    let p : Int × Int := (256 * (x : Int) + 16 * (e.2.1 : Int), 256 * (y : Int) + 16 * (e.2.2 : Int))
    if (fanOf l).any fun t => coversPoint t.1 t.2.1 t.2.2 p then m + 2 ^ e.1 else m) 0

/-- The least and greatest pixel of a list of coordinates, kept in bounds: from, and past the end. -/
def pixelSpan (l : List Int) (lo hi : Nat) : Nat × Nat :=
  let mn := l.foldl (fun m x => if x < m then x else m) (l.headD 0)
  let mx := l.foldl (fun m x => if m < x then x else m) (l.headD 0)
  (max lo (mn / 256).toNat, min hi ((mx / 256).toNat + 1))

/-- The clip-space polygon of a triangle in window points. -/
def windowPolygon (la : Launch) (vs : List Vertex) : List (Int × Int) :=
  (clipAll (vs.map fun v => v.pos.map fun x => (fixed x.toNat).getD 0)).map (windowXy la)

/-- The triangle faces front (R372: cw; Vulkan's facing by signed area). -/
def facesFront (la : Launch) (l : List (Int × Int)) : Bool :=
  if bit (recN la.psrec 0 1) 3 then decide (0 < polyArea l) else decide (polyArea l < 0)

/-- Culling (R372). -/
def culled (la : Launch) (front : Bool) : Bool := if front then bit (recN la.psrec 0 1) 5 else bit (recN la.psrec 0 1) 4

/-- Every pixel of the box of a polygon, in the scissor rectangle and the render target: row by row. -/
def boxPixels (la : Launch) (p : Pass) (l : List (Int × Int)) : List (Nat × Nat) :=
  let sc := fun o => recN la.psrec (0x40 + o) 2
  let (x0, x1) := pixelSpan (l.map (·.1)) (sc 0) (min p.width (sc 4))
  let (y0, y1) := pixelSpan (l.map (·.2)) (sc 2) (min p.height (sc 6))
  ((upto (y1 - y0)).map fun j => (upto (x1 - x0)).map fun i => (x0 + i, y0 + j)).flatten

/-- The FP32 window position of a sample, or of the pixel centre when not shading per sample (R375). -/
def samplePos (p : Pass) (x y k : Nat) : Nat × Nat :=
  let e := if p.perSample then ((sampleSpots p.samples)[k]?).getD (8, 8) else (8, 8)
  let f := fun n o => (cvtIF f32 {} ((16 * n + o : Nat) : Int)).1
  (fm (f x e.1) 0x3D800000, fm (f y e.2) 0x3D800000)

/-- A fragment of a triangle. -/
def fragAt (la : Launch) (l : Nat) (p : Pass) (tr : Tri) (lbl : Label) (x y k cov : Nat) : Frag :=
  let (px, py) := samplePos p x y k
  { launch := l, tile := p.tileAt x y, x := x, y := y, sample := k, seq := tr.seq, cov := cov, front := tr.front, px := w32 px, py := w32 py
    depth := w32 (planeAt tr.zplane px py), label := lbl ||| la.label }

/-- The fragments of a triangle: one for each pixel, or for each covered sample (R375). -/
def triFrags (la : Launch) (l : Nat) (p : Pass) (tr : Tri) (lbl : Label) (poly : List (Int × Int)) : List Frag :=
  ((boxPixels la p poly).map fun (e : Nat × Nat) =>
    let m := coverMask poly p.samples e.1 e.2
    if m = 0 then []
    else if p.perSample then ((upto p.samples).filter (bit m)).map fun k => fragAt la l p tr lbl e.1 e.2 k (2 ^ k)
    else [fragAt la l p tr lbl e.1 e.2 0 m]).flatten

/-- A triangle of a draw: its setup and fragments; nothing where a vertex cannot be read or is not finite, where the viewport is not
finite, or where it is culled (R369, R373). -/
def triAt (s : State) (la : Launch) (l : Nat) (p : Pass) (t : Nat) : Option (Tri × List Frag) :=
  let stride := recN la.psrec 0x04 2
  let base := recN la.draw 0x10 6 + 3 * t * stride
  let vs := (upto 3).filterMap fun k => vertexAt s la.vf (base + k * stride) stride la.nattr
  if vs.length ≠ 3 ∨ (upto 6).any (fun k => (fixed (la.vp k)).isNone) then none
  else
    let poly := windowPolygon la vs
    let front := facesFront la poly
    if culled la front then none
    else
      let tr := setupTri la (la.seqBase + t) vs front
      some (tr, triFrags la l p tr (spanLabel s la.vf base (3 * stride)) poly)

/-- The triangles of a draw are read and binned (R368, R369). -/
def rasterBin (s : State) (l : Nat) (p : Pass) : Dev State :=
  let la := s.launch l
  (if la.ntri = 0 then .ok s else devTouch s la.vf (recN la.draw 0x10 6) (3 * la.ntri * recN la.psrec 0x04 2)).map fun s0 =>
  let out := (upto la.ntri).filterMap (triAt s0 la l p)
  let ts : List Tri := out.map (·.1)
  let s1 : State := (out.map (·.2)).flatten.foldl (fun s f => { s with frags := tput s.frags s.fresh f, fresh := s.fresh + 1 }) s0
  let s2 : State := { s1 with tris := tput s1.tris l ts }
  s2.modLaunch l fun x => { x with binned := true }

/-- RASTER_BIN: once the draw's workgroups have ended (R368). -/
def execRasterBin (launch : Nat) (s : State) : Out :=
  let la := s.launch launch
  .next (match passOf s launch with
    | none => s
    | some (_, p) =>
      if decide (la.phase = .admitted) && !la.binned && allEnded s launch then devStep s ((rasterBin s launch p).map fun s1 => tryFinish s1 launch) else s)

end Sys2Proof.Machine
end

