-- ==== Sys2Proof/Machine/Draws.lean ====
section
/-! DEFINITION. Fragment workgroups, depth and stencil tests, blending and output, resolve workgroups, tile stores (R371 to R379,
R391, R392). -/

namespace Sys2Proof.Machine

/-! Depth and stencil (R372, R373). -/

/-- A comparison in VkCompareOp order, on whether the new value is below or equal to the stored one. -/
def compareOp (op : Nat) (lt eq nan : Bool) : Bool :=
  match op with
  | 0 => false
  | 1 => lt
  | 2 => eq
  | 3 => lt || eq
  | 4 => !lt && !eq && !nan
  | 5 => !eq
  | 6 => !lt && !nan
  | _ => true

/-- A depth comparison of FP32 values. -/
def depthOp (op a b : Nat) : Bool :=
  compareOp op (fLt a b) (!fNan a && !fNan b && !fLt a b && !fLt b a) (fNan a || fNan b)

/-- A stencil operation in VkStencilOp order. -/
def stencilOp (op ref old : Nat) : Nat :=
  match op with
  | 0 => old
  | 1 => 0
  | 2 => ref
  | 3 => min 255 (old + 1)
  | 4 => old - 1
  | 5 => 255 - old
  | 6 => (old + 1) % 256
  | _ => (old + 255) % 256

/-- The word of depth and stencil state. -/
def Launch.ds (la : Launch) : Nat := recN la.psrec 0x48 4

/-- The depth of a fragment, clamped to the viewport's (R373). -/
def testDepth (la : Launch) (f : Frag) : Nat := fClamp (la.vp 4) (la.vp 5) f.depth.toNat

/-- The tests of one sample, with their writes. A plane the pass does not have is not tested. -/
def testSample (s : State) (id : Nat) (p : Pass) (la : Launch) (f : Frag) (k : Nat) : Dev (State × Bool) :=
  let w := la.ds
  let x := recN la.psrec 0x4C 3
  let (ref, mask, wm) := (bits x 0 8, bits x 8 8, bits x 16 8)
  let dp := depthPlace p f.x f.y k
  let sp := stencilPlace p f.x f.y k
  let stOn := p.sten && bit w 5
  let dOn := p.dep && bit w 0
  (if stOn then placeTouch s p sp 1 else .ok s).bind fun s =>
  (if dOn then placeTouch s p dp 4 else .ok s).bind fun s =>
    let st := leNat (placeRead s p sp 1).1
    let z := testDepth la f
    let sPass := !stOn || compareOp (bits w 6 3) (decide (bits ref 0 8 &&& mask < st &&& mask)) (decide (ref &&& mask = st &&& mask)) false
    let dPass := !dOn || depthOp (bits w 2 3) z (leNat (placeRead s p dp 4).1)
    let op := if !sPass then bits w 9 3 else if dPass then bits w 12 3 else bits w 15 3
    let new := (stencilOp op ref st &&& wm) ||| (st &&& (255 - wm))
    (if stOn ∧ new ≠ st then placeWrite s id sp (leBytes new 1) f.label else .ok s).bind fun s =>
    (if dOn && sPass && dPass && bit w 1 then placeWrite s id dp (leBytes z 4) f.label else .ok s).map fun s => (s, sPass && dPass)

/-- The tests of a fragment's samples: the samples that pass. -/
def testFrag (s : State) (id : Nat) (la : Launch) (f : Frag) : Dev (State × Nat) :=
  ((upto 8).filter (bit f.cov)).foldl (fun (o : Dev (State × Nat)) k => o.bind fun e => match e.1.pass? id with
    | none => .ok e
    | some p => (testSample e.1 id p la f (if p.perSample then f.sample else k)).map fun r => (r.1, if r.2 then e.2 + 2 ^ k else e.2)) (.ok (s, 0))

/-! Fragment workgroups (R375, R376). -/

/-- The order of fragments in a tile: sequence, quad row, quad, sample, lane (R376). -/
def fragOrder (f : Frag) : List Nat := [f.seq, f.y / 2, f.x / 2, f.sample, f.y % 2 * 2 + f.x % 2]

/-- Insert in the order of a tile. -/
def insertFrag (e : Nat × Frag) : List (Nat × Frag) → List (Nat × Frag)
  | [] => [e]
  | x :: r => if keyBefore (fragOrder e.2) (fragOrder x.2) then e :: x :: r else x :: insertFrag e r

/-- The quad of a fragment. -/
def quadKey (f : Frag) : List Nat := (fragOrder f).take 4

/-- Number the fragments of a list by quads. -/
def numberQuads : Nat → Option (List Nat) → List (Nat × Frag) → List (Nat × Nat × Frag)
  | _, _, [] => []
  | q, last, e :: r =>
    let q' := if last = some (quadKey e.2) ∨ last = none then q else q + 1
    (q', e.1, e.2) :: numberQuads q' (some (quadKey e.2)) r

/-- The next fragments of a draw in a tile: the first quads, within the tile-work unit (R377). -/
def nextFrags (s : State) (p : Pass) (l tile quads : Nat) : List (Nat × Frag) :=
  let all := (unlaunched s l tile).foldl (fun m e => insertFrag e m) []
  (((numberQuads 0 none all).filter fun e => decide (e.1 < quads)).map (·.2)).take (p.tilework - (p.tile tile).unit)

/-- The early tests of fragments in order: those that survive keep the samples that pass (R376). -/
def earlyTests (s : State) (id : Nat) (la : Launch) : List (Nat × Frag) → Dev (State × List (Nat × Frag))
  | [] => .ok (s, [])
  | e :: r =>
    if la.late then (earlyTests s id la r).map fun o => (o.1, e :: o.2)
    else (testFrag s id la e.2).bind fun o =>
      (earlyTests o.1 id la r).map fun o' => (o'.1, if o.2 = 0 then o'.2 else (e.1, { e.2 with cov := o.2 }) :: o'.2)

/-- The registers of a fragment thread at launch (R375). -/
def fragRegs (f : Frag) : Table Cell :=
  let ws : List Word := [w32 (fragKey f), f.px, f.py, f.depth, w32 f.seq, w32 (f.cov + ofBool f.front * 256)]
  ((upto 6).zip ws).foldl (fun m e => sset {} m e.1 { val := e.2 }) []

/-- Place a fragment workgroup of the surviving fragments (R375, R378). -/
def placeFrags (s : State) (l tile : Nat) (cid : Nat) (fs : List (Nat × Frag)) : State :=
  let la := s.launch l
  let th := ((la.fragHdr.roles.head?).map (·.threads)).getD 64
  let qpg := max 1 (th / 4)
  let lanes := (numberQuads 0 none fs).map fun e => (e.1 / qpg, e.1 % qpg * 4 + e.2.2.y % 2 * 2 + e.2.2.x % 2, e.2.1, e.2.2)
  let wn := s.fresh
  let base : Workgroup :=
    { launch := l, index := (Config.tileIndex wn).toNat, cid := cid, tile := some tile, mode := if la.ckpt || la.paired then .ckpt else .plain
      textab := d64 (recN la.psrec 0x10 6), samptab := d64 (recN la.psrec 0x18 6), astab := d64 (recN la.psrec 0x20 6) }
  let s1 := startWg s base la.fragHdr la.args fun gi _ => sortNat ((lanes.filter fun e => decide (e.1 = gi)).map (·.2.1))
  let s2 := lanes.foldl (fun s e =>
    let tid := (wn * 16 + e.1) * 64 + e.2.1
    let s' := s.modThr tid fun x => { x with regs := fragRegs e.2.2.2, frag := some e.2.2.1 }
    let f : Frag := e.2.2.2
    s'.modFrag e.2.2.1 fun _ => { f with tid := some tid, registered := la.clause, cu := cid }) s1
  s2.modWg wn fun g => { g with shadow := g.shadow.map fun h => { h with threads := s2.threads.filter fun e => decide (e.1 / 1024 = wn) } }

/-- Count fragments of a tile-work unit: a full unit, or the draw's last fragment in the tile, ends it (R377). -/
def countUnit (s : State) (id : Nat) (p : Pass) (l tile n : Nat) : State :=
  let u := (p.tile tile).unit + n
  s.modTile id tile fun x => { x with unit := if p.tilework ≤ u ∨ (unlaunched s l tile).isEmpty then 0 else u }

/-- Launch the next quads of a draw in a tile: none where the workgroup does not fit. -/
def launchQuads (s : State) (id : Nat) (p : Pass) (l tile quads : Nat) : Dev State :=
  let la := s.launch l
  let cid := (p.tile tile).cid
  let role := (la.fragHdr.roles.head?).getD {}
  let fs := nextFrags s p l tile (min quads (role.groups * (role.threads / 4)))
  if fs.isEmpty then .error .held
  else
    (startTile s id tile).bind fun s1 =>
    (earlyTests s1 id la fs).bind fun e =>
      let s2 : State := { e.1 with frags := fs.foldl (fun m x => if e.2.any (fun y => decide (y.1 = x.1)) then m else tdel m x.1) e.1.frags }
      let s3 : Dev State := if e.2.isEmpty then .ok s2
        else if fitsCu s2 la.vf cid la.fragHdr && (!la.clause || decide (clauseCount s2 la.vf cid + e.2.length ≤ 4096)) then
          .ok ((placeFrags s2 l tile cid e.2).placedOne l)
        else .error .held
      s3.map fun s => countUnit s id p l tile fs.length

/-- FRAGMENT_LAUNCH: the next quads of a draw in a tile, after those of earlier draws (R342, R376 to R379). -/
def execFragmentLaunch (launch tile quads : Nat) (s : State) : Out :=
  let la := s.launch launch
  .next (match passOf s launch with
    | none => s
    | some (id, p) =>
      if la.binned && shadingOn s la (decide (0 < (p.tile tile).unit)) && fragTurn s p launch tile && !comesFirst s launch &&
          !keptByOther s launch ((p.tile tile).cid / 8) then
        devStep s ((launchQuads s id p launch tile quads).map fun s1 => tryFinish s1 launch)
      else s)

/-! Blending (R372 to R374). -/

/-- The fields of a format's components R, G, B, A: low bit and width; width 0 where it has none. -/
def fmtFields (f : Nat) : List (Nat × Nat) :=
  match f with
  | 0x01 => [(0, 8), (0, 0), (0, 0), (0, 0)]
  | 0x02 => [(0, 8), (8, 8), (0, 0), (0, 0)]
  | 0x03 | 0x04 => [(0, 8), (8, 8), (16, 8), (24, 8)]
  | 0x05 => [(0, 10), (10, 10), (20, 10), (30, 2)]
  | 0x06 => [(0, 16), (0, 0), (0, 0), (0, 0)]
  | 0x07 => [(0, 16), (16, 16), (32, 16), (48, 16)]
  | 0x09 => [(0, 32), (32, 32), (0, 0), (0, 0)]
  | 0x0A => [(0, 32), (32, 32), (64, 32), (96, 32)]
  | _ => [(0, 32), (0, 0), (0, 0), (0, 0)]

/-- The elements of a colour written under a mask: the other components keep the stored bits. -/
def maskTexel (f mask new old : Nat) : Nat :=
  ((upto 4).zip (fmtFields f)).foldl (fun n e => n + bits (if bit mask e.1 then new else old) e.2.1 e.2.2 * 2 ^ e.2.1) 0

/-- A blend factor in VkBlendFactor order for component c: source, destination, constant colours (R372). -/
def blendFactor (k c : Nat) (src dst con : List Nat) : Nat :=
  let one := 0x3F800000
  match k with
  | 0 => 0
  | 1 => one
  | 2 => arg src c
  | 3 => fs one (arg src c)
  | 4 => arg dst c
  | 5 => fs one (arg dst c)
  | 6 => arg src 3
  | 7 => fs one (arg src 3)
  | 8 => arg dst 3
  | 9 => fs one (arg dst 3)
  | 10 => arg con c
  | 11 => fs one (arg con c)
  | 12 => arg con 3
  | 13 => fs one (arg con 3)
  | _ => if c = 3 then one else fMin (arg src 3) (fs one (arg dst 3))

/-- One component blended: add, subtract, reverse subtract, min, max (R374, VkBlendOp). -/
def blendComp (op sk dk c : Nat) (src dst con : List Nat) : Nat :=
  let a := fm (arg src c) (blendFactor sk c src dst con)
  let b := fm (arg dst c) (blendFactor dk c src dst con)
  match op with
  | 0 => fa a b
  | 1 => fs a b
  | 2 => fs b a
  | 3 => fMin (arg src c) (arg dst c)
  | _ => fMax (arg src c) (arg dst c)

/-- A value limited to 0 to 1, as Vulkan limits the sources of a normalised target before blending (log entry 32). -/
def clampUnit (x : Nat) : Nat :=
  match f32.value x with
  | .nan _ => 0
  | .inf s => if s then 0 else 0x3F800000
  | .fin s _ _ => if s then 0 else if fLt 0x3F800000 x then 0x3F800000 else x

/-- The colour after blending, under the target's word of the pipeline state (R372, R374). -/
def blended (la : Launch) (t f : Nat) (src dst : List Nat) : List Nat :=
  let b := recN la.psrec (0x50 + 4 * t) 4
  if !bit b 0 || decide (f = 0x0B) then src
  else
    let lim := fun (l : List Nat) => if f ≤ 5 then l.map clampUnit else l
    let con := lim ((upto 4).map fun i => unpackF f16 (recN la.psrec (0x70 + 2 * i) 2))
    let sc := lim src
    (upto 4).map fun c => if c < 3 then blendComp (bits b 11 3) (bits b 1 5) (bits b 6 5) c sc dst con
      else blendComp (bits b 24 3) (bits b 14 5) (bits b 19 5) c sc dst con

/-- Write a fragment's colour to one sample of one target. -/
def outSample (s : State) (id : Nat) (p : Pass) (la : Launch) (f : Frag) (t k : Nat) (src : List Nat) : Dev State :=
  let fmt := p.tfmt t
  let n := fmtBytes fmt
  let pl := targetPlace p t f.x f.y k
  (placeTouch s p pl n).bind fun s =>
    let old := (placeRead s p pl n).1
    let new := encodeTexel fmt (blended la t fmt src (decodeTexel fmt old))
    placeWrite s id pl (leBytes (maskTexel fmt (bits (recN la.psrec (0x50 + 4 * t) 4) 27 4) new (leNat old)) n) f.label

/-- The samples a fragment writes: its own when shading per sample, else those it covers. -/
def outSamples (p : Pass) (f : Frag) (cov : Nat) : List Nat := if p.perSample then (if cov = 0 then [] else [f.sample]) else (upto 8).filter (bit cov)

/-- The output of a fragment: late tests, then each target it recorded a colour for, each sample (R374, R376; log entry 32). -/
def fragOutput (s : State) (id : Nat) (la : Launch) (f : Frag) : Dev State :=
  (if la.late then testFrag s id la f else .ok (s, f.cov)).bind fun e =>
    match e.1.pass? id with
    | none => .ok e.1
    | some p => ((upto p.ntargets).filter fun t => (tfind f.outs t).isSome).foldl (fun o t =>
        (outSamples p f e.2).foldl (fun (o : Dev State) k => o.bind fun s => match s.pass? id with
          | some q => outSample s id q la f t k (((tfind f.outs t).getD []).map (·.toNat))
          | none => .ok s) o) (.ok e.1)

/-- No fragment of a lower sequence at the same key is still to be written (R376). -/
def outputTurn (s : State) (f : Frag) : Bool :=
  !s.frags.any fun e => decide (e.2.x = f.x ∧ e.2.y = f.y ∧ e.2.sample = f.sample) && decide (e.2.seq < f.seq) &&
    decide ((s.launch e.2.launch).pass = (s.launch f.launch).pass)

/-- The fragment's workgroup has made its last commit, where it makes commits (R416). -/
def committed (s : State) (f : Frag) : Bool :=
  match f.tid with
  | none => true
  | some t => let g := s.wg (wgOf t); decide (g.mode = .plain) || g.final || g.halted || g.ended

/-- FRAGMENT_OUTPUT: an ended fragment's colour, in ascending sequence at its key; a discarded one writes nothing (R376). -/
def execFragmentOutput (launch frag : Nat) (s : State) : Out :=
  .next (match passOf s launch, tfind s.frags frag with
    | some (id, _), some f =>
      if decide (f.launch = launch) && f.ended && committed s f && outputTurn s f then
        devStep s ((if f.discarded then .ok s else fragOutput s id (s.launch launch) f).map fun s1 =>
          tryFinish { s1 with frags := tdel s1.frags frag } launch)
      else s
    | _, _ => s)

/-! Resolve and tile stores (R371, R391, R392). -/

/-- The workgroup that resolves a tile. -/
def placeResolve (s : State) (id : Nat) (p : Pass) (l tile cid : Nat) : State :=
  let h := p.resolveHdr
  let wn := s.fresh
  let la := s.launch l
  let base : Workgroup :=
    { launch := l, index := (Config.tileIndex wn).toNat, cid := cid, tile := some tile, resolve := true
      mode := if la.ckpt || la.paired then .ckpt else .plain, textab := h.textab, samptab := h.samptab, astab := h.astab }
  let s1 := startWg s base h (d64 (recN p.record 0x30 6)) allLanes
  let key : Cell := { val := w32 (tile % p.tilesX * 32 + tile / p.tilesX * 32 * 2 ^ 14) }
  let set := fun (m : Table Thread) => tmap m fun t x => if t / 1024 = wn then { x with regs := sset {} x.regs 0 key } else x
  let s2 : State := { s1 with threads := set s1.threads }
  let s3 := s2.modWg wn fun g => { g with shadow := g.shadow.map fun h => { h with threads := set h.threads } }
  (expireCopies s3 cid true).modTile id tile fun x => { x with resolve := some wn }

/-- RESOLVE_LAUNCH: after the tile's last fragment, on its CU in tile mode, anywhere in immediate mode (R342, R391). -/
def execResolveLaunch (launch tile cid : Nat) (s : State) : Out :=
  let la := s.launch launch
  .next (match passOf s launch with
    | none => s
    | some (id, p) =>
      if shadingOn s la false && resolveWaits s la p tile &&
          (if p.tileMode then decide (cid = (p.tile tile).cid) else (partCus s (s.partOf la.vf)).contains cid) && !comesFirst s launch &&
          !keptByOther s launch (cid / 8) then
        devStep s ((startTile s id tile).bind fun s1 =>
          if fitsCu s1 la.vf cid p.resolveHdr then .ok ((placeResolve s1 id p launch tile cid).placedOne launch) else .error .held)
      else s)

/-- The store field of the j-th part of a sample: targets, then depth, then stencil. -/
def storeField (p : Pass) (j : Nat) : Nat := if j < p.ntargets then p.tstore j else p.dstore

/-- Write one part of a sample from the region to memory, where its store field says so (R370, R371). -/
def storePart (id tile : Nat) (p : Pass) (s : State) (j : Nat) (q : Nat × Nat × Nat × List Byte) : Dev State :=
  if storeField p j ≠ 0 then .ok s
  else
    let x := placeRead s p (.region tile q.2.1) q.2.2.2.length
    placeWrite s id (.va q.2.2.1) x.1 x.2

/-- Write a tile region out. -/
def storeTile (s : State) (id : Nat) (p : Pass) (tile : Nat) : Dev State :=
  (tileSamples p tile).foldl (fun o e =>
    ((upto (sampleParts p e).length).zip (sampleParts p e)).foldl (fun (o : Dev State) q => o.bind fun s => storePart id tile p s q.1 q.2) o) (.ok s)

/-- The pass ends with its last tile (R392). -/
def endPass (s : State) (id : Nat) : State :=
  s.modPass id fun p => { p with ended := p.ended || (p.closed && p.tiles.all fun e => e.2.stored) }

/-- TILE_STORE: after the tile's last fragment and its resolve workgroup; the pass ends with the last (R371, R392). In immediate mode
a tile's end stores nothing. -/
def execTileStore (launch tile : Nat) (s : State) : Out :=
  let la := s.launch launch
  .next (match passOf s launch with
    | none => s
    | some (id, p) =>
      let x := p.tile tile
      if la.endDraw && la.binned && (tfind p.tiles tile).isSome && !x.stored && tileDone s p tile &&
          (!p.resolves || x.resolve.any fun w => (s.wg w).ended) then
        devStep s ((startTile s id tile).bind fun s1 =>
          let out : Dev State := match s1.pass? id with
            | some q => if p.tileMode then storeTile s1 id q tile else .ok s1
            | none => .ok s1
          out.map fun s2 =>
          tryFinish (endPass (s2.modTile id tile fun x => { x with stored := true, region := [], labels := [] }) id) launch)
      else s)

end Sys2Proof.Machine
end

