-- ==== Sys2Proof/Machine/Recover.lean ====
section
/-! DEFINITION. Checkpointed and paired workgroups: commits, rollbacks, comparison, escalation (R416 to R423, R431 to R435). -/

namespace Sys2Proof.Machine

/-! Where the threads stand. -/

/-- The bundle that holds a thread. -/
def bundleOf (s : State) (t : Nat) : Option Bundle := (s.pipes.find? fun e => e.2.tids.contains t).map (·.2)

/-- A thread as it stands: off its pipe, before the word its bundle stands at. -/
def standing (s : State) (t : Nat) (x : Thread) : Thread :=
  match bundleOf s t with
  | none => x
  | some b => { x with pc := b.pc, pos := b.pos, advs := b.advs, picker := .ready }

/-- The word at which a thread's interval has ended. -/
def endsOf (s : State) (t : Nat) : Option DWord := (s.wg (wgOf t)).endAt.bind fun e => tfind e.ends t

/-- A bundle stands at a word that ends an interval of one of its lanes. -/
def bundleEnded (s : State) (b : Bundle) : Bool := b.fence.isNone && b.tids.any fun t => decide (endsOf s t = some b.pc)

/-- Every group has paused (R418 step 1): its bundles stand at ending words, no thread is inside a sentence off the pipes but
those that are parked. -/
def paused (s : State) (w : Nat) : Bool :=
  s.pipes.all (fun e => !(e.2.tids.any fun t => decide (wgOf t = w)) || bundleEnded s e.2) &&
  (liveWg s w).all fun t => let x := s.thr t; !(decide (x.picker = .ready) && decide (x.pos ≠ 0))

/-- An access whose value the commit waits for (R418 step 2): all that deliver one but claims that are posted and not
satisfied, and special functions. -/
def commitWaits (a : Access) : Bool :=
  (delivers a.kind && !(decide (a.kind = .ringGet) && decide (a.stage = .issued))) ||
  (decide (a.kind = .special) && decide (a.stage ≠ .retained) && decide (a.stage ≠ .held))

/-- Every register result of the workgroup has been written. -/
def commitReady (s : State) (w : Nat) : Bool := !s.accs.any fun e => decide (wgOf e.2.tid = w) && commitWaits e.2

/-- An interval of the workgroup has ended and everything it waits for is over; or all its threads have ended. -/
def endReady (s : State) (w : Nat) : Bool :=
  let g := s.wg w
  !g.halted && !g.ended && !g.final && !g.retry && !flushing s w && (g.endAt.isSome || (liveWg s w).isEmpty) && paused s w && commitReady s w

/-! The commit (R418, R433). -/

/-- What a commit copies of the accesses: posted claims and queued puts of the workgroup's own rings. -/
def postedAcc (w : Nat) (a : Access) : Bool :=
  decide (wgOf a.tid = w) && (decide (a.kind = .ringGet) || (decide (a.kind = .ringPut) && a.aux.isEmpty))

/-- The shadow a commit makes (R418 step 2). -/
def shadowNow (s : State) (w : Nat) : Shadow :=
  let accs := s.accs.filter fun e => postedAcc w e.2
  { threads := tmap (s.threads.filter fun e => decide (wgOf e.1 = w)) fun t x => standing s t x
    groups := s.groups.filter fun e => decide (e.1 / 16 = w)
    mem := (s.wg w).mem
    accs := accs
    batches := s.batches.filter fun e => accs.any fun a => a.2.batch == some e.1
    log := (s.wg w).log
    frags := s.frags.filter fun e => (e.2.tid.map fun t => decide (wgOf t = w)).getD false }

/-- A thread that goes on past the word that ended its interval. -/
def passThread (ends : Table DWord) (t : Nat) (x : Thread) : Thread :=
  { x with passed := (tfind ends t).isSome, sentences := 0, fwdSeq := 0 }

/-- The commit of one workgroup. -/
def commitWg (s : State) (w : Nat) (keep : Bool) : State :=
  let g := s.wg w
  let ends := (g.endAt.map (·.ends)).getD []
  let s1 := { s with threads := tmap s.threads fun t x => if wgOf t = w then passThread ends t x else x }
  let h := shadowNow s1 w
  let noneLeft := (liveWg s w).isEmpty
  let s2 := s1.modWg w fun x =>
    { x with
      shadow := some h, retained := [], endAt := none, rollbacks := 0, since := s.now.toNat, backCauses := [], record := []
      final := noneLeft }
  g.retained.foldl (fun s r => if keep then releaseEntry s r else discardEntry s r) s2

/-- CHECKPOINT_COMMIT of a checkpointed workgroup (R418). -/
def execCheckpointCommit (wg : Nat) (s : State) : Out :=
  .next (if decide ((s.wg wg).mode = .ckpt) && endReady s wg then commitWg s wg true else s)

/-! The rollback (R419, R435). -/

/-- An access that a rollback leaves: what a commit is performing, puts already sent, list insertions. -/
def survives (a : Access) : Bool :=
  (a.retained && decide (a.stage ≠ .retained)) || (decide (a.kind = .ringPut) && !a.aux.isEmpty && decide (a.stage ≠ .retained)) ||
  (decide (a.kind = .special) && decide (a.stage = .held)) || decide (a.kind = .insert)

/-- The counts of a thread from what is outstanding (R53). -/
def countAgain (s : State) (t : Nat) (x : Thread) : Thread :=
  let mine := s.accs.filter fun e => decide (e.2.tid = t)
  let cls := fun (c : OctClass) => (mine.filter fun e => decide (countOf e.2 = some c)).length
  let copies := (s.cmds.filter fun e => e.2.tids.contains t).length +
    ((s.wg (wgOf t)).mem.copy.holds.filter fun e => e.2.tids.contains t).length +
    (s.accs.filter fun e => decide (e.2.kind = .special) && decide (e.2.stage = .held) && (e.2.aux.drop 1).contains t).length
  { x with
    octLoad := cls .load, octStore := cls .store, octCopy := copies
    octTile := (s.mxops.filter fun e => e.2.counting.contains t).length }

/-- A thread's state from the shadow: its largest write-completion time stays (R42), its fragment, and what engines have
brought since. -/
def backThread (cycle : Nat) (live h : Thread) : Thread :=
  { h with
    wct := live.wct, frag := live.frag, readyAt := if h.picker = .ready then cycle else h.readyAt
    tiles := h.tiles ++ live.tiles.filter fun d => !h.tiles.contains d }

/-- OR two label tables. -/
def orTable (a b : Table Label) : Table Label := b.foldl (fun m e => sset 0 m e.1 (sget 0 m e.1 ||| e.2)) a

/-- A group's state from the shadow, no label lowered (R57, R419); the state of its engine work stays. -/
def backGroup (live h : Group) : Group :=
  { h with
    lreg := orTable h.lreg live.lreg, lpred := orTable h.lpred live.lpred, lg := orTable h.lg live.lg, lc := orTable h.lc live.lc
    lflags := h.lflags ||| live.lflags, lfpctl := h.lfpctl ||| live.lfpctl, ctx := h.ctx ||| live.ctx, lconj := h.lconj ||| live.lconj
    mx := live.mx, kdone := live.kdone, faulted := live.faulted, done := if live.mx.isSome || live.faulted then live.done else h.done }

/-- The scratchpad of the shadow, with the copy ring's slots and words as they are: published commands go on (R419). -/
def backSpad (live h : WgMem) : Table Byte :=
  match memCopyWords live with
  | none => h.spad
  | some (b, _, x) => (upto (x + 16 - b)).foldl (fun m i => sset 0 m (b + i) (sget 0 live.spad (b + i))) h.spad

/-- A workgroup's memory from the shadow; slot, block and ring labels are not lowered; the copy engine's state stays. -/
def backMem (live h : WgMem) : WgMem :=
  { h with
    spad := backSpad live h, blockLabel := orTable h.blockLabel live.blockLabel, copy := live.copy
    rings := tmap h.rings fun k r => { r with label := orTable r.label ((tfind live.rings k).getD {}).label } }

/-- A fragment's outputs go back with its thread; its place in the scoreboard and its label stay. -/
def backFrag (h : Shadow) (k : Nat) (f : Frag) : Frag :=
  let o := tfind h.frags k
  { f with outs := (o.map (·.outs)).getD [], discarded := (o.map (·.discarded)).getD false, ended := (o.map (·.ended)).getD false }

/-- The workgroup stands again where it stood at its last commit (R419). -/
def restoreWg (s : State) (w : Nat) (h : Shadow) : State :=
  let gone := fun (a : Access) => decide (wgOf a.tid = w) && !survives a
  let s1 := dropFromPipes s (liveWg s w)
  let accs := s1.accs.filter fun e => !gone e.2
  let live := s1.wg w
  let s2 : State := {
    s1 with
    accs := h.accs.foldl (fun m e => tput m e.1 e.2) accs
    batches := h.batches.foldl (fun m e => tput m e.1 e.2) s1.batches
    threads := tmap s1.threads fun t x => match if wgOf t = w then tfind h.threads t else none with
      | some y => backThread s.cycle x y
      | none => x
    groups := tmap s1.groups fun k x => match if k / 16 = w then tfind h.groups k else none with
      | some y => backGroup x y
      | none => x
    frags := tmap s1.frags fun k f => if (f.tid.map fun t => decide (wgOf t = w)).getD false then backFrag h k f else f }
  let s3 := s2.modWg w fun x =>
    { x with
      mem := backMem live.mem h.mem, log := h.log, retained := [], endAt := none, retry := false, since := s.now.toNat
      record := x.record.filter fun e => decide (e.1 % 65536 = 65535) }
  let s4 := { s3 with threads := tmap s3.threads fun t x => if wgOf t = w then countAgain s3 t x else x }
  (upto 16).foldl (fun s q => reportFree s w q) s4

/-- Restore a workgroup from its shadow. -/
def backWg (s : State) (w : Nat) : State :=
  match (s.wg w).shadow with
  | none => s.modWg w fun x => { x with retry := false }
  | some h => restoreWg s w h

/-- Both members of a pair, or the workgroup. -/
def membersOf (s : State) (w : Nat) : List Nat := match (s.wg w).twin with | some h => [w, h] | none => [w]

/-- A pair that has been rolled back three times in one interval halts and is reported (R423). -/
def escalate (s : State) (ws : List Nat) : State :=
  let w := ws.headD 0
  let vf := s.vfOf w
  let s1 := countVf s vf 3 32 16
  let stop := fun (s : State) (w : Nat) =>
    let ts := liveWg s w
    let s := dropFromPipes s ts
    let s := ts.foldl (fun s t => s.modThr t fun x => { x with picker := .exited, holds := [], jump := none }) s
    ({ s with frags := tmap s.frags fun _ f => dropFrag w f }).modWg w fun x => { x with halted := true, endAt := none }
  let s2 := ws.foldl stop s1
  let s3 := s2.modLaunch (s2.wg w).launch fun l => { l with halted := true, code := if l.code = 0 ∨ l.code = 7 then 9 else l.code }
  postVf s3 vf { type := 9, detail := d64 (s.wg w).index }

/-- Roll a workgroup back, with the other member of its pair; the third time in one interval a pair escalates (R419, R421,
R431). -/
def rollBack (s : State) (w : Nat) : State :=
  let ws := membersOf s w
  let s1 := ws.foldl backWg (countRback s (s.vfOf w))
  let s2 := ws.foldl (fun s w => s.modWg w fun x => { x with rollbacks := x.rollbacks + 1 }) s1
  if isPaired (s.wg w).mode && decide (3 ≤ (s2.wg w).rollbacks) then escalate s2 ws else s2

/-- ROLLBACK: of a workgroup whose thread met poison or a pipeline error (R419). The cause is known to both members, and a
commit that is being performed is finished first. -/
def execRollback (wg : Nat) (s : State) : Out :=
  .next (
    let g := s.wg wg
    if g.retry && !g.halted && !(membersOf s wg).any (flushing s) then
      rollBack ((membersOf s wg).foldl (fun s w => s.modWg w fun x => { x with backCauses := g.backCauses }) s) wg
    else s)

/-! Pairs (R421 to R423, R434). -/

/-- The entries of a member in the order of the signature: ascending thread index, each thread's in program order (R421). -/
def signed (s : State) (w : Nat) : List Retained := ((upto 1024).map fun i => (s.wg w).retained.filter fun r => tixOf r.tid == i).flatten

/-- One bit of the CRC-64 with the polynomial of ECMA-182 (R421). -/
def crcBit (c : DWord) : DWord := if c.msb then (c <<< 1) ^^^ 0x42F0E1EBA9EA3693#64 else c <<< 1

/-- One byte of it. -/
def crcByte (c : DWord) (b : Byte) : DWord := (upto 8).foldl (fun c _ => crcBit c) (c ^^^ (b.zeroExtend 64 <<< 56))

/-- The bytes of an entry that the signature covers: address, size and data (R421; log entry 89). -/
def entryBytes (r : Retained) : List Byte := leBytes r.addr 8 ++ leBytes r.size 8 ++ leBytes r.data r.size

/-- The signature of a member's interval: a CRC-64 over its entries (R421). -/
def signature (s : State) (w : Nat) : DWord := ((signed s w).map entryBytes).flatten.foldl crcByte 0

/-- Where each thread of a member stands at the end of an interval: the word that ended it, or in an interval that the buffer
or the limit ended, its number of sentences and its PC (R434). -/
def standings (s : State) (w : Nat) (limit : Bool) : List (Nat × Nat × DWord) :=
  if limit then
    (s.threads.filter fun e => decide (wgOf e.1 = w)).map fun e =>
      let x := standing s e.1 e.2
      if alive x then (tixOf e.1, x.sentences, x.pc) else (tixOf e.1, 2 ^ 32, 0)
  else (((s.wg w).endAt.map (·.ends)).getD []).map fun e => (tixOf e.1, 0, e.2)

/-- The anaphor can go no further: nothing of it runs or can be picked, and nothing it waits for can come but what its
antecedent forwards (R422, R434). -/
def anaStill (s : State) (b : Nat) : Bool :=
  let waits := fun (e : Nat × Access) => decide (wgOf e.2.tid = b) && commitWaits e.2
  let g := s.wg b
  !g.halted && !g.ended && !g.retry && !flushing s b && paused s b && (s.accs.filter waits).all (fun e => awaitsTwin s e.2) &&
  (liveWg s b).all (fun t => !pickable s g.cid t (s.thr t)) && !(groupsOf (liveWg s b)).any (groupRuns s)

/-- The anaphor has reached the end of its interval: its own, the one its antecedent's limit sets, or a result that its
antecedent never forwards. -/
def anaReady (s : State) (a b : Nat) : Bool :=
  endReady s b || (anaStill s b && (((s.wg a).endAt.map (·.limit)).getD false || s.accs.any fun e => decide (wgOf e.2.tid = b) && awaitsTwin s e.2))

/-- The members agree (R421, R434). -/
def pairAgrees (s : State) (a b : Nat) : Bool :=
  let limit := ((s.wg a).endAt.map (·.limit)).getD false
  commitReady s b && decide (signature s a = signature s b) && decide (standings s a limit = standings s b limit) &&
  decide ((liveWg s a).isEmpty = (liveWg s b).isEmpty)

/-- The two members meet: commit, or roll back (R421, R431). -/
def pairMeet (s : State) (a b : Nat) : State :=
  if pairAgrees s a b then
    commitWg (commitWg s a true) b false
  else rollBack (countVf s (s.vfOf a) 3 48 16) a

/-- PAIR_COMPARE: both members have reached the end of an interval (R421). A member whose other one has halted halts. -/
def execPairCompare (wg : Nat) (s : State) : Out :=
  .next (match (s.wg wg).twin with
    | none => s
    | some b =>
      if (s.wg wg).mode ≠ .ante then s
      else match (s.wg wg).halted, (s.wg b).halted with
        | false, false => if endReady s wg && anaReady s wg b then pairMeet s wg b else s
        | true, false => if (s.wg b).ended || (s.wg b).final then s else haltWg s b 0 0 0
        | false, true => if (s.wg wg).ended || (s.wg wg).final then s else haltWg s wg 0 0 0
        | true, true => s)

/-- PAIR_INTERVAL_LIMIT: 64 000 ticks since the pair's last commit or rollback (R422). -/
def execPairIntervalLimit (wg : Nat) (s : State) : Out :=
  let g := s.wg wg
  .next (if decide (g.mode = .ante) && g.endAt.isNone && !g.halted && !g.ended && !g.final && !flushing s wg &&
      decide (64000 ≤ s.now.toNat - g.since) then
    s.modWg wg fun x => { x with endAt := some { limit := true } }
  else s)

end Sys2Proof.Machine
end

