-- ==== Sys2Proof/Machine/Reset.lean ====
section
/-! DEFINITION. Partition reset, and launches queued again after one (R412, R427, R428, R431). -/

namespace Sys2Proof.Machine

/-- The VFs bound to a partition. -/
def partVfs (s : State) (p : Nat) : List Nat :=
  (s.ctxs.filter fun e => bit e.2.binding.toNat 63 && decide (s.partOf e.1 = p)).map (·.1)

/-- The lines of a partition's slices whose latest data had not reached GDDR7 (R427; log entry 35). -/
def lostLines (s : State) (p : Nat) : List Nat :=
  let cs := partCores s p
  ((s.pages.filter fun e => e.2.b).map fun e =>
    ((upto 1024).map (1024 * e.1 + ·)).filter fun x => cs.contains (homeOf s x) && Config.lostLine s.fresh x).flatten

/-- Everything the partition's cores hold is gone; generation counts and the slices' bounds on leases stay. -/
def clearCores (s : State) (p : Nat) : State :=
  let cus := partCus s p
  let cs := partCores s p
  let bound := fun (c : Core) => c.leases.foldl (fun b e => if b < e.2.le then e.2.le else b) c.retired
  { s with
    pipes := s.pipes.filter fun e => !cus.contains (e.1 / 4)
    cus := tmap s.cus fun k u => if cus.contains k then { genCount := u.genCount } else u
    cores := tmap s.cores fun k c => if cs.contains k then { retired := bound c } else c
    msgs := s.msgs.filter fun e => match e.2 with
      | .put src _ _ _ _ _ _ => !cus.contains src
      | .report src _ _ _ _ _ _ => !cus.contains src }

/-- The work of a set of contexts is gone. -/
def clearWork (s : State) (vfs : List Nat) : State :=
  let mine := fun (w : Nat) => vfs.contains (s.vfOf w)
  let ofLaunch := fun (l : Nat) => vfs.contains (s.launch l).vf
  { s with
    accs := s.accs.filter fun e => !mine (wgOf e.2.tid)
    batches := s.batches.filter fun e => !mine (e.2.gid / 16)
    cmds := s.cmds.filter fun e => !mine e.2.wg
    mxops := s.mxops.filter fun e => !e.2.members.any fun g => mine (g / 16)
    frags := s.frags.filter fun e => !ofLaunch e.2.launch
    tris := s.tris.filter fun e => !ofLaunch e.1
    passes := s.passes.filter fun e => !vfs.contains e.2.vf
    threads := s.threads.filter fun e => !mine (wgOf e.1)
    groups := s.groups.filter fun e => !mine (e.1 / 16)
    wgs := s.wgs.filter fun e => !mine e.1 }

/-- A context is neither resident nor saved, and its queues have no open pass. -/
def clearCtx (c : Context) : Context :=
  { c with
    resident := false, savedCtx := false, preempting := none, cuSave := [], injectCount := 0
    queues := tmap c.queues fun _ q => { q with pass := none } }

/-- A launch as it was queued, its saved copies kept (R428). -/
def queuedAgain (la : Launch) : Launch :=
  { la with
    phase := .waiting, asked := false, accepted := false, next := 0, doneWgs := 0, waitSince := none, reserved := false, halted := false
    code := 0, tskip := false, pass := none, ntri := 0, binned := false, endDraw := false, shadowPages := [], requeued := true }

/-- A launch goes back to the head of its queue (R428). -/
def requeue (s : State) (l : Nat) : State :=
  let la := s.launch l
  let q := s.queue la.vf la.queue
  let s1 := match q.head with
    | some h => if (s.launch h).requeued then s else { s with launches := tdel s.launches h }
    | none => s
  let rest := match q.head with
    | some h => if (s.launch h).requeued then h :: q.again else q.again
    | none => q.again
  (s1.modLaunch l queuedAgain).modQueue la.vf la.queue fun x => { x with head := none, again := l :: rest }

/-- The line of a launch's status word has been lost. -/
def statusLost (s : State) (la : Launch) (lost : List Nat) : Bool :=
  match rangeOf s la.vf la.status with
  | some (_, r) => decide (spaceOf r = .mem) && lost.contains (iaOf r la.status / 64)
  | none => true

/-- A launch that a reset ends: code 0x0A where its status word can be written (R427 step 3). -/
def resetLaunch (lost : List Nat) (s : State) (l : Nat) : State :=
  let la := s.launch l
  let gone := (s.modLaunch l fun x => { x with phase := .ended, code := 0x0A }).modCtx la.vf fun c => { c with events := c.events ||| la.set }
  if statusLost s la lost then gone else (endLaunch (s.modLaunch l fun x => { x with replay := false }) l 0x0A 0 .ended).toOption.getD gone

/-- The launches of contexts that have been admitted and not ended, latest first. -/
def openLaunches (s : State) (vfs : List Nat) : List Nat :=
  ((s.launches.filter fun e => vfs.contains e.2.vf && decide (e.2.phase = .admitted)).map (·.1)).reverse

/-- A flit of a partition that has not been delivered (R427 step 1). -/
def flitOf (p : Nat) (a : HostAcc) : Bool :=
  match a with
  | .flit q _ _ _ => decide (q = p)
  | .doorbell _ _ | .eventSet _ _ _ | .eventClear _ _ _ | .queueWrite _ _ _ _ | .preempt _ _ | .causes _ _ | .counters _ _ | .register _ _ _
  | .bar2Read _ _ _ | .bar2Write _ _ _ _ => false

/-- A partition is reset: its flits are discarded; its cores, slices and bank cells at once; lost lines take markers; launches end or are queued again;
the count is made before the status words (R427, R428, R431). -/
def resetPart (s : State) (p : Nat) : State :=
  let vfs := partVfs s p
  let lost := lostLines s p
  let open_ := openLaunches s vfs
  let s1 := (clearCores (clearWork s vfs) p).modPkg fun k => { k with waiting := k.waiting.filter fun a => !flitOf p a }
  let s2 := { s1 with sectors := lost.foldl (fun m x => sset .good m x .marker) s1.sectors }
  let s3 := vfs.foldl (fun s v => countVf (s.modCtx v clearCtx) v 3 16 16) s2
  let s4 := open_.foldl (fun s l => if (s.launch l).replay then requeue s l else resetLaunch lost s l) s3
  vfs.foldl eventPass s4

/-- PARTITION_RESET: an uncorrectable error in the state that R412 lists last, where it belongs to an enabled partition (R427). -/
def execPartitionReset (part : Nat) (s : State) : Out :=
  .next (if bit (s.part part).w1.toNat 63 then resetPart s part else s)

end Sys2Proof.Machine
end

