-- ==== Sys2Proof/Machine/Preempt.lean ====
section
/-! DEFINITION. Slices, pre-emption, saves and restores, bandwidth slots (R402 to R411, R419). -/

namespace Sys2Proof.Machine

/-! Slices (R402). -/

/-- A context has an eligible launch, or placed or saved workgroups (R402). -/
def runnable (s : State) (vf : Nat) : Bool :=
  bit (s.ctx vf).binding.toNat 63 &&
  (s.launches.any (fun e => decide (e.2.vf = vf) && decide (e.2.phase = .admitted)) || s.wgs.any fun e => !e.2.ended && decide (s.vfOf e.1 = vf))

/-- The runnable contexts of a partition, in ascending VF number. -/
def runnables (s : State) (p : Nat) : List Nat := (partVfs s p).filter (runnable s)

/-- The slice length of a context in ticks: 0 is read as 1 µs (R401). -/
def sliceTicks (c : Context) : Nat := max 1 (bits c.binding.toNat 32 16) * 1000

/-- The unended workgroups of a context. -/
def ctxWgs (s : State) (vf : Nat) : List (Nat × Workgroup) := s.wgs.filter fun e => !e.2.ended && decide (s.vfOf e.1 = vf)

/-- The CUs on which a context has workgroups. -/
def ctxCus (s : State) (vf : Nat) : List Nat := sortNat (dedup ((ctxWgs s vf).map (·.2.cid)))

/-- A checkpointed or paired workgroup that the pre-emption rolls back (R419). -/
def preemptRolls (g : Workgroup) : Bool := decide (g.mode ≠ .plain) && !g.halted && !g.final && !unitWg g

/-- Every checkpointed workgroup of the context is rolled back, a pair counted once (R419, R431, R435). -/
def rollAll (s : State) (vf : Nat) : State :=
  ((ctxWgs s vf).filter fun e => preemptRolls e.2).foldl (fun s e =>
    let s1 := backWg s e.1
    if e.2.mode = .ana then s1 else countRback s1 vf) s

/-- The threads that are signalled: of plain workgroups with a handler, outside tile-work units, neither parked nor ended
(R406 step 2). -/
def signals (s : State) (vf t : Nat) (x : Thread) : Bool :=
  let g := s.wg (wgOf t)
  decide (s.vfOf (wgOf t) = vf) && !g.ended && decide (g.mode = .plain) && !unitWg g && alive x && decide (x.picker ≠ .parked) &&
    decide ((s.grp (gidOf t)).tvec ≠ 0)

/-- Pre-emption begins: placing stops, checkpointed workgroups roll back, the CUs deliver the trap and count their budget
(R406; log entry 37). -/
def startPreempt (s : State) (vf : Nat) : State :=
  let s1 := rollAll (s.modCtx vf fun c => { c with preempting := some s.now }) vf
  let s2 := { s1 with threads := tmap s1.threads fun t x => if signals s1 vf t x then { x with signalled := true } else x }
  (ctxCus s2 vf).foldl (fun s c => s.modCu c fun u => { u with save := { delivering := true, start := s.now } }) s2

/-- The slice of a resident context ends: the only runnable one goes on into a new slice (R402). -/
def endSlice (s : State) (vf : Nat) : State :=
  if runnables s (s.partOf vf) = [vf] then s.modCtx vf fun c => { c with sliceStart := s.now } else startPreempt s vf

/-- A context is resident and not being pre-empted. -/
def inSlice (c : Context) : Bool := c.resident && c.preempting.isNone

/-- SLICE_END (R402). -/
def execSliceEnd (vf : Nat) (s : State) : Out :=
  let c := s.ctx vf
  .next (if inSlice c && decide (sliceTicks c ≤ (s.now - c.sliceStart).toNat) then endSlice s vf else s)

/-- A write to the pre-empt register: 1 to bit 0 ends the slice at once (R402). -/
def writePreempt (s : State) (vf : Nat) (data : DWord) : State := if inSlice (s.ctx vf) && data.getLsbD 0 then endSlice s vf else s

/-- PREEMPT_WRITE (R402, R441). -/
def execPreemptWrite (vf : Nat) (data : BitVec 64) (s : State) : Out := .next (portStep s (.preempt vf data) (.ok (writePreempt s vf data)))

/-! The cooperative save (R138, R142, R406). -/

/-- The CU delivers the trap and has not saved. -/
def delivering (s : State) (cid : Nat) : Bool := (s.cu cid).save.delivering && !(s.cu cid).save.saved

/-- COOP_PREEMPT_TRAP: at a sentence start, outside the handler; a group without one any more is left to the forced save (R136, R138, R186,
R406). -/
def execCoopPreemptTrap (tid : Nat) (s : State) : Out :=
  let x := s.thr tid
  .next (if x.signalled && !x.saved && !x.frame.inh && alive x && decide (x.pos = 0) && decide (x.picker = .ready ∨ x.picker = .held) &&
      delivering s (s.cidOf tid) && !budgetOver s (wgOf tid) then
    if (s.grp (gidOf tid)).tvec = 0 then s.modThr tid fun x => { x with signalled := false }
    else trapThread s tid { cause := 0x17, pc := x.pc, rpc := x.pc, pos := 0, kind := 2 }
  else s)

/-! Saves (R406 to R410). -/

/-- The workgroups of the context being pre-empted on a CU. -/
def savedWgs (s : State) (cid : Nat) : List (Nat × Workgroup) :=
  s.wgs.filter fun e => decide (e.2.cid = cid) && !e.2.ended && (s.ctx (s.vfOf e.1)).preempting.isSome

/-- A tile-work unit of the CU is in progress: a unit begun, or a launched fragment that has not been written (R377). -/
def unitsOpen (s : State) (cid : Nat) : Bool :=
  let mine := fun (vf : Nat) => (s.ctx vf).preempting.isSome
  s.passes.any (fun e => mine e.2.vf && e.2.tiles.any fun t => decide (t.2.cid = cid) && decide (0 < t.2.unit)) ||
  s.frags.any (fun e => e.2.tid.isSome && decide (e.2.cu = cid) && mine (s.launch e.2.launch).vf) ||
  (savedWgs s cid).any fun e => unitWg e.2 && !(liveWg s e.1).isEmpty

/-- An access that a save waits for: one that has left the CU, but for those being refused, claims and puts of rings, and what
has not left (R408). -/
def saveWaits (a : Access) : Bool :=
  match a.stage with
  | .issued => decide (a.kind ≠ .ringGet ∧ a.kind ≠ .ringPut)
  | .refused _ | .returned => true
  | .held | .retry | .retained => false

/-- Every access of the CU's threads that has left it is complete, and gate commands that have decided are finished (R408,
R409). -/
def accessesDone (s : State) (cid : Nat) : Bool :=
  let ws := (savedWgs s cid).map (·.1)
  !(s.accs.any fun e => ws.contains (wgOf e.2.tid) && saveWaits e.2) && !s.cmds.any fun e => ws.contains e.2.wg && e.2.gate && e.2.decided

/-- The live threads of the CU's workgroups. -/
def savedThreads (s : State) (cid : Nat) : List Nat := ((savedWgs s cid).map fun e => liveWg s e.1).flatten

/-- Every live thread of the context on the CU has executed CTXYIELD and stands at a sentence start (R406, R407). -/
def allYielded (s : State) (cid : Nat) : Bool :=
  (savedThreads s cid).all fun t => let x := s.thr t; x.saved && decide (x.pos = 0) && decide (x.picker = .ready ∨ x.picker = .held)

/-- The CU goes to the forced save: its budget is over, or no signalled thread is left that has not saved. -/
def forced (s : State) (cid : Nat) : Bool :=
  decide (11112 ≤ (s.now - (s.cu cid).save.start).toNat) || !(savedThreads s cid).any fun t => (s.thr t).signalled && !(s.thr t).saved

/-- The pins of the context on the CU are performed, its leased copies dropped, uncommitted blocks of matrix operations
discarded, copy commands stopped (R251, R407, R409). -/
def beforeSave (s : State) (cid : Nat) : State :=
  let ws := (savedWgs s cid).map (·.1)
  let s0 := (s.cmds.filter fun e => ws.contains e.2.wg).foldl (fun s e => stopCmd s e.1 e.2) s
  let s1 := ws.foldl dropPins s0
  let s2 := expireCopies s1 cid false
  { s2 with mxops := tmap s2.mxops fun _ o => { o with hosts := o.hosts.map fun h =>
    if h.cid = cid then { h with staged := none, full := none, load := if h.started then some { k := o.kdone } else none } else h } }

/-- The CU has saved. -/
def markSaved (s : State) (cid : Nat) : State :=
  s.modCu cid fun u => { u with save := { u.save with saved := true } }

/-- PREEMPT_BUDGET_EXPIRY: the forced save keeps everything; threads on pipes stand at their words (R406, R407). -/
def execPreemptBudgetExpiry (cid : Nat) (s : State) : Out :=
  .next (if delivering s cid && forced s cid && !(allYielded s cid && !(savedThreads s cid).isEmpty) && !unitsOpen s cid && accessesDone s cid then
    let ts := savedThreads s cid
    let s1 := { s with threads := tmap s.threads fun t x => if ts.contains t then standing s t x else x }
    markSaved (beforeSave (dropFromPipes s1 ts) cid) cid
  else s)

/-- The reduced save of a thread: its v- and o-registers are given up (R407). -/
def reduceThread (x : Thread) : Thread := { x with regs := [], bad := x.bad.filter fun e => decide (116 ≤ e.1) }

/-- The reduced save of a workgroup's memory: its scratchpad is zeroed, the block labels kept (R407). -/
def reduceMem (m : WgMem) : WgMem := { m with spad := [], bad := [] }

/-- REDUCED_SAVE: every live thread has executed CTXYIELD within the budget; register values, scratchpad and AM elements are
zeroed, every label kept (R406, R407). -/
def execReducedSave (cid : Nat) (s : State) : Out :=
  .next (if delivering s cid && allYielded s cid && !(savedThreads s cid).isEmpty && !unitsOpen s cid && accessesDone s cid then
    let s1 := beforeSave s cid
    let ts := savedThreads s1 cid
    let s2 := { s1 with threads := tmap s1.threads fun t x => if ts.contains t then reduceThread x else x }
    let s3 := (savedWgs s2 cid).foldl (fun s e => s.modMem e.1 reduceMem) s2
    markSaved (s3.modCu cid fun u => { u with am := [], amBad := [] }) cid
  else s)

/-! The restore (R402, R408, R410). -/

/-- The resident context of a partition. -/
def residentOf (s : State) (p : Nat) : Option Nat := (partVfs s p).find? fun v => (s.ctx v).resident

/-- The next runnable context in cyclic order after the last one that was resident. -/
def nextContext (s : State) (p : Nat) (out : Option Nat) : Option Nat :=
  let l := (runnables s p).filter fun v => some v ≠ out
  let last := (s.part p).last
  match l.find? fun v => decide (last < v) with
  | some v => some v
  | none => l.head?

/-- The resident context may leave: it is fully saved with no report under way, or it is not runnable (R406). -/
def mayLeave (s : State) (p vf : Nat) : Bool :=
  if (s.ctx vf).preempting.isSome then
    (ctxCus s vf).all (fun c => (s.cu c).save.saved) && !s.msgs.any fun e => match e.2 with
      | .report src _ _ _ _ _ _ => (partCus s p).contains src
      | .put _ _ _ _ _ _ _ => false
  else !runnable s vf

/-- What a context leaves on the CUs goes to its save area (R410). -/
def switchOut (s : State) (p vf : Nat) : State :=
  let keep : Table CuSave := (partCus s p).foldl (fun m c =>
    let u := s.cu c
    let v : CuSave := { am := u.am, amBad := u.amBad, banks := u.banks, credits := u.credits }
    if v = {} then m else tput m c v) []
  let s1 := s.modCtx vf fun c => { c with resident := false, savedCtx := runnable s vf, preempting := none, cuSave := keep }
  { s1 with cus := tmap s1.cus fun c u => if (partCus s p).contains c then { u with am := [], amBad := [], banks := [], credits := [], save := {}, l1 := [] } else u }

/-- A context comes back on its CUs, its refused accesses issued again, or starts (R402, R408, R410). -/
def switchIn (s : State) (p vf : Nat) : State :=
  let s1 := (s.ctx vf).cuSave.foldl (fun s e => s.modCu e.1 fun u => { u with am := e.2.am, amBad := e.2.amBad, banks := e.2.banks, credits := e.2.credits }) s
  let mine := fun (t : Nat) => decide (s.vfOf (wgOf t) = vf)
  let s2 : State := {
    s1 with
    threads := tmap s1.threads fun t x => if mine t then { x with saved := false, signalled := false } else x
    accs := tmap s1.accs fun _ a => if mine a.tid ∧ a.stage = .retry then { a with stage := .issued } else a }
  (s2.modCtx vf fun c => { c with resident := true, savedCtx := false, cuSave := [], sliceStart := s.now }).modPart p fun q => { q with last := vf }

/-- CONTEXT_RESTORE: a saved or idle resident context leaves, and the next runnable one is restored or started; with none, the
one that was saved comes back (R402). -/
def execContextRestore (part : Nat) (s : State) : Out :=
  .next (match residentOf s part with
    | none => match nextContext s part none with
      | some v => switchIn s part v
      | none => s
    | some r =>
      if mayLeave s part r then
        match nextContext s part (some r) with
        | some v => switchIn (switchOut s part r) part v
        | none => if (s.ctx r).preempting.isSome then switchIn (switchOut s part r) part r else s
      else s)

/-- PREEMPT_WATCHDOG: a pre-emption not complete within wdog resets the partition (R411, R427). -/
def execPreemptWatchdog (vf : Nat) (s : State) : Out :=
  let c := s.ctx vf
  let w := bits c.binding.toNat 16 16
  .next (match c.preempting with
    | some t => if decide (w ≠ 0) && decide (w * 1000 ≤ (s.now - t).toNat) then resetPart s (s.partOf vf) else s
    | none => s)

/-! What stands still while its context is saved or not resident (R402, R407 to R409). -/

/-- The workgroup of an access. -/
def frozenAcc (s : State) (a : Nat) : Bool := ((tfind s.accs a).map fun x => frozenWg s (wgOf x.tid)).getD false

/-- The members of a matrix operation. -/
def frozenOp (s : State) (o : Nat) : Bool := ((tfind s.mxops o).map fun x => x.members.any fun g => frozenWg s (g / 16)).getD false

/-- The work of a step belongs to a context that is saved or not resident: the step waits. -/
def frozen (s : State) (e : Instr) : Bool :=
  match e with
  | .homeFetch a | .homeWrite a | .writeCompletionReturn a | .heldReleaseStoreSend a | .refusedAccessRetry a | .deferredRefusal a
  | .loadValueArrival a | .specialFunctionResult a | .listInsertStep a => frozenAcc s a
  | .threadReady t | .dtimeWaitEnd t | .waitSatisfied t | .cwaitSatisfied t | .ocenterEntry t => frozenWg s (wgOf t)
  | .xgsendSlotFill w _ | .xgrecvDelivery w _ | .notifyWordWrite w _ | .copyStatusWrite w _ => frozenWg s w
  | .amBankRelease c _ => (s.cu c).save.saved
  | .ringPutSlotHandout w _ | .ringClaimService w _ | .qpeekClaimService w _ | .barrierCompletion w _ | .workgroupEnd w | .checkpointCommit w
  | .rollback w | .pairCompare w | .pairIntervalLimit w => frozenWg s w
  | .copyUnitWrite (c, _) | .copyCompletion c | .gateDecision c => ((tfind s.cmds c).map fun x => frozenWg s x.wg).getD false
  | .mxopHostStart o _ | .mxopPromotion o _ => frozenOp s o
  | .remotePutArrival m => match tfind s.msgs m with
    | some (.put _ _ _ _ l _ _) => !(s.ctx (s.launch l).vf).resident
    | _ => false
  | .levelBarrierCompletion l _ _ | .rasterBin l | .fragmentOutput l _ | .tileStore l _ => !(s.ctx (s.launch l).vf).resident
  | _ => false

/-! Bandwidth slots (R403 to R405). -/

/-- The bank cell that holds the frame of an access to this device's own memory (R403; log entry 17). -/
def cellFor (s : State) (a : Access) : Option Nat :=
  let p := s.page a.ia
  if a.space = .mem ∧ p.b ∧ p.tier = 0 ∧ p.dev = none then some (p.frame.toNat / 1024) else none

/-- An access is served in its bank's channel, in the slots of the partition that owns the bank (R403). -/
def servedAs (s : State) (a : Access) (ch p : Nat) : Bool :=
  match cellFor s a with
  | some c => decide (c / 16 = ch) && (tfind (s.channel ch).owners (c % 16)).any fun o => o.getLsbD 5 && decide (bits o.toNat 0 5 = p)
  | none => false

/-- The requests that are pending in a channel for the banks of a partition, oldest first. -/
def pendingIn (s : State) (ch p : Nat) : List Nat :=
  (s.accs.filter fun e => !e.2.slot && decide (e.2.stage = .issued) && (globalKind e.2.kind || decide (e.2.kind = .fetch)) &&
    servedAs s e.2 ch p).map (·.1)

/-- The partition a position of the slot table serves, and whether it is lent (R404). -/
def slotServes (s : State) (ch : Nat) : Option (Nat × Bool) :=
  let c := s.channel ch
  let e := sget 0#8 c.slots c.pos
  let o := bits e.toNat 0 5
  if e.getLsbD 7 && !(pendingIn s ch o).isEmpty then some (o, false)
  else if c.lend then
    (((upto 32).map fun i => (c.lastLent + 1 + i) % 32).find? fun p => !(pendingIn s ch p).isEmpty).map fun p => (p, true)
  else none

/-- The next position; a new table and lend take effect at the wrap (R404). -/
def nextPos (c : Channel) : Channel :=
  if c.pos = 63 then { c with pos := 0, slots := c.nextSlots, lend := c.nextLend } else { c with pos := c.pos + 1 }

/-- SLOT_POSITION_SERVICE: the owner's oldest request, a lent one, or none (R404). Which position serves an access changes no value;
the access's own steps perform it. -/
def execSlotPositionService (channel : Nat) (s : State) : Out :=
  .next (if 192 ≤ channel then s
  else
    let c := s.channel channel
    match slotServes s channel with
    | none => { s with channels := tput s.channels channel (nextPos { c with servedNow := none }) }
    | some (p, lent) =>
      let a := (pendingIn s channel p).headD 0
      let s1 := s.modAcc a fun x => { x with slot := true }
      { s1 with channels := tput s1.channels channel (nextPos { c with servedNow := some (p, a), lastLent := if lent then p else c.lastLent }) })

end Sys2Proof.Machine
end

