-- ==== Sys2Proof/Machine/Pages.lean ====
section
/-! DEFINITION. Page migration, freeing, scrubbing and harvest (R353 to R361, R425, R429). -/

namespace Sys2Proof.Machine

/-! Counting periods (R356, R357). -/

/-- The length of a halving period in ticks; 0 never halves. -/
def halvePeriod (p : Partition) : Nat := bits p.migrate.toNat 0 32 * 1024

/-- The counters of a page, halved (R356). -/
def halvePage (p : Page) : Page := { p with lacc := p.lacc / 2, racc := p.racc / 2, cnt := p.cnt / 2 }

/-- MIGRATION_HALVING: at the end of a period, every page of the partition's windows (R356). -/
def execMigrationHalving (part : Nat) (s : State) : Out :=
  let p := s.part part
  .next (match p.nextHalve with
    | some t =>
      if decide (t ≤ s.now) && decide (0 < halvePeriod p) then
        let s1 := { s with pages := tmap s.pages fun k x => if inWindows s part (65536 * k) then halvePage x else x }
        s1.modPart part fun q => { q with nextHalve := some (t + d64 (halvePeriod p)) }
      else s
    | none => s)

/-- MIGRATION_CONTROL_WRITE: takes effect at once; the next halving is one full period later; pages whose count has reached the
new threshold migrate (R357). -/
def execMigrationControlWrite (part : Nat) (data : BitVec 64) (s : State) : Out :=
  .next (if 32 ≤ part then s
  else
    let v := data &&& 0x1FFFFFFFFFF#64
    let s1 := s.modPart part fun q =>
      let q := { q with migrate := v }
      { q with nextHalve := if halvePeriod q = 0 then none else some (s.now + d64 (halvePeriod q)) }
    s1.pages.foldl (fun s e => if e.2.b && inWindows s part (65536 * e.1) && decide (0 < e.2.cnt) then migrationTrigger s (65536 * e.1) else s) s1)

/-! Freeing (R360, R361). -/

/-- The pages of the block of a page: the 32 of a 2 MiB page, or itself (R353). -/
def blockOf (s : State) (page : Nat) : List Nat := if (s.page (65536 * page)).lg then (upto 32).map (page / 32 * 32 + ·) else [page]

/-- Every pin of a line is performed at its home. -/
def unpin (s : State) (line : Nat) : State :=
  (pinHolders s line).foldl (fun s h => match pinAt s h line with
    | some p => performPin s h p (some p.tid)
    | none => s) s

/-- The pins of the lines of a page are performed at their homes (R358, R360). -/
def unpinPage (s : State) (page : Nat) : State := (upto 1024).foldl (fun s i => unpin s (1024 * page + i)) s

/-- The lines of a page. -/
def inPage (page line : Nat) : Bool := decide (line / 1024 = page)

/-- Every copy of a page's lines is invalidated and the lease entries are dropped; a slice keeps their ends as its bound (R280,
R360). -/
def dropPage (s : State) (page : Nat) : State :=
  let bound := fun (c : Core) => (c.leases.filter fun e => inPage page e.1).foldl (fun b e => if b < e.2.le then e.2.le else b) c.retired
  { s with
    cus := tmap s.cus fun _ u => { u with l1 := u.l1.filter fun e => !inPage page e.1 }
    cores := tmap s.cores fun _ c =>
      { c with l2 := c.l2.filter fun e => !inPage page e.1, leases := c.leases.filter fun e => !inPage page e.1, retired := bound c } }

/-- The number of a device: 64 stands for this one. -/
def devNum (d : Option (BitVec 6)) : Nat := (d.map (·.toNat)).getD 64

/-- A frame passes to the scrubber of its device with that scrubber's next ticket; a retired frame does not (R361, R425). -/
def scrubFrame (s : State) (p : Page) : State :=
  if p.retired then s
  else s.modPkg fun k =>
    let t := sget 0 k.tickets (devNum p.dev) + 1
    { k with tickets := sset 0 k.tickets (devNum p.dev) t
             scrubs := k.scrubs ++ [{ part := p.part, tier := p.tier, dev := p.dev, frame := p.frame, ticket := t }] }

/-- An unbacked page entry: only nr and nw stay (R360 step 4). -/
def unbacked (p : Page) : Page := { nr := p.nr, nw := p.nw }

/-- A page is freed: pins, copies, the entry, the bytes, the frame (R360). -/
def freeOne (s : State) (page : Nat) : State :=
  let p := s.page (65536 * page)
  if !p.b then { s with pages := tput s.pages page { p with mov := false, free := false, goal := none } }
  else
    let s1 := dropPage (unpinPage s page) page
    let q := s1.page (65536 * page)
    let s2 := scrubFrame s1 q
    { s2 with
      pages := tput s2.pages page (unbacked q)
      mem := s2.mem.filter fun e => decide (e.1 / 65536 ≠ page)
      grains := s2.grains.filter fun e => decide (e.1 / 8192 ≠ page)
      sectors := s2.sectors.filter fun e => decide (e.1 / 1024 ≠ page) }

/-- The pages of a block are freed. -/
def freePage (s : State) (page : Nat) : State := (blockOf s page).foldl freeOne s

/-- PAGE_FREE: of a page that a partition's teardown has frozen (R360, R400). -/
def execPageFree (page : Nat) (s : State) : Out := .next (if (s.page (65536 * page)).free then freePage s page else s)

/-- The pool a scrubbed frame goes back to, and its number there. -/
def homePool (x : Scrub) : PoolKey × Nat :=
  let f := x.frame.toNat
  match x.tier.toNat, x.dev with
  | 2, _ => (.cxl x.part, f)
  | 3, _ => (.host x.part, f)
  | _, some d => (.peer x.part d, f)
  | _, none => (.cell (f / 1024), f % 1024)

/-- SCRUB_FRAME: a device's scrubber writes zeros to its oldest frame, advances its completion counter to the frame's ticket, and the
frame goes back to its pool (R361); device 64 stands for this one. -/
def execScrubFrame (dev : Nat) (s : State) : Out :=
  .next (match s.pkg.scrubs.find? fun x => decide (devNum x.dev = dev) with
    | none => s
    | some x =>
      let s1 := s.modPkg fun k => { k with scrubs := k.scrubs.erase x, scrubbed := sset 0 k.scrubbed dev x.ticket }
      let p := s1.pool (homePool x).1
      s1.setPool (homePool x).1 { p with back := p.back ++ [(homePool x).2] })

/-! Migration (R358, R425). -/

/-- Failed lines are carried as markers (R413, R425). -/
def carryMarks (s : State) (page : Nat) : State :=
  let mark := fun (g : Grain) => if grainBad g then Grain.marker else g
  { s with
    grains := tmap s.grains fun k g => if k / 8192 = page then mark g else g
    sectors := tmap s.sectors fun k g => if k / 1024 = page then mark g else g }

/-- A page moves to a new frame: pins performed, the entry switched, copies in the L2s of a new home on this device dropped, leases
kept, the old frame scrubbed (R358). -/
def moveOne (s : State) (page tier : Nat) (dev : Option (BitVec 6)) (frame : Nat) : State :=
  let s1 := carryMarks (unpinPage s page) page
  let q := s1.page (65536 * page)
  let s2 := scrubFrame s1 q
  { s2 with
    cores := if dev.isSome then s2.cores else tmap s2.cores fun _ c => { c with l2 := c.l2.filter fun e => !inPage page e.1 }
    pages := tput s2.pages page
      { q with tier := BitVec.ofNat 2 tier, dev := dev, frame := BitVec.ofNat 32 frame, mov := false, goal := none, retired := false } }

/-- Move a page, or a 2 MiB page whole; none where a frame is missing (R353, R358). -/
def movePage (s : State) (page tier : Nat) (dev : Option (BitVec 6)) : Option State :=
  let p := s.page (65536 * page)
  if p.lg then (takeLarge s p.part tier dev).map fun x => (upto 32).foldl (fun s i => moveOne s (page / 32 * 32 + i) tier dev (x.2 + i)) x.1
  else (takeFrame s p.part tier dev).map fun x => moveOne x.1 page tier dev x.2

/-- PAGE_MIGRATION: a page whose migration has been decided, once a frame is there (R357, R358, R425). -/
def execPageMigration (page : Nat) (s : State) : Out :=
  let p := s.page (65536 * page)
  .next (match p.goal with
    | some (tier, dev) => if p.b then (movePage s page tier.toNat dev).getD s else s.modPage (65536 * page) fun p => { p with goal := none }
    | none => s)

/-- Read and clear the dirty bits of pages, every pinned write performed first (R429). The bit of a 2 MiB page is one bit (R353): it is
reported for each of its pages named. -/
def harvest (s : State) (page n : Nat) : State × List Bool :=
  let s1 := (upto n).foldl (fun s i => unpinPage s (page + i)) s
  let clear := fun (s : State) (k : Nat) => if (tfind s.pages k).isSome then s.modPage (65536 * k) fun p => { p with dirty := false } else s
  ((upto n).foldl (fun s i => clear s (page + i)) s1, (upto n).map fun i => (s1.page (65536 * (page + i))).dirty)

/-- A bitmap: bit i of byte i / 8. -/
def bitmapBytes (l : List Bool) : List Byte :=
  (upto ((l.length + 7) / 8)).map fun k => BitVec.ofNat 8 ((upto 8).foldl (fun n j => n + if (l[8 * k + j]?).getD false then 2 ^ j else 0) 0)

end Sys2Proof.Machine
end

