-- ==== Sys2Proof/Machine/HostIO.lean ====
section
/-! DEFINITION. The host's accesses: the BAR2 window, the register blocks, counters, fault-event rings (R290, R350, R426, R432,
R441 to R449, R456). -/

namespace Sys2Proof.Machine

/-! BAR2 (R290, R443). -/

/-- The VA a window offset names. -/
def windowVa (c : Context) (offset : Nat) : Nat := bits c.bar2.toNat 38 10 * 2 ^ 38 + offset

/-- The principal of the host, as a label. -/
def hostLabel (c : Context) : Label := 1#16 <<< bits c.bar2.toNat 48 4

/-- A refused access posts its event (R443). -/
def refuseHost (s : State) (vf va cause : Nat) : State := postVf s vf { type := 7, cause := cause, addr := d64 va }

/-- A host read completes. -/
def answerHost (s : State) (vf offset : Nat) (a : HostAnswer) : State := s.modPkg fun k => { k with hostReads := k.hostReads ++ [(vf, offset, a)] }

/-- The bytes of the parts of a host read at their homes, with their label, or the cause of the first that is refused (R290, R351). -/
def hostGet (s : State) (vf : Nat) : List (Nat × Nat) → Dev (State × Option Nat × List Byte × Label)
  | [] => .ok (s, none, [], 0)
  | e :: r => match engineRead s noLaunch vf e.1 e.2 with
    | .wait _ => .error .held
    | .refused s' cause _ => .ok (s', some cause, [], 0)
    | .ok s' bs _ l => (hostGet s' vf r).map fun x => (x.1, x.2.1, bs ++ x.2.2.1, l ||| x.2.2.2)

/-- A host read through an open window: translated, checked, read at the home with no lease; its label must name nobody else
(R290, R443). -/
def bar2Read (s : State) (vf offset n : Nat) : Dev State :=
  let c := s.ctx vf
  let va := windowVa c offset
  let abort := fun (s : State) (cause : Nat) => answerHost (refuseHost s vf va cause) vf offset .completerAbort
  if !bit c.bar2.toNat 63 then .ok (answerHost s vf offset .unsupported)
  else match spanCause s vf (d64 va) n { rd := true } with
    | some cause => .ok (abort s cause)
    | none => ((devTouch s vf va n).bind fun s => hostGet s vf (lineParts va n)).map fun x => match x.2.1 with
      | some cause => abort x.1 cause
      | none => if x.2.2.2 &&& ~~~hostLabel c = 0 then answerHost x.1 vf offset (.data (leNat x.2.2.1)) else abort x.1 5

/-- BAR2_READ of up to a line; a wider access arrives as several (R443, R457; log entry 48). -/
def execBar2Read (vf offset width : Nat) (s : State) : Out :=
  .next (if width = 0 ∨ 64 < width ∨ 2 ^ 38 < offset + width then s else portStep s (.bar2Read vf offset width) (bar2Read s vf offset width))

/-- A host write through BAR2 must wait for the write before it (R290). -/
def hostWriteWaits (s : State) (vf : Nat) : Bool := decide (sget 0 s.pkg.hostWct (portOf vf) ≠ 0) && decide (s.now ≤ sget 0 s.pkg.hostWct (portOf vf))

/-- A part of a host write at its home, with the host's label; a refused one is dropped and reported (R290, R351, R443). -/
def hostPut (s : State) (vf va : Nat) (bs : List Byte) : Dev State :=
  let c := s.ctx vf
  match rangeOf s vf (d64 va) with
  | none => .ok (refuseHost s vf va 4)
  | some (_, r) =>
    let sp := spaceOf r
    let ia := iaOf r (d64 va)
    if !(pinHolders s (lineOf sp ia)).isEmpty then .error (.pin (lineOf sp ia))
    else match memSide s vf c.dom sp r ia true (hostLabel c) with
      | .retry _ => .error (.page vf va true)
      | .refused cause => .ok (refuseHost s vf va cause)
      | .ok s' =>
        let (s1, wct) := performStore s' vf noLaunch c.dom sp ia bs (hostLabel c)
        .ok (s1.modPkg fun k => { k with hostWct := tput k.hostWct (portOf vf) (if sget 0 k.hostWct (portOf vf) < wct then wct else sget 0 k.hostWct (portOf vf)) })

/-- The parts of a host write are performed. -/
def hostPuts (s : State) (vf va n : Nat) (data : Nat) : Dev State :=
  (lineParts va n).foldl (fun (o : Dev State) e => o.bind fun s => hostPut s vf e.1 (((leBytes data n).drop (e.1 - va)).take e.2)) (.ok s)

/-- A host write through an open window: performed at the home once device time exceeds the write-completion time of the port's
write before it, with the host's label; refused writes are dropped and reported (R290, R443). -/
def bar2Write (s : State) (vf offset n : Nat) (data : Nat) : Dev State :=
  let va := windowVa (s.ctx vf) offset
  if !bit (s.ctx vf).bar2.toNat 63 then .ok s
  else if hostWriteWaits s vf then .error .held
  else match spanCause s vf (d64 va) n { wr := true } with
    | some cause => .ok (refuseHost s vf va cause)
    | none => hostPuts s vf va n data

/-- BAR2_WRITE of up to a line; a wider access arrives as several (R290, R443, R457; log entry 48). -/
def execBar2Write (vf offset width : Nat) (data : BitVec 512) (s : State) : Out :=
  .next (if width = 0 ∨ 64 < width ∨ 2 ^ 38 < offset + width then s
  else portStep s (.bar2Write vf offset width data) (bar2Write s vf offset width data.toNat))

/-! Counters (R426, R444). -/

/-- A write to a counter word clears it (R426). -/
def clearCounter (s : State) (vf word : Nat) : State :=
  if word < 4 then s.modCtx vf fun c => { c with counters := tdel c.counters word } else s

/-- COUNTER_BLOCK_WRITE (R426, R441). -/
def execCounterBlockWrite (vf word : Nat) (s : State) : Out := .next (portStep s (.counters vf word) (.ok (clearCounter s vf word)))

/-- Advance a physical-function counter, saturating: 0 corrected and 1 uncorrected flit errors, 2 link retrains, 3 dropped flits, 4
CXL and 5 host link errors (R444; the order of the words, log entry 38). -/
def countPf (s : State) (word : Nat) : State :=
  s.modPkg fun k => { k with pfCounters := sset 0 k.pfCounters word (satField (sget 0 k.pfCounters word) 0 64) }

/-- PF_COUNTER_WRITE: any write clears the word (R444). -/
def execPfCounterWrite (word : Nat) (s : State) : Out := .next (s.modPkg fun k => { k with pfCounters := tdel k.pfCounters word })

/-! Registers with no row of their own (R441, R444). -/

/-- A workgroup of the context is placed (R350, R432). -/
def anyPlaced (s : State) (vf : Nat) : Bool := s.wgs.any fun e => !e.2.ended && decide (s.vfOf e.1 = vf)

/-- Replace a word of a list, which is made as long as needed. -/
def putWord (l : List DWord) (i : Nat) (v : DWord) : List DWord := (upto (max l.length 4)).map fun k => if k = i then v else (l[k]?).getD 0

/-- A write to word i of range register k: no effect while a workgroup is placed, with w and x both set, or with kind or place 11
(R350). -/
def writeRange (s : State) (vf k i : Nat) (data : DWord) : State :=
  let v := data.toNat
  if anyPlaced s vf || (decide (i = 3) && ((bit v 61 && bit v 60) || decide (bits v 58 2 = 3 ∨ bits v 56 2 = 3))) then s
  else
    let m : DWord := match i with
      | 0 | 1 => data &&& 0x0000FFFFFFFF0000#64
      | 2 => data &&& 0x000FFFFFFFFF0000#64
      | _ => data &&& 0xFFF800000000FFFF#64
    s.modCtx vf fun c => { c with ranges := tput c.ranges k (putWord ((tfind c.ranges k).getD []) i m) }

/-- A write to a fault-event ring descriptor (R446). -/
def writeRing (word : Nat) (data : DWord) (r : FaultRing) : FaultRing :=
  if word = 0 then { r with w0 := data &&& 0xFFFFFFFFFFFFFFC0#64 } else { r with w1 := data &&& 0x800000000000000F#64 }

/-- A write to a VF's register block (R441). -/
def writeVfReg (s : State) (vf offset : Nat) (data : DWord) : State :=
  if offset = 0x110 ∨ offset = 0x118 then s.modCtx vf fun c => { c with ring := writeRing ((offset - 0x110) / 8) data c.ring }
  else if 0x200 ≤ offset ∧ offset < 0x300 then writeRange s vf ((offset - 0x200) / 32) (offset / 8 % 4) data
  else if offset = 0x320 then (if anyPlaced s vf then s else s.modCtx vf fun c => { c with inject0 := data })
  else if offset = 0x328 then (if anyPlaced s vf then s else s.modCtx vf fun c => { c with inject1 := data })
  else if offset = 0x700 then s.modCtx vf fun c => { c with bar2 := data &&& 0x800FFFC000000000#64 }
  else s

/-- The enabled partitions. -/
def enabledParts (s : State) : List Nat := (upto 32).filter fun p => bit (s.part p).w1.toNat 63

/-- Every L2 slice is flushed and powered down; the bounds of its leases stay (R280, R456). -/
def flushSlices (s : State) : State :=
  { s with cores := tmap s.cores fun _ c =>
      { c with l2 := [], leases := [], retired := c.leases.foldl (fun b e => if b < e.2.le then e.2.le else b) c.retired } }

/-- The device enters PL3 when every enabled partition is in PL2 with tol at least 800: slices are flushed and powered down (R456). -/
def enterPl3 (s : State) : State :=
  let l := enabledParts s
  if !l.isEmpty && l.all fun p => decide ((s.part p).power = 2) && !(s.part p).waking && decide (800 ≤ (s.part p).tol.toNat) then
    flushSlices (l.foldl (fun s p => s.modPart p fun q => { q with power := 3 }) s)
  else s

/-- A write to a PF's register block: mailbox command words, fault-event ring, latency tolerances, mode words (R444, R446, R449,
R456). -/
def writePfReg (s : State) (port offset : Nat) (data : DWord) : State :=
  if offset < 0x40 then s.modPkg fun k =>
    let m := (tfind k.mailboxes port).getD {}
    { k with mailboxes := tput k.mailboxes port { m with command := sset 0 m.command (offset / 8) data } }
  else if offset = 0x100 ∨ offset = 0x108 then s.modPkg fun k =>
    { k with pfRings := tput k.pfRings port (writeRing ((offset - 0x100) / 8) data ((tfind k.pfRings port).getD {})) }
  else if 0x2000 ≤ offset ∧ offset < 0x2100 then enterPl3 (s.modPart ((offset - 0x2000) / 8) fun p => { p with tol := data &&& 0xFFFFFFFF#64 })
  else if 0x2100 ≤ offset ∧ offset < 0x2200 then
    let p := (offset - 0x2100) / 8
    if bit (s.part p).w1.toNat 63 then s else s.modPart p fun q => { q with mode := data &&& 0x1F#64 }
  else s

/-- REGISTER_WRITE: functions 0 to 383 are the VFs', 384 and 385 the PFs of ports 0 and 1 (R441, R444). Offsets that are not
listed, or not aligned, ignore it. -/
def execRegisterWrite (fn offset : Nat) (data : BitVec 64) (s : State) : Out :=
  .next (if offset % 8 ≠ 0 then s
  else if fn < 384 then portStep s (.register fn offset data) (.ok (writeVfReg s fn offset data))
  else if fn < 386 then writePfReg s (fn - 384) offset data
  else s)

/-- The power and thermal status register (R458). -/
def powerStatus (s : State) : DWord :=
  let k := s.pkg
  let st := if k.power = 4 then 4 else (enabledParts s).foldl (fun m p => min m (s.part p).power) (if (enabledParts s).isEmpty then 0 else 4)
  d64 (k.pkgw.toNat * 2 ^ 48 + k.tj.toNat * 2 ^ 40 + st * 2 ^ 32 + if k.hot then k.clk.toNat / 2 else k.clk.toNat)

/-- The cause summary: the overflow bit and the entries in use (R348). -/
def causeSummary (c : Context) : DWord := d64 ((if c.causeOvf then 2 ^ 63 else 0) + c.causes.length)

/-- Word i of cause entry e (R348). -/
def causeWord (c : Context) (e i : Nat) : DWord :=
  match c.causes[e]? with
  | none => 0
  | some x => if i = 0 then d64 (x.code * 2 ^ 56 + x.queue * 2 ^ 52 + x.seq % 2 ^ 16 * 2 ^ 32 + x.count.toNat) else x.pc &&& 0x0000FFFFFFFFFFFF#64

/-- What a host reads at an offset of a VF's register block, as an aligned 64-bit word; offsets not listed read 0, and so do the
write-only registers (R333, R337, R348, R350, R426, R432, R441, R443, R446; log entry 91). -/
def readVfReg (c : Context) (offset : Nat) : DWord :=
  let i := offset / 8
  if offset < 0x100 then let q := (tfind c.queues (i / 2)).getD {}; if i % 2 = 0 then q.w0 else q.w1
  else if offset = 0x110 then c.ring.w0
  else if offset = 0x118 then c.ring.w1
  else if 0x160 ≤ offset ∧ offset < 0x180 then c.events.extractLsb' (64 * (i - 0x2C)) 64
  else if 0x200 ≤ offset ∧ offset < 0x300 then d64 (rangeWord ((tfind c.ranges ((i - 0x40) / 4)).getD []) (i % 4))
  else if 0x300 ≤ offset ∧ offset < 0x320 then sget 0 c.counters (i - 0x60)
  else if offset = 0x320 then c.inject0
  else if offset = 0x328 then c.inject1
  else if offset = 0x400 then causeSummary c
  else if 0x410 ≤ offset ∧ offset < 0x610 then causeWord c ((i - 0x82) / 2) (i % 2)
  else if offset = 0x700 then c.bar2
  else 0

/-- What a host reads at an offset of a PF's register block (R357, R444, R446, R449, R456, R458; log entry 91). -/
def readPfReg (s : State) (port offset : Nat) : DWord :=
  let i := offset / 8
  let m := (tfind s.pkg.mailboxes port).getD {}
  let r := (tfind s.pkg.pfRings port).getD {}
  if offset < 0x40 then sget 0 m.command i
  else if offset < 0x80 then sget 0 m.response (i - 8)
  else if offset = 0x100 then r.w0
  else if offset = 0x108 then r.w1
  else if 0x1000 ≤ offset ∧ offset < 0x1040 then sget 0 s.pkg.pfCounters (i - 0x200)
  else if 0x2000 ≤ offset ∧ offset < 0x2100 then (s.part (i - 0x400)).tol
  else if 0x2100 ≤ offset ∧ offset < 0x2200 then (s.part (i - 0x420)).mode
  else if 0x2200 ≤ offset ∧ offset < 0x2300 then (s.part (i - 0x440)).migrate
  else if offset = 0x3000 then powerStatus s
  else 0

/-- What a host's read of a register answers: functions 0 to 383 are the VFs', 384 and 385 the PFs'; an access that is not an aligned
64-bit word reads 0, and a read changes nothing (R441, R442, R444). The opcode table has no row for it. -/
def registerRead (s : State) (fn offset bytes : Nat) : DWord :=
  if bytes ≠ 8 ∨ offset % 8 ≠ 0 then 0
  else if fn < 384 then readVfReg (s.ctx fn) offset
  else if fn < 386 then readPfReg s (fn - 384) offset
  else 0

/-! Fault-event rings (R446, R448). -/

/-- The oldest waiting event of a ring is posted where the ring has room. -/
def ringRelease (s : State) (r : FaultRing) : Option (Table Byte × FaultRing) :=
  match r.waiting with
  | [] => none
  | e :: rest => if ringRoom s r then some (ringWrite s.hostMem { r with waiting := rest } e) else none

/-- FAULT_EVENT_RING_ROOM: rings 0 to 383 are the VFs', 384 and 385 the PFs' (R448). -/
def execFaultEventRingRoom (ring : Nat) (s : State) : Out :=
  .next (if ring < 384 then
    match ringRelease s (s.ctx ring).ring with
    | some (hm, r) => ({ s with hostMem := hm }).modCtx ring fun c => { c with ring := r }
    | none => s
  else
    match ringRelease s ((tfind s.pkg.pfRings (ring - 384)).getD {}) with
    | some (hm, r) => ({ s with hostMem := hm }).modPkg fun k => { k with pfRings := tput k.pfRings (ring - 384) r }
    | none => s)

end Sys2Proof.Machine
end

