-- ==== Sys2Proof/Machine/Power.lean ====
section
/-! DEFINITION. Boot, power states, links, temperature (R2, R444, R451 to R454, R456 to R458). -/

namespace Sys2Proof.Machine

/-! Boot (R453, R454). -/

/-- A report on the module's SMBus management interface (R453, R458). -/
def reportSmbus (s : State) (what : Nat) : State :=
  { s with fresh := s.fresh + 1 }.modPkg fun k => { k with smbus := k.smbus ++ [(what, Config.smbusStatus what s.fresh)] }

/-- The package at power-on: what lies outside it, its configuration block and the reports stay; everything else is as after
reset. -/
def afterPowerOn (s : State) : State :=
  { State.reset with
    hostMem := s.hostMem, foreignMem := s.foreignMem, agenda := s.agenda, fresh := s.fresh
    pkg := { enabledCores := s.pkg.enabledCores, sku := s.pkg.sku, configVersion := s.pkg.configVersion, lendOk := s.pkg.lendOk, powerLimit := s.pkg.powerLimit, smbus := s.pkg.smbus } }

/-- The first boot step that fails: image signatures, image version, configuration block, memory and host ports (R453). -/
def bootFailure (image version config board : Bool) : Option Nat :=
  if !image then some 1 else if !version then some 2 else if !config then some 3 else if !board then some 4 else none

/-- POWER_ON_BOOT: at the first failing step the device stays in reset and reports it (R453). -/
def execPowerOnBoot (image version config board : Bool) (s : State) : Out :=
  .next (match bootFailure image version config board with
    | none => afterPowerOn s
    | some n => (reportSmbus (afterPowerOn s) n).modPkg fun k => { k with booted := false, bootStep := n })

/-! Power states (R456, R457). -/

/-- The partition has no runnable context and no placed workgroup (R456). -/
def partIdle (s : State) (p : Nat) : Bool := (partVfs s p).all fun v => !runnable s v && !anyPlaced s v

/-- The state that a tolerance allows an idle partition: the deepest of PL1 and PL2 (R456). -/
def idleState (tol : Nat) : Nat := if 40 ≤ tol then 2 else if 2 ≤ tol then 1 else 0

/-- IDLE_POWER_ENTRY: after 100 µs; then PL3 where every enabled partition allows it (R456). -/
def execIdlePowerEntry (part : Nat) (s : State) : Out :=
  let p := s.part part
  .next (if bit p.w1.toNat 63 && decide (p.power = 0) && !p.waking && partIdle s part && decide (100000 ≤ (s.now - p.idleSince).toNat) then
    enterPl3 (s.modPart part fun q => { q with power := idleState p.tol.toNat })
  else s)

/-- A flit that has arrived is delivered, after those before it (R451). -/
def deliverFlit (s : State) (port src dst : Nat) : State := s.modPkg fun k => { k with delivered := k.delivered ++ [(port, src, dst)] }

/-- The effect of an access that has waited. -/
def makeAccess (s : State) (a : HostAcc) : Dev State :=
  match a with
  | .doorbell vf d => doorbell s vf d
  | .eventSet vf w d => .ok (setEvents s vf w d)
  | .eventClear vf w d => .ok (clearEvents s vf w d)
  | .queueWrite vf q w d => writeQueue s vf q w d
  | .preempt vf d => .ok (writePreempt s vf d)
  | .causes vf d => .ok (clearCauses s vf d)
  | .counters vf w => .ok (clearCounter s vf w)
  | .register vf o d => .ok (writeVfReg s vf o d)
  | .bar2Read vf o n => bar2Read s vf o n
  | .bar2Write vf o n d => bar2Write s vf o n d.toNat
  | .flit _ port src dst => .ok (deliverFlit s port src dst)

/-- The accesses that waited are made in the order they came, each once its partition is awake and none before it of its port waits; what
cannot be made waits on (R290, R441, R457). -/
def makeAccesses : List HostAcc → State → List HostAcc → State × List HostAcc
  | [], s, k => (s, k)
  | a :: r, s, k =>
    if portReady s k a then
      match makeAccess s a with
      | .ok s' => makeAccesses r s' k
      | .error e => makeAccesses r (devWaits s e) (k ++ [a])
    else makeAccesses r s (k ++ [a])

/-- What waited goes on where it can. -/
def drainPorts (s : State) : State :=
  let (s1, rest) := makeAccesses s.pkg.waiting (s.modPkg fun k => { k with waiting := [] }) []
  rest.foldl waitForExit s1

/-- Partitions are active, and what waited for them goes on. -/
def activate (s : State) (parts : List Nat) : State :=
  drainPorts (parts.foldl (fun s p => s.modPart p fun q => { q with power := 0, waking := false, idleSince := s.now }) s)

/-- POWER_STATE_EXIT: a partition's exit is complete; an exit from PL3 wakes the whole device (R457). -/
def execPowerStateExit (part : Nat) (s : State) : Out :=
  .next (if (s.part part).waking && decide (s.pkg.power ≠ 4) && !s.pkg.hotReset then
    activate s (if (s.part part).power = 3 then enabledParts s else [part])
  else s)

/-- The device leaves PL4 with device time resynchronised; it never runs backwards (R52, R457). -/
def wakePackage (s : State) (t : DWord) : State :=
  let s1 := { s with now := if s.now < t then t else s.now }.modPkg fun k => { k with power := 0 }
  activate s1 (enabledParts s1)

/-- PCIE_WAKE (R457). -/
def execPcieWake (podTime : BitVec 64) (s : State) : Out := .next (if s.pkg.power = 4 then wakePackage s podTime else s)

/-- No partition is at work: PL4 takes no placed workgroup and no runnable context. -/
def allIdle (s : State) : Bool := (enabledParts s).all (partIdle s)

/-- The device sleeps (R456, R457). -/
def sleep (s : State) : State :=
  flushSlices ((enabledParts s).foldl (fun s p => s.modPart p fun q => { q with power := 4 }) (s.modPkg fun k => { k with power := 4 }))

/-! Links (R400, R444, R451, R452). -/

/-- The enabled partition that a pid and an ingress port belong to. -/
def flitPart (s : State) (port pid : Nat) : Option Nat :=
  (enabledParts s).find? fun p => decide (bits (s.part p).w0.toNat 48 16 = pid) && bit (s.part p).w0.toNat (32 + port) && (s.part p).routes

/-- FLIT_ARRIVAL: a CRC failure is corrected by the link's retry, which brings the flit again; a flit with no route is dropped and
counted; others are delivered in order, after the partition's exit (R400, R451, R457). -/
def execFlitArrival (port pid src dst : Nat) (crcOk routeOk : Bool) (s : State) : Out :=
  .next (if 16 ≤ port ∨ s.pkg.portsDown.getLsbD port then s
  else if !crcOk then countPf s 0
  else match if routeOk then flitPart s port pid else none with
    | none => countPf s 3
    | some p =>
      portStep s (.flit p port src dst) (.ok (deliverFlit s port src dst)))

/-- PORT_TRAIN_DOWN: the port's traffic goes over the partition's other ports; with none left, accesses to other devices fail
(R452). -/
def execPortTrainDown (port : Nat) (s : State) : Out :=
  .next (if port < 16 then s.modPkg fun k => { k with portsDown := k.portsDown ||| 1#16 <<< port } else s)

/-- LINK_RETRAIN: Basor ports 0 to 15, CXL ports 16 to 19, host ports 20 and 21; a Basor port is back in service (R444). -/
def execLinkRetrain (kind : Nat) (s : State) : Out :=
  let s1 := if kind < 16 then s.modPkg fun k => { k with portsDown := k.portsDown &&& ~~~(1#16 <<< kind) } else s
  .next (if kind < 22 then countPf s1 2 else s)

/-! Power and temperature (R458). -/

/-- POWER_WINDOW: at the end of each 1 ms window; over the limit the clock falls by 100 MHz, not below 900 MHz (R458). -/
def execPowerWindow (watts : BitVec 16) (s : State) : Out :=
  .next (if 1000000 ≤ (s.now - s.pkg.windowStart).toNat then s.modPkg fun k =>
      { k with
        pkgw := watts, windowStart := s.now
        clk := if k.powerLimit < watts.toNat ∧ 900 < k.clk.toNat then (if k.clk.toNat < 1000 then 900#16 else k.clk - 100) else k.clk }
    else s)

/-- Every enabled partition is reset and held (R458). -/
def holdAll (s : State) : State :=
  reportSmbus ((enabledParts s).foldl resetPart (s.modPkg fun k => { k with hotReset := true })) 115

/-- Below 115 °C the partitions are let go: queues are passed over, and what waited goes on. -/
def letGo (s : State) : State :=
  let s1 := s.modPkg fun k => { k with hotReset := false }
  let s2 := (enabledParts s1).foldl (fun s p => (partVfs s p).foldl eventPass s) s1
  activate s2 ((enabledParts s2).filter fun p => decide ((s2.part p).power = 0))

/-- JUNCTION_TEMPERATURE: at 105 °C the clock is halved; at 115 °C every partition is held in reset (R458). -/
def execJunctionTemperature (celsius : BitVec 8) (s : State) : Out :=
  let s1 := s.modPkg fun k => { k with tj := celsius, hot := decide (105 ≤ celsius.toNat) }
  .next (if 115 ≤ celsius.toNat then (if s.pkg.hotReset then s1 else holdAll s1)
  else if s.pkg.hotReset then letGo s1 else s1)

end Sys2Proof.Machine
end

