-- ==== Sys2Proof/Machine/Mailbox.lean ====
section
/-! DEFINITION. Mailbox commands (R353, R357, R360, R362, R365, R366, R399 to R404, R427, R429, R445, R448, R455, R457). -/

namespace Sys2Proof.Machine

/-! The controller (R445). -/

/-- The response of a mailbox: the status in word 0, a result in word 1 (R444, R445; log entry 39). -/
def respond (s : State) (port : Nat) (status : BitVec 8) (result : DWord) : State :=
  s.modPkg fun k =>
    let m := (tfind k.mailboxes port).getD {}
    { k with mailboxes := tput k.mailboxes port { m with response := sset 0 (sset 0 m.response 0 (status.zeroExtend 64)) 1 result } }

/-- Done (R445). -/
def done (s : State) (port : Nat) : State := respond s port 0 0

/-- Refused by a rule that names no status (log entry 39). -/
def refused (s : State) (port : Nat) : State := respond { s with fresh := s.fresh + 1 } port (Config.refusedStatus port s.fresh) 0

/-- A command of a PF's mailbox, whole; in PL4 its doorbell wakes the device first (R445, R457). -/
def command (s : State) (port : Nat) (f : State → State) : Out :=
  .next (if 2 ≤ port then s
  else if s.pkg.power = 4 then f (wakePackage { s with fresh := s.fresh + 1 } (Config.podTime s.fresh))
  else f s)

/-! Partitions (R399, R400, R455). -/

/-- Another record of the device owns a core or a port that the word names. -/
def ownedElsewhere (s : State) (part : Nat) (w0 : DWord) : Bool :=
  s.parts.any fun e => decide (e.1 ≠ part) && decide (e.2.w0 &&& w0 &&& 0x0000FFFFFFFFFFFF#64 ≠ 0)

/-- A context bound to the partition is resident or saved. -/
def partHeld (s : State) (part : Nat) : Bool := (partVfs s part).any fun v => (s.ctx v).resident || (s.ctx v).savedCtx

/-- Teardown: en clears, the keys are destroyed, the partition's pages are freed (R360, R400, R455). -/
def tearDown (s : State) (part : Nat) : State :=
  let s1 := s.modPart part fun q => { q with w1 := q.w1 &&& 0x7FFFFFFFFFFFFFFF#64, keys := false, routes := false, power := 0, waking := false }
  { s1 with pages := tmap s1.pages fun _ p => if p.b ∧ p.part = part then { p with mov := true, free := true } else p }

/-- A record is written, with the windows of the composition; en is set where every spanned device agrees (R352, R399, R400). -/
def writeRecord (s : State) (part : Nat) (w0 w1 : DWord) (windows : List (Nat × Nat)) : State :=
  let n := bits w1.toNat 0 6
  let on := bit w1.toNat 63 && (decide (n = 0) || Config.podAgrees (bits w0.toNat 48 16) n)
  s.modPart part fun q =>
    { q with
      w0 := w0, w1 := (w1 &&& 0x3F#64) ||| (if on then 0x8000000000000000#64 else 0), routes := on, keys := on, power := 0
      waking := false, idleSince := s.now, windows := windows }

/-- WRITE_PARTITION_RECORD: while en is set only its clearing is taken; the IA windows come with the composition, as pairs of a first
and a last IA (R352, R399, R400; log entry 19). -/
def execWritePartitionRecord (port part : Nat) (words : BitVec 64 × BitVec 64) (windows : List (Nat × Nat)) (s : State) : Out :=
  command s port fun s =>
    let (w0, w1) := words
    if 32 ≤ part then refused s port
    else if bit (s.part part).w1.toNat 63 then
      (if bit w1.toNat 63 || partHeld s part then refused s port else done (tearDown s part) port)
    else if ownedElsewhere s part w0 then refused s port
    else done (writeRecord s part w0 w1 windows) port

/-- The binding word after a write: slice and wdog always; while en is set, en may clear; while it is clear, every field; both only
while the context is neither resident nor saved (R401). -/
def bindWord (c : Context) (data : DWord) : DWord :=
  let times : DWord := data &&& 0x0000FFFFFFFF0000#64
  let kept : DWord := c.binding &&& 0x9F00000000000000#64
  let fresh : DWord := data &&& 0x9F00000000000000#64
  if c.resident ∨ c.savedCtx then kept ||| times
  else if bit c.binding.toNat 63 then (kept &&& (if bit data.toNat 63 then 0xFFFFFFFFFFFFFFFF#64 else 0x7FFFFFFFFFFFFFFF#64)) ||| times
  else fresh ||| times

/-- BIND_VF (R401). -/
def execBindVf (port vf : Nat) (data : BitVec 64) (s : State) : Out :=
  command s port fun s => if 384 ≤ vf then refused s port else done (s.modCtx vf fun c => { c with binding := bindWord c data }) port

/-! Bank-owner and slot tables (R403, R404, R454). -/

/-- Every partition that owns a bank of the channel has a slot. -/
def ownersServed (c : Channel) : Bool :=
  c.owners.all fun e => !e.2.getLsbD 5 || c.nextSlots.any fun x => x.2.getLsbD 7 && decide (bits x.2.toNat 0 5 = bits e.2.toNat 0 5)

/-- The channel with a table entry or the lend word written: kind 0 bank owners, 1 slots, 2 lend, which the configuration block may
forbid; slots and lend wait for the next wrap. -/
def writeChannel (lendOk : Bool) (c : Channel) (kind index : Nat) (data : BitVec 8) : Channel :=
  match kind with
  | 0 => { c with owners := sset 0 c.owners index (data &&& 0x3F#8) }
  | 1 => { c with nextSlots := sset 0 c.nextSlots index (data &&& 0x9F#8) }
  | _ => { c with nextLend := data.getLsbD 0 && lendOk }

/-- The entry exists. -/
def channelEntry (kind channel index : Nat) : Bool :=
  decide (channel < 192) && (decide (kind = 0 ∧ index < 16) || decide (kind = 1 ∧ index < 64) || decide (kind = 2))

/-- A bank's owner changes: refused while the partition that has the bank or the one that is to have it is enabled, whose frame pools
are fixed (R400). -/
def poolsFixed (s : State) (kind channel index : Nat) (data : BitVec 8) : Bool :=
  decide (kind = 0) && [sget 0 (s.channel channel).owners index, data].any fun b => b.getLsbD 5 && bit (s.part (bits b.toNat 0 5)).w1.toNat 63

/-- WRITE_BANK_OWNER_TABLE: a table that leaves an owner without a slot is refused (R400, R403, R404). -/
def execWriteBankOwnerTable (port kind channel index : Nat) (data : BitVec 8) (s : State) : Out :=
  command s port fun s =>
    let c := writeChannel s.pkg.lendOk (s.channel channel) kind index data
    if channelEntry kind channel index && (decide (kind = 2) || ownersServed c) && !poolsFixed s kind channel index data then done { s with channels := tput s.channels channel c } port
    else refused s port

/-! Label domains and policies (R362, R365, R366). -/

/-- SET_UP_LABEL_DOMAIN: the two key digests of a principal (R362). -/
def execSetUpLabelDomain (port dom slot ecdsa lms : Nat) (s : State) : Out :=
  command s port fun s =>
    if 256 ≤ dom ∨ 16 ≤ slot then refused s port
    else done (s.modPkg fun k =>
      { k with domains := tput k.domains dom (tput ((tfind k.domains dom).getD []) slot { ecdsa := ecdsa % 2 ^ 384, lms := lms % 2 ^ 384, bound := true }) }) port

/-- A word of a policy body. -/
def bodyWord (body : List (BitVec 32)) (i : Nat) : Nat := ((body[i]?).getD 0).toNat

/-- The policy a body states (R365). -/
def parsePolicy (body : List (BitVec 32)) : Policy :=
  let w := bodyWord body
  { dom := BitVec.ofNat 8 (w 1), label := BitVec.ofNat 16 (w 2), dests := BitVec.ofNat 16 (w 2 / 2 ^ 16), serial := w32 (w 3)
    budget := d64 (w 4 + 2 ^ 32 * w 5), expiry := d64 (w 6 + 2 ^ 32 * w 7) }

/-- A body is malformed: length, tag, reserved bits. -/
def policyMalformed (body : List (BitVec 32)) : Bool :=
  decide (body.length ≠ 32) || decide (bodyWord body 0 ≠ 0x4750) || decide (bodyWord body 1 / 2 ^ 8 ≠ 0) || (body.drop 8).any fun w => decide (w ≠ 0)

/-- The slots of a label. -/
def labelSlots (l : Label) : List Nat := (upto 16).filter fun i => l.getLsbD i

/-- Every slot of a label is bound in the domain. -/
def slotsBound (s : State) (dom : BitVec 8) (l : Label) : Bool :=
  match tfind s.pkg.domains dom.toNat with
  | none => false
  | some d => (labelSlots l).all fun i => ((tfind d i).map (·.bound)).getD false

/-- The policy installed for a domain and label. -/
def samePolicy (p q : Policy) : Bool := decide (p.dom = q.dom ∧ p.label = q.label)

/-- The status of an install: the first check that fails (R365). -/
def policyStatus (s : State) (body : List (BitVec 32)) (lengthsOk sigsOk : Bool) : BitVec 8 :=
  let p := parsePolicy body
  let old := s.pkg.policies.find? (samePolicy p)
  if policyMalformed body || !lengthsOk then 0x01
  else if (labelSlots p.label).length < 2 then 0x06
  else if !slotsBound s p.dom p.label then 0x02
  else if !sigsOk then 0x03
  else if old.any fun q => decide (p.serial.toNat ≤ q.serial.toNat) then 0x04
  else if old.isNone && decide (1024 ≤ s.pkg.policies.length) then 0x05
  else 0x00

/-- INSTALL_POLICY: it replaces the label's earlier policy (R365, R366). -/
def execInstallPolicy (port : Nat) (body : List (BitVec 32)) (lengthsOk sigsOk : Bool) (s : State) : Out :=
  command s port fun s =>
    let p := parsePolicy body
    let st := policyStatus s body lengthsOk sigsOk
    respond (if st = 0 then s.modPkg fun k => { k with policies := k.policies.filter (fun q => !samePolicy p q) ++ [p] } else s) port st 0

/-- REMOVE_POLICY: status 0x07 where none is installed (R366). -/
def execRemovePolicy (port dom : Nat) (label : BitVec 16) (s : State) : Out :=
  command s port fun s =>
    match policyOf s (BitVec.ofNat 8 dom) label with
    | none => respond s port 0x07 0
    | some p => done (s.modPkg fun k => { k with policies := k.policies.filter fun q => !samePolicy p q }) port

/-- READ_BUDGET (R366). -/
def execReadBudget (port dom : Nat) (label : BitVec 16) (s : State) : Out :=
  command s port fun s =>
    match policyOf s (BitVec.ofNat 8 dom) label with
    | none => respond s port 0x07 0
    | some p => respond s port 0x00 p.budget

/-! Pages (R353, R357, R360, R429). -/

/-- UNMAP (R360). -/
def execUnmap (port page : Nat) (s : State) : Out := command s port fun s => done (freePage s page) port

/-- The device is one that a page's partition spans: this one, or another (R399; log entry 5). -/
def partSpans (s : State) (part dev : Nat) : Bool :=
  (devOf (BitVec.ofNat 6 dev)).isNone || Config.spans (bits (s.part part).w0.toNat 48 16) dev

/-- MIGRATE: to a tier, or a device of the page's partition (R357, R358). -/
def execMigrate (port page : Nat) (tier : BitVec 2) (dev : Nat) (s : State) : Out :=
  command s port fun s =>
    let p := s.page (65536 * page)
    if !p.b ∨ 64 ≤ dev ∨ !partSpans s p.part dev then refused s port
    else match movePage s page tier.toNat (devOf (BitVec.ofNat 6 dev)) with
      | some s' => done s' port
      | none => refused s port

/-- SET_NR_NW (R353). -/
def execSetNrNw (port page : Nat) (nr nw : Bool) (s : State) : Out :=
  command s port fun s => done (s.modPage (65536 * page) fun p => { p with nr := nr, nw := nw }) port

/-- HARVEST_DIRTY_BITS: 1 to 4096 pages; the bitmap goes to the host memory behind the port (R429). -/
def execHarvestDirtyBits (port page count : Nat) (va : BitVec 64) (s : State) : Out :=
  command s port fun s =>
    if count = 0 ∨ 4096 < count then refused s port
    else
      let (s1, l) := harvest s page count
      done { s1 with hostMem := writeBytes s1.hostMem va.toNat (bitmapBytes l) } port

/-! Other commands. -/

/-- RESET_PARTITION (R427). -/
def execResetPartition (port part : Nat) (s : State) : Out :=
  command s port fun s => if bit (s.part part).w1.toNat 63 then done (resetPart s part) port else refused s port

/-- ATTEST: nonce and report go to the host memory behind the port (R455). -/
def execAttest (port va nonce : Nat) (s : State) : Out :=
  command s port fun s =>
    done { s with hostMem := writeBytes s.hostMem va (leBytes nonce 48 ++ Config.report s.fresh), fresh := s.fresh + 1 } port

/-- The rings whose events a port's mailbox can answer: the PF's, then those of the port's VFs. -/
def answerRings (port : Nat) : List Nat := 384 :: (upto 192).map (192 * port + ·)

/-- A ring by number: 0 to 383 the VFs', then the PFs'. -/
def ringAt (s : State) (r : Nat) : FaultRing := if r < 384 then (s.ctx r).ring else (tfind s.pkg.pfRings (r - 384)).getD {}

/-- Replace a ring. -/
def setRing (s : State) (r : Nat) (x : FaultRing) : State :=
  if r < 384 then s.modCtx r fun c => { c with ring := x } else s.modPkg fun k => { k with pfRings := tput k.pfRings (r - 384) x }

/-- The oldest outstanding event with a sequence number, with its ring (R448). -/
def outstanding (s : State) (port seq : Nat) : Option (Nat × FaultEvent) :=
  (answerRings port).findSome? fun r => ((ringAt s r).outstanding.find? fun e => decide (e.seq = seq)).map fun e => (r, e)

/-- What a reply does: a launch candidate, a gate's step 7, a frame awaiting its remapping (R204, R342, R425, R447). -/
def answer (s : State) (e : FaultEvent) (accept : Bool) : State :=
  if e.type = 5 then
    let s1 := s.modLaunch e.detail.toNat fun x => { x with accepted := accept }
    eventPass s1 (s1.launch e.detail.toNat).vf
  else if e.type = 6 then s.modCmd e.detail.toNat fun c => { c with accepted := some accept }
  else if e.type = 0x0A ∧ accept then s.modPage e.addr.toNat fun p => { p with goal := some (0, none) }
  else s

/-- REPLY_TO_FAULT_EVENT: status 0x01 where no such event is outstanding (R448). -/
def execReplyToFaultEvent (port seq : Nat) (accept : Bool) (s : State) : Out :=
  command s port fun s =>
    match outstanding s port seq with
    | none => respond s port 0x01 0
    | some (r, e) =>
      let x := ringAt s r
      done (answer (setRing s r { x with outstanding := x.outstanding.erase e }) e accept) port

/-- ENTER_PL4: while nothing is at work (R456, R457). -/
def execEnterPl4 (port : Nat) (s : State) : Out :=
  command s port fun s => if allIdle s then sleep (done s port) else refused s port

/-- MAILBOX_UNKNOWN_OPCODE: status 0xFF and no effect (R445). -/
def execMailboxUnknownOpcode (port : Nat) (opcode : BitVec 8) (s : State) : Out :=
  command s port fun s => if 1 ≤ opcode.toNat ∧ opcode.toNat ≤ 0x0D then s else respond s port 0xFF 0

end Sys2Proof.Machine
end

