-- ==== Sys2Proof/Machine/Dispatch.lean ====
section
/-! DEFINITION. One arm per row of spec/opcode_table.json: each calls its meaning. -/

namespace Sys2Proof.Machine

/-- The meaning of every instruction and step. -/
def exec (i : Instr) (s : State) : Host.Outcome State Fault Refusal :=
  match i with
  | .iadd x0 x1 x2 x3 => Sys2Proof.Machine.execIadd x0 x1 x2 x3 s
  | .iaddImm x0 x1 x2 x3 => Sys2Proof.Machine.execIaddImm x0 x1 x2 x3 s
  | .movi x0 x1 x2 => Sys2Proof.Machine.execMovi x0 x1 x2 s
  | .isub x0 x1 x2 x3 => Sys2Proof.Machine.execIsub x0 x1 x2 x3 s
  | .imul x0 x1 x2 x3 => Sys2Proof.Machine.execImul x0 x1 x2 x3 s
  | .imulhI32 x0 x1 x2 x3 => Sys2Proof.Machine.execImulhI32 x0 x1 x2 x3 s
  | .imulhN32 x0 x1 x2 x3 => Sys2Proof.Machine.execImulhN32 x0 x1 x2 x3 s
  | .imad x0 x1 x2 x3 => Sys2Proof.Machine.execImad x0 x1 x2 x3 s
  | .iminI32 x0 x1 x2 x3 => Sys2Proof.Machine.execIminI32 x0 x1 x2 x3 s
  | .iminN32 x0 x1 x2 x3 => Sys2Proof.Machine.execIminN32 x0 x1 x2 x3 s
  | .imaxI32 x0 x1 x2 x3 => Sys2Proof.Machine.execImaxI32 x0 x1 x2 x3 s
  | .imaxN32 x0 x1 x2 x3 => Sys2Proof.Machine.execImaxN32 x0 x1 x2 x3 s
  | .iadd64 x0 x1 x2 x3 => Sys2Proof.Machine.execIadd64 x0 x1 x2 x3 s
  | .isub64 x0 x1 x2 x3 => Sys2Proof.Machine.execIsub64 x0 x1 x2 x3 s
  | .lea x0 x1 x2 x3 x4 => Sys2Proof.Machine.execLea x0 x1 x2 x3 x4 s
  | .and32 x0 x1 x2 x3 => Sys2Proof.Machine.execAnd32 x0 x1 x2 x3 s
  | .or32 x0 x1 x2 x3 => Sys2Proof.Machine.execOr32 x0 x1 x2 x3 s
  | .xor32 x0 x1 x2 x3 => Sys2Proof.Machine.execXor32 x0 x1 x2 x3 s
  | .andn x0 x1 x2 x3 => Sys2Proof.Machine.execAndn x0 x1 x2 x3 s
  | .shl x0 x1 x2 x3 => Sys2Proof.Machine.execShl x0 x1 x2 x3 s
  | .shr x0 x1 x2 x3 => Sys2Proof.Machine.execShr x0 x1 x2 x3 s
  | .sar x0 x1 x2 x3 => Sys2Proof.Machine.execSar x0 x1 x2 x3 s
  | .shlImm x0 x1 x2 x3 => Sys2Proof.Machine.execShlImm x0 x1 x2 x3 s
  | .shrImm x0 x1 x2 x3 => Sys2Proof.Machine.execShrImm x0 x1 x2 x3 s
  | .sarImm x0 x1 x2 x3 => Sys2Proof.Machine.execSarImm x0 x1 x2 x3 s
  | .bfe x0 x1 x2 x3 => Sys2Proof.Machine.execBfe x0 x1 x2 x3 s
  | .bfi x0 x1 x2 x3 => Sys2Proof.Machine.execBfi x0 x1 x2 x3 s
  | .mov x0 x1 x2 => Sys2Proof.Machine.execMov x0 x1 x2 s
  | .iabs x0 x1 x2 => Sys2Proof.Machine.execIabs x0 x1 x2 s
  | .popc x0 x1 x2 => Sys2Proof.Machine.execPopc x0 x1 x2 s
  | .clz x0 x1 x2 => Sys2Proof.Machine.execClz x0 x1 x2 s
  | .brev x0 x1 x2 => Sys2Proof.Machine.execBrev x0 x1 x2 s
  | .mov64 x0 x1 x2 => Sys2Proof.Machine.execMov64 x0 x1 x2 s
  | .icmp x0 x1 x2 x3 x4 => Sys2Proof.Machine.execIcmp x0 x1 x2 x3 x4 s
  | .sel x0 x1 x2 x3 => Sys2Proof.Machine.execSel x0 x1 x2 x3 s
  | .fadd x0 x1 x2 x3 => Sys2Proof.Machine.execFadd x0 x1 x2 x3 s
  | .fsub x0 x1 x2 x3 => Sys2Proof.Machine.execFsub x0 x1 x2 x3 s
  | .fmul x0 x1 x2 x3 => Sys2Proof.Machine.execFmul x0 x1 x2 x3 s
  | .ffma x0 x1 x2 x3 => Sys2Proof.Machine.execFfma x0 x1 x2 x3 s
  | .ffms x0 x1 x2 x3 => Sys2Proof.Machine.execFfms x0 x1 x2 x3 s
  | .ffnma x0 x1 x2 x3 => Sys2Proof.Machine.execFfnma x0 x1 x2 x3 s
  | .fmin x0 x1 x2 x3 => Sys2Proof.Machine.execFmin x0 x1 x2 x3 s
  | .fmax x0 x1 x2 x3 => Sys2Proof.Machine.execFmax x0 x1 x2 x3 s
  | .fneg x0 x1 x2 => Sys2Proof.Machine.execFneg x0 x1 x2 s
  | .fabs x0 x1 x2 => Sys2Proof.Machine.execFabs x0 x1 x2 s
  | .fclass x0 x1 x2 => Sys2Proof.Machine.execFclass x0 x1 x2 s
  | .fcmp x0 x1 x2 x3 x4 => Sys2Proof.Machine.execFcmp x0 x1 x2 x3 x4 s
  | .hadd2F16 x0 x1 x2 x3 => Sys2Proof.Machine.execHadd2F16 x0 x1 x2 x3 s
  | .hadd2Bf16 x0 x1 x2 x3 => Sys2Proof.Machine.execHadd2Bf16 x0 x1 x2 x3 s
  | .hmul2F16 x0 x1 x2 x3 => Sys2Proof.Machine.execHmul2F16 x0 x1 x2 x3 s
  | .hmul2Bf16 x0 x1 x2 x3 => Sys2Proof.Machine.execHmul2Bf16 x0 x1 x2 x3 s
  | .hfma2F16 x0 x1 x2 x3 => Sys2Proof.Machine.execHfma2F16 x0 x1 x2 x3 s
  | .hfma2Bf16 x0 x1 x2 x3 => Sys2Proof.Machine.execHfma2Bf16 x0 x1 x2 x3 s
  | .hmin2F16 x0 x1 x2 x3 => Sys2Proof.Machine.execHmin2F16 x0 x1 x2 x3 s
  | .hmin2Bf16 x0 x1 x2 x3 => Sys2Proof.Machine.execHmin2Bf16 x0 x1 x2 x3 s
  | .hmax2F16 x0 x1 x2 x3 => Sys2Proof.Machine.execHmax2F16 x0 x1 x2 x3 s
  | .hmax2Bf16 x0 x1 x2 x3 => Sys2Proof.Machine.execHmax2Bf16 x0 x1 x2 x3 s
  | .cvtToFloat x0 x1 x2 x3 x4 => Sys2Proof.Machine.execCvtToFloat x0 x1 x2 x3 x4 s
  | .cvtToInt x0 x1 x2 x3 x4 => Sys2Proof.Machine.execCvtToInt x0 x1 x2 x3 x4 s
  | .packF16x2 x0 x1 x2 x3 => Sys2Proof.Machine.execPackF16x2 x0 x1 x2 x3 s
  | .packBf16x2 x0 x1 x2 x3 => Sys2Proof.Machine.execPackBf16x2 x0 x1 x2 x3 s
  | .packE4m3x4 x0 x1 x2 => Sys2Proof.Machine.execPackE4m3x4 x0 x1 x2 s
  | .packE5m2x4 x0 x1 x2 => Sys2Proof.Machine.execPackE5m2x4 x0 x1 x2 s
  | .packI8x4 x0 x1 x2 => Sys2Proof.Machine.execPackI8x4 x0 x1 x2 s
  | .packN8x4 x0 x1 x2 => Sys2Proof.Machine.execPackN8x4 x0 x1 x2 s
  | .packI4x8 x0 x1 x2 => Sys2Proof.Machine.execPackI4x8 x0 x1 x2 s
  | .packN4x8 x0 x1 x2 => Sys2Proof.Machine.execPackN4x8 x0 x1 x2 s
  | .unpack x0 x1 x2 x3 x4 => Sys2Proof.Machine.execUnpack x0 x1 x2 x3 x4 s
  | .rcp x0 x1 x2 => Sys2Proof.Machine.execRcp x0 x1 x2 s
  | .rsq x0 x1 x2 => Sys2Proof.Machine.execRsq x0 x1 x2 s
  | .sqrt x0 x1 x2 => Sys2Proof.Machine.execSqrt x0 x1 x2 s
  | .ex2 x0 x1 x2 => Sys2Proof.Machine.execEx2 x0 x1 x2 s
  | .lg2 x0 x1 x2 => Sys2Proof.Machine.execLg2 x0 x1 x2 s
  | .sin x0 x1 x2 => Sys2Proof.Machine.execSin x0 x1 x2 s
  | .cos x0 x1 x2 => Sys2Proof.Machine.execCos x0 x1 x2 s
  | .rng4 x0 x1 x2 x3 => Sys2Proof.Machine.execRng4 x0 x1 x2 x3 s
  | .shflRot x0 x1 x2 x3 => Sys2Proof.Machine.execShflRot x0 x1 x2 x3 s
  | .shflXor x0 x1 x2 x3 => Sys2Proof.Machine.execShflXor x0 x1 x2 x3 s
  | .shflUp x0 x1 x2 x3 => Sys2Proof.Machine.execShflUp x0 x1 x2 x3 s
  | .shflDown x0 x1 x2 x3 => Sys2Proof.Machine.execShflDown x0 x1 x2 x3 s
  | .permset x0 x1 x2 => Sys2Proof.Machine.execPermset x0 x1 x2 s
  | .perm x0 x1 x2 x3 => Sys2Proof.Machine.execPerm x0 x1 x2 x3 s
  | .red x0 x1 x2 x3 => Sys2Proof.Machine.execRed x0 x1 x2 x3 s
  | .scan x0 x1 x2 x3 x4 => Sys2Proof.Machine.execScan x0 x1 x2 x3 x4 s
  | .voteAny x0 x1 x2 => Sys2Proof.Machine.execVoteAny x0 x1 x2 s
  | .voteAll x0 x1 x2 => Sys2Proof.Machine.execVoteAll x0 x1 x2 s
  | .voteBallot x0 x1 x2 => Sys2Proof.Machine.execVoteBallot x0 x1 x2 s
  | .voteEq x0 x1 x2 => Sys2Proof.Machine.execVoteEq x0 x1 x2 s
  | .gbcast x0 x1 x2 x3 => Sys2Proof.Machine.execGbcast x0 x1 x2 x3 s
  | .xgsend x0 x1 x2 => Sys2Proof.Machine.execXgsend x0 x1 x2 s
  | .xgrecv x0 x1 x2 => Sys2Proof.Machine.execXgrecv x0 x1 x2 s
  | .ldg x0 x1 x2 x3 x4 => Sys2Proof.Machine.execLdg x0 x1 x2 x3 x4 s
  | .stg x0 x1 x2 x3 x4 => Sys2Proof.Machine.execStg x0 x1 x2 x3 x4 s
  | .ldsp x0 x1 x2 x3 x4 => Sys2Proof.Machine.execLdsp x0 x1 x2 x3 x4 s
  | .stsp x0 x1 x2 x3 x4 => Sys2Proof.Machine.execStsp x0 x1 x2 x3 x4 s
  | .pfetch x0 x1 x2 => Sys2Proof.Machine.execPfetch x0 x1 x2 s
  | .atomI32 x0 x1 x2 x3 x4 => Sys2Proof.Machine.execAtomI32 x0 x1 x2 x3 x4 s
  | .atomN32 x0 x1 x2 x3 x4 => Sys2Proof.Machine.execAtomN32 x0 x1 x2 x3 x4 s
  | .atomI64 x0 x1 x2 x3 x4 => Sys2Proof.Machine.execAtomI64 x0 x1 x2 x3 x4 s
  | .atomN64 x0 x1 x2 x3 x4 => Sys2Proof.Machine.execAtomN64 x0 x1 x2 x3 x4 s
  | .atomF32 x0 x1 x2 x3 => Sys2Proof.Machine.execAtomF32 x0 x1 x2 x3 s
  | .atomrI32 x0 x1 x2 x3 x4 => Sys2Proof.Machine.execAtomrI32 x0 x1 x2 x3 x4 s
  | .atomrN32 x0 x1 x2 x3 x4 => Sys2Proof.Machine.execAtomrN32 x0 x1 x2 x3 x4 s
  | .atomrI64 x0 x1 x2 x3 x4 => Sys2Proof.Machine.execAtomrI64 x0 x1 x2 x3 x4 s
  | .atomrN64 x0 x1 x2 x3 x4 => Sys2Proof.Machine.execAtomrN64 x0 x1 x2 x3 x4 s
  | .atomrF32 x0 x1 x2 x3 => Sys2Proof.Machine.execAtomrF32 x0 x1 x2 x3 s
  | .qput x0 x1 x2 x3 => Sys2Proof.Machine.execQput x0 x1 x2 x3 s
  | .qputRemote x0 x1 x2 x3 x4 => Sys2Proof.Machine.execQputRemote x0 x1 x2 x3 x4 s
  | .qputNb x0 x1 x2 x3 x4 x5 x6 => Sys2Proof.Machine.execQputNb x0 x1 x2 x3 x4 x5 x6 s
  | .qget x0 x1 x2 x3 => Sys2Proof.Machine.execQget x0 x1 x2 x3 s
  | .qgetNb x0 x1 x2 x3 x4 => Sys2Proof.Machine.execQgetNb x0 x1 x2 x3 x4 s
  | .qpeek x0 x1 x2 x3 => Sys2Proof.Machine.execQpeek x0 x1 x2 x3 s
  | .qpeekNb x0 x1 x2 x3 x4 => Sys2Proof.Machine.execQpeekNb x0 x1 x2 x3 x4 s
  | .fence x0 x1 => Sys2Proof.Machine.execFence x0 x1 s
  | .fenceSc x0 x1 => Sys2Proof.Machine.execFenceSc x0 x1 s
  | .wait x0 x1 x2 x3 x4 => Sys2Proof.Machine.execWait x0 x1 x2 x3 x4 s
  | .cwait x0 x1 x2 x3 => Sys2Proof.Machine.execCwait x0 x1 x2 x3 s
  | .bar x0 => Sys2Proof.Machine.execBar x0 s
  | .lbar x0 => Sys2Proof.Machine.execLbar x0 s
  | .xcpy x0 x1 x2 => Sys2Proof.Machine.execXcpy x0 x1 x2 s
  | .gang x0 x1 => Sys2Proof.Machine.execGang x0 x1 s
  | .mxfence => Sys2Proof.Machine.execMxfence s
  | .mxop x0 x1 x2 x3 => Sys2Proof.Machine.execMxop x0 x1 x2 x3 s
  | .mxprog x0 x1 => Sys2Proof.Machine.execMxprog x0 x1 s
  | .mxprogClr x0 => Sys2Proof.Machine.execMxprogClr x0 s
  | .amalloc x0 x1 x2 => Sys2Proof.Machine.execAmalloc x0 x1 x2 s
  | .amfree x0 x1 x2 => Sys2Proof.Machine.execAmfree x0 x1 x2 s
  | .amrd x0 x1 x2 => Sys2Proof.Machine.execAmrd x0 x1 x2 s
  | .amwr x0 x1 x2 => Sys2Proof.Machine.execAmwr x0 x1 x2 s
  | .amzero x0 x1 x2 => Sys2Proof.Machine.execAmzero x0 x1 x2 s
  | .tex x0 x1 x2 => Sys2Proof.Machine.execTex x0 x1 x2 s
  | .texL x0 x1 x2 => Sys2Proof.Machine.execTexL x0 x1 x2 s
  | .texB x0 x1 x2 => Sys2Proof.Machine.execTexB x0 x1 x2 s
  | .texG x0 x1 x2 => Sys2Proof.Machine.execTexG x0 x1 x2 s
  | .texGather x0 x1 x2 => Sys2Proof.Machine.execTexGather x0 x1 x2 s
  | .texqMinlod x0 x1 x2 => Sys2Proof.Machine.execTexqMinlod x0 x1 x2 s
  | .texqSize x0 x1 x2 => Sys2Proof.Machine.execTexqSize x0 x1 x2 s
  | .trace x0 x1 x2 => Sys2Proof.Machine.execTrace x0 x1 x2 s
  | .traceAppend x0 x1 x2 => Sys2Proof.Machine.execTraceAppend x0 x1 x2 s
  | .ocenter x0 x1 => Sys2Proof.Machine.execOcenter x0 x1 s
  | .ocleave x0 => Sys2Proof.Machine.execOcleave x0 s
  | .ocskip x0 => Sys2Proof.Machine.execOcskip x0 s
  | .flset x0 x1 x2 => Sys2Proof.Machine.execFlset x0 x1 x2 s
  | .flins x0 x1 x2 => Sys2Proof.Machine.execFlins x0 x1 x2 s
  | .flwalk x0 x1 x2 => Sys2Proof.Machine.execFlwalk x0 x1 x2 s
  | .pixout x0 x1 x2 => Sys2Proof.Machine.execPixout x0 x1 x2 s
  | .interp x0 x1 x2 x3 => Sys2Proof.Machine.execInterp x0 x1 x2 x3 s
  | .discard x0 => Sys2Proof.Machine.execDiscard x0 s
  | .bra x0 x1 => Sys2Proof.Machine.execBra x0 x1 s
  | .call x0 x1 => Sys2Proof.Machine.execCall x0 x1 s
  | .brx x0 x1 x2 x3 => Sys2Proof.Machine.execBrx x0 x1 x2 x3 s
  | .callx x0 x1 => Sys2Proof.Machine.execCallx x0 x1 s
  | .ret x0 => Sys2Proof.Machine.execRet x0 s
  | .exit x0 => Sys2Proof.Machine.execExit x0 s
  | .nop x0 => Sys2Proof.Machine.execNop x0 s
  | .yield x0 => Sys2Proof.Machine.execYield x0 s
  | .land x0 => Sys2Proof.Machine.execLand x0 s
  | .period x0 x1 x2 => Sys2Proof.Machine.execPeriod x0 x1 x2 s
  | .trap x0 x1 => Sys2Proof.Machine.execTrap x0 x1 s
  | .tret => Sys2Proof.Machine.execTret s
  | .bkpt x0 => Sys2Proof.Machine.execBkpt x0 s
  | .ctxyield => Sys2Proof.Machine.execCtxyield s
  | .srd x0 x1 x2 => Sys2Proof.Machine.execSrd x0 x1 x2 s
  | .swr x0 x1 x2 => Sys2Proof.Machine.execSwr x0 x1 x2 s
  | .dtime x0 x1 x2 => Sys2Proof.Machine.execDtime x0 x1 x2 s
  | .lblr x0 x1 x2 => Sys2Proof.Machine.execLblr x0 x1 x2 s
  | .lblraise x0 x1 x2 => Sys2Proof.Machine.execLblraise x0 x1 x2 s
  | .gate x0 x1 x2 => Sys2Proof.Machine.execGate x0 x1 x2 s
  | .advImm x0 => Sys2Proof.Machine.execAdvImm x0 s
  | .advRound x0 x1 x2 => Sys2Proof.Machine.execAdvRound x0 x1 x2 s
  | .advMemhint x0 x1 => Sys2Proof.Machine.execAdvMemhint x0 x1 s
  | .advXopnd x0 => Sys2Proof.Machine.execAdvXopnd x0 s
  | .advSched x0 x1 => Sys2Proof.Machine.execAdvSched x0 x1 s
  | .bundlePick x0 x1 => Sys2Proof.Machine.execBundlePick x0 x1 s
  | .parkedGroupExecute x0 x1 => Sys2Proof.Machine.execParkedGroupExecute x0 x1 s
  | .threadReady x0 => Sys2Proof.Machine.execThreadReady x0 s
  | .loadValueArrival x0 => Sys2Proof.Machine.execLoadValueArrival x0 s
  | .specialFunctionResult x0 => Sys2Proof.Machine.execSpecialFunctionResult x0 s
  | .homeFetch x0 => Sys2Proof.Machine.execHomeFetch x0 s
  | .homeWrite x0 => Sys2Proof.Machine.execHomeWrite x0 s
  | .writeCompletionReturn x0 => Sys2Proof.Machine.execWriteCompletionReturn x0 s
  | .heldReleaseStoreSend x0 => Sys2Proof.Machine.execHeldReleaseStoreSend x0 s
  | .pinForcedRelease x0 x1 => Sys2Proof.Machine.execPinForcedRelease x0 x1 s
  | .refusedAccessRetry x0 => Sys2Proof.Machine.execRefusedAccessRetry x0 s
  | .atomicEngineService x0 x1 => Sys2Proof.Machine.execAtomicEngineService x0 x1 s
  | .deferredRefusal x0 => Sys2Proof.Machine.execDeferredRefusal x0 s
  | .waitSatisfied x0 => Sys2Proof.Machine.execWaitSatisfied x0 s
  | .fenceCompletion x0 => Sys2Proof.Machine.execFenceCompletion x0 s
  | .cwaitSatisfied x0 => Sys2Proof.Machine.execCwaitSatisfied x0 s
  | .dtimeWaitEnd x0 => Sys2Proof.Machine.execDtimeWaitEnd x0 s
  | .barrierCompletion x0 x1 => Sys2Proof.Machine.execBarrierCompletion x0 x1 s
  | .levelBarrierCompletion x0 x1 x2 => Sys2Proof.Machine.execLevelBarrierCompletion x0 x1 x2 s
  | .xgsendSlotFill x0 x1 => Sys2Proof.Machine.execXgsendSlotFill x0 x1 s
  | .xgrecvDelivery x0 x1 => Sys2Proof.Machine.execXgrecvDelivery x0 x1 s
  | .ringPutSlotHandout x0 x1 => Sys2Proof.Machine.execRingPutSlotHandout x0 x1 s
  | .ringClaimService x0 x1 => Sys2Proof.Machine.execRingClaimService x0 x1 s
  | .qpeekClaimService x0 x1 => Sys2Proof.Machine.execQpeekClaimService x0 x1 s
  | .remotePutArrival x0 => Sys2Proof.Machine.execRemotePutArrival x0 s
  | .creditReportArrival x0 => Sys2Proof.Machine.execCreditReportArrival x0 s
  | .notifyWordWrite x0 x1 => Sys2Proof.Machine.execNotifyWordWrite x0 x1 s
  | .copyStatusWrite x0 x1 => Sys2Proof.Machine.execCopyStatusWrite x0 x1 s
  | .copyCommandStart x0 => Sys2Proof.Machine.execCopyCommandStart x0 s
  | .copyUnitWrite x0 => Sys2Proof.Machine.execCopyUnitWrite x0 s
  | .copyCompletion x0 => Sys2Proof.Machine.execCopyCompletion x0 s
  | .gateDecision x0 => Sys2Proof.Machine.execGateDecision x0 s
  | .mxopHostStart x0 x1 => Sys2Proof.Machine.execMxopHostStart x0 x1 s
  | .mxopPromotion x0 x1 => Sys2Proof.Machine.execMxopPromotion x0 x1 s
  | .amBankRelease x0 x1 => Sys2Proof.Machine.execAmBankRelease x0 x1 s
  | .listInsertStep x0 => Sys2Proof.Machine.execListInsertStep x0 s
  | .ocenterEntry x0 => Sys2Proof.Machine.execOcenterEntry x0 s
  | .doorbellWrite x0 x1 => Sys2Proof.Machine.execDoorbellWrite x0 x1 s
  | .queuePoll x0 x1 => Sys2Proof.Machine.execQueuePoll x0 x1 s
  | .queueDescriptorWrite x0 x1 x2 x3 => Sys2Proof.Machine.execQueueDescriptorWrite x0 x1 x2 x3 s
  | .eventSetWrite x0 x1 x2 => Sys2Proof.Machine.execEventSetWrite x0 x1 x2 s
  | .eventClearWrite x0 x1 x2 => Sys2Proof.Machine.execEventClearWrite x0 x1 x2 s
  | .workgroupPlacement x0 x1 x2 => Sys2Proof.Machine.execWorkgroupPlacement x0 x1 x2 s
  | .placementReservation x0 => Sys2Proof.Machine.execPlacementReservation x0 s
  | .workgroupEnd x0 => Sys2Proof.Machine.execWorkgroupEnd x0 s
  | .causeSummaryWrite x0 x1 => Sys2Proof.Machine.execCauseSummaryWrite x0 x1 s
  | .rasterBin x0 => Sys2Proof.Machine.execRasterBin x0 s
  | .fragmentLaunch x0 x1 x2 => Sys2Proof.Machine.execFragmentLaunch x0 x1 x2 s
  | .fragmentOutput x0 x1 => Sys2Proof.Machine.execFragmentOutput x0 x1 s
  | .resolveLaunch x0 x1 x2 => Sys2Proof.Machine.execResolveLaunch x0 x1 x2 s
  | .tileStore x0 x1 => Sys2Proof.Machine.execTileStore x0 x1 s
  | .sliceEnd x0 => Sys2Proof.Machine.execSliceEnd x0 s
  | .preemptWrite x0 x1 => Sys2Proof.Machine.execPreemptWrite x0 x1 s
  | .coopPreemptTrap x0 => Sys2Proof.Machine.execCoopPreemptTrap x0 s
  | .preemptBudgetExpiry x0 => Sys2Proof.Machine.execPreemptBudgetExpiry x0 s
  | .reducedSave x0 => Sys2Proof.Machine.execReducedSave x0 s
  | .contextRestore x0 => Sys2Proof.Machine.execContextRestore x0 s
  | .preemptWatchdog x0 => Sys2Proof.Machine.execPreemptWatchdog x0 s
  | .slotPositionService x0 => Sys2Proof.Machine.execSlotPositionService x0 s
  | .checkpointCommit x0 => Sys2Proof.Machine.execCheckpointCommit x0 s
  | .rollback x0 => Sys2Proof.Machine.execRollback x0 s
  | .pairCompare x0 => Sys2Proof.Machine.execPairCompare x0 s
  | .pairIntervalLimit x0 => Sys2Proof.Machine.execPairIntervalLimit x0 s
  | .partitionReset x0 => Sys2Proof.Machine.execPartitionReset x0 s
  | .migrationHalving x0 => Sys2Proof.Machine.execMigrationHalving x0 s
  | .migrationControlWrite x0 x1 => Sys2Proof.Machine.execMigrationControlWrite x0 x1 s
  | .pageMigration x0 => Sys2Proof.Machine.execPageMigration x0 s
  | .pageFree x0 => Sys2Proof.Machine.execPageFree x0 s
  | .scrubFrame x0 => Sys2Proof.Machine.execScrubFrame x0 s
  | .bar2Read x0 x1 x2 => Sys2Proof.Machine.execBar2Read x0 x1 x2 s
  | .bar2Write x0 x1 x2 x3 => Sys2Proof.Machine.execBar2Write x0 x1 x2 x3 s
  | .counterBlockWrite x0 x1 => Sys2Proof.Machine.execCounterBlockWrite x0 x1 s
  | .pfCounterWrite x0 => Sys2Proof.Machine.execPfCounterWrite x0 s
  | .registerWrite x0 x1 x2 => Sys2Proof.Machine.execRegisterWrite x0 x1 x2 s
  | .writePartitionRecord x0 x1 x2 x3 => Sys2Proof.Machine.execWritePartitionRecord x0 x1 x2 x3 s
  | .bindVf x0 x1 x2 => Sys2Proof.Machine.execBindVf x0 x1 x2 s
  | .writeBankOwnerTable x0 x1 x2 x3 x4 => Sys2Proof.Machine.execWriteBankOwnerTable x0 x1 x2 x3 x4 s
  | .setUpLabelDomain x0 x1 x2 x3 x4 => Sys2Proof.Machine.execSetUpLabelDomain x0 x1 x2 x3 x4 s
  | .installPolicy x0 x1 x2 x3 => Sys2Proof.Machine.execInstallPolicy x0 x1 x2 x3 s
  | .removePolicy x0 x1 x2 => Sys2Proof.Machine.execRemovePolicy x0 x1 x2 s
  | .readBudget x0 x1 x2 => Sys2Proof.Machine.execReadBudget x0 x1 x2 s
  | .unmap x0 x1 => Sys2Proof.Machine.execUnmap x0 x1 s
  | .migrate x0 x1 x2 x3 => Sys2Proof.Machine.execMigrate x0 x1 x2 x3 s
  | .setNrNw x0 x1 x2 x3 => Sys2Proof.Machine.execSetNrNw x0 x1 x2 x3 s
  | .harvestDirtyBits x0 x1 x2 x3 => Sys2Proof.Machine.execHarvestDirtyBits x0 x1 x2 x3 s
  | .resetPartition x0 x1 => Sys2Proof.Machine.execResetPartition x0 x1 s
  | .attest x0 x1 x2 => Sys2Proof.Machine.execAttest x0 x1 x2 s
  | .replyToFaultEvent x0 x1 x2 => Sys2Proof.Machine.execReplyToFaultEvent x0 x1 x2 s
  | .enterPl4 x0 => Sys2Proof.Machine.execEnterPl4 x0 s
  | .mailboxUnknownOpcode x0 x1 => Sys2Proof.Machine.execMailboxUnknownOpcode x0 x1 s
  | .flitArrival x0 x1 x2 x3 x4 x5 => Sys2Proof.Machine.execFlitArrival x0 x1 x2 x3 x4 x5 s
  | .portTrainDown x0 => Sys2Proof.Machine.execPortTrainDown x0 s
  | .powerOnBoot x0 x1 x2 x3 => Sys2Proof.Machine.execPowerOnBoot x0 x1 x2 x3 s
  | .idlePowerEntry x0 => Sys2Proof.Machine.execIdlePowerEntry x0 s
  | .powerStateExit x0 => Sys2Proof.Machine.execPowerStateExit x0 s
  | .pcieWake x0 => Sys2Proof.Machine.execPcieWake x0 s
  | .powerWindow x0 => Sys2Proof.Machine.execPowerWindow x0 s
  | .junctionTemperature x0 => Sys2Proof.Machine.execJunctionTemperature x0 s
  | .illegalEncoding x0 => Sys2Proof.Machine.execIllegalEncoding x0 s
  | .faultEventRingRoom x0 => Sys2Proof.Machine.execFaultEventRingRoom x0 s
  | .linkRetrain x0 => Sys2Proof.Machine.execLinkRetrain x0 s

end Sys2Proof.Machine
end

