-- ==== Sys2Proof/Machine/Policy.lean ====
section
/-! DEFINITION. What happens next when the agenda names nothing: a default order of the steps that the state allows (log entry 2).
The spec leaves their order open; the agenda can name any. -/

namespace Sys2Proof.Machine

/-- The steps an access may take. -/
def accSteps (s : State) (id : Nat) (a : Access) : List Instr :=
  match a.stage with
  | .held => [.heldReleaseStoreSend id]
  | .issued => [.homeFetch id, .homeWrite id, .specialFunctionResult id, .listInsertStep id] ++
      match a.engine with
      | some e => [.atomicEngineService e id]
      | none => []
  | .retry => if a.sentAt < s.now.toNat then [.refusedAccessRetry id] else []
  | .refused _ => [.deferredRefusal id]
  | .returned => [.loadValueArrival id, .writeCompletionReturn id, .specialFunctionResult id]
  | .retained => []

/-- The steps a thread may take. -/
def thrSteps (t : Nat) (x : Thread) : List Instr :=
  if x.picker = .held then [.coopPreemptTrap t, .waitSatisfied t, .cwaitSatisfied t, .dtimeWaitEnd t, .ocenterEntry t, .threadReady t]
  else if x.picker = .exited then [] else [.coopPreemptTrap t]

/-- The steps a workgroup may take. -/
def wgSteps (w : Nat) (g : Workgroup) : List Instr :=
  if g.ended then []
  else [.rollback w, .pairCompare w, .pairIntervalLimit w, .checkpointCommit w] ++
    (g.mem.bars.map fun e => Instr.barrierCompletion w e.1) ++
    (g.mem.slots.map fun e => [Instr.xgsendSlotFill w e.1, .xgrecvDelivery w e.1]).flatten ++
    (g.mem.rings.map fun e => [Instr.ringPutSlotHandout w e.1, .ringClaimService w e.1, .qpeekClaimService w e.1]).flatten ++ [.workgroupEnd w]

/-- The CUs with placed workgroups. -/
def busyCus (s : State) : List Nat := sortNat (dedup ((s.wgs.filter fun e => !e.2.ended).map (·.2.cid)))

/-- The steps a CU may take. -/
def cuSteps (s : State) (c : Nat) : List Instr :=
  [.bundlePick c 0, .bundlePick c 1, .bundlePick c 2, .bundlePick c 3, .copyCommandStart c] ++
  ((s.cu c).banks.map fun e => Instr.amBankRelease c e.1) ++ ((s.cu c).pins.map fun p => Instr.pinForcedRelease (32 + c) p.line) ++
  [.preemptBudgetExpiry c]

/-- The tiles of a draw's pass, with their CUs. -/
def tilesOf (s : State) (l : Nat) : List (Nat × Nat) :=
  match passOf s l with
  | some x => x.2.tiles.map fun e => (e.1, e.2.cid)
  | none => []

/-- The steps a launch may take. -/
def launchSteps (s : State) (l : Nat) (la : Launch) : List Instr :=
  if la.phase ≠ .admitted then []
  else
    let tiles := tilesOf s l
    [.rasterBin l] ++ ((if placing s l then (choosePlaces s l).toList else []).map fun x => Instr.workgroupPlacement l x.1 x.2) ++ [.placementReservation l] ++
    ((((wgsOfLaunch s l).filter fun w => (s.wg w).ended).take 1).map Instr.workgroupEnd) ++
    ((upto (la.nlev + 1)).map fun k => (dedup ((s.wgs.filter fun e => decide (e.2.launch = l)).map fun e => instanceOf s k e.1 e.2)).map fun i =>
      Instr.levelBarrierCompletion l k i).flatten ++
    (tiles.map fun t => [Instr.fragmentLaunch l t.1 16, .resolveLaunch l t.1 t.2, .tileStore l t.1]).flatten ++
    ((s.frags.filter fun e => decide (e.2.launch = l)).map fun e => Instr.fragmentOutput l e.1)

/-- The steps of the table that the device may take in a state. -/
def deviceSteps (s : State) : List Instr :=
  (s.accs.map fun e => accSteps s e.1 e.2).flatten ++ (s.msgs.map fun e => [Instr.remotePutArrival e.1, .creditReportArrival e.1]).flatten ++
  (s.pipes.map fun e => Instr.fenceCompletion e.1) ++ (s.threads.map fun e => thrSteps e.1 e.2).flatten ++
  (s.mxops.map fun e => (upto e.2.hosts.length).map (fun h => Instr.mxopHostStart e.1 h) ++ ((upto e.2.hosts.length).zip e.2.hosts).map fun h => .mxopPromotion e.1 (h.1, unreadUnit e.2 h.1 h.2)).flatten ++
  (s.cmds.map fun e => [Instr.gateDecision e.1, .copyUnitWrite (e.1, e.2.next), .copyCompletion e.1]).flatten ++
  (s.wgs.map fun e => wgSteps e.1 e.2).flatten ++ ((busyCus s).map (cuSteps s)).flatten ++
  (s.launches.map fun e => launchSteps s e.1 e.2).flatten ++
  (s.ctxs.map fun e => [Instr.preemptWatchdog e.1, .sliceEnd e.1]).flatten ++
  (s.ctxs.map fun e => (e.2.queues.filter fun q => queueOn q.2).map fun q => Instr.queuePoll e.1 q.1).flatten ++
  (s.parts.map fun e => [Instr.contextRestore e.1, .migrationHalving e.1]).flatten ++
  ((s.pages.filter fun e => e.2.goal.isSome).map fun e => Instr.pageMigration e.1) ++
  ((s.pages.filter fun e => e.2.free).map fun e => Instr.pageFree e.1) ++ (s.pkg.scrubs.map fun x => Instr.scrubFrame (devNum x.dev))

/-- A step with no word can be taken and changes the state. -/
def changes (s : State) (e : Instr) : Bool :=
  !frozen s e && match exec e s with
    | .next s' => decide (s' ≠ s)
    | _ => false

/-- The first pipe, from the one whose turn it is, whose bundle can issue. -/
def nextPipe (s : State) : Option Nat :=
  let l := (s.pipes.filter fun e => !e.2.stalled && e.2.fence.isNone).map (·.1)
  match l.find? fun p => decide (s.turn ≤ p) with
  | some p => some p
  | none => l.head?

/-- What happens next with nothing on the agenda: a word, a step of the device, else time. -/
def policy (s : State) : Act :=
  match nextPipe s with
  | some p => .issue p
  | none => match (deviceSteps s).find? (changes s) with
    | some e => .event e
    | none => .tick 1

end Sys2Proof.Machine
end

