-- ==== Sys2Proof/Machine/Acts.lean ====
section
/-! DEFINITION. One act: time, the issue of a word, a step of the table, an upset (log entry 2). -/

namespace Sys2Proof.Machine

/-- What happens next: what the agenda names, else what the policy says. -/
def nextAct (s : State) : Act := match s.agenda with
  | a :: _ => a
  | [] => policy s

/-- The VF whose range registers translate a bundle's fetches. -/
def bundleVf (s : State) (b : Bundle) : Nat := s.vfOf (wgOf (b.tids.headD 0))

/-- The context of a bundle is saved or not resident. -/
def bundleFrozen (s : State) (b : Bundle) : Bool := b.tids.any fun t => frozenWg s (wgOf t)

/-- What a pipe's fetch of its word answers. -/
inductive Fetched where
  | trap (cause : Nat)
  | wait (s : State)
  | word (s : State) (w : Word)

/-- The word a line holds at an address. -/
def LineView.word (v : LineView) (ia : Nat) : Word := BitVec.ofNat 32 (leNat ((v.bytes.drop (ia % 64)).take 4))

/-- A pipe fetches its word as a relaxed load of its CU, under a lease: from a pin or a copy, else from the line's home; a fetch that
the memory side refuses reads 0 and leaves its record (R32, R150, R156, R158; log entry 6). -/
def fetchFor (s : State) (p : Nat) (b : Bundle) : Fetched :=
  let vf := bundleVf s b
  match rangeOf s vf b.pc with
  | none => .trap 3
  | some (_, r) =>
    if !permX r then .trap 4
    else
      let lch := (s.wg (wgOf (b.tids.headD 0))).launch
      let ia := iaOf r b.pc
      match cachedLine s (p / 4) lch (s.ctx vf).dom (spaceOf r) r ia with
      | some v => .word s (v.word ia)
      | none => match fetchLine s (.bundle p b.pc) vf (s.ctx vf).dom (p / 4) lch (spaceOf r) r ia 0 false with
        | .wait s' => .wait (stallPipe s' p)
        | .refused c => .word (b.tids.foldl (fun s t => fillDeferred s t { cause := c, pc := b.pc, ea := b.pc }) s) 0
        | .ok s' v => .word s' (v.word ia)

/-- A pipe issues the word at its bundle's PC (R30, R33, R150, R267, R268). -/
def issuePipe (s : State) (p : Nat) : Out :=
  match tfind s.pipes p with
  | none => .next s
  | some b =>
    if bundleFrozen s b then .next s
    else match fetchFor s p b with
      | .trap c => .next (takeTrap s b.tids (faultReq b c b.tids))
      | .wait s' => .next s'
      | .word s' w =>
        match decode w with
        | .ok i => exec i { s' with turn := p }
        | .error _ => Sys2Proof.Machine.execIllegalEncoding w { s' with turn := p }

/-- Bundles held at issue try again after something else has happened. -/
def unstall (s : State) : State := { s with pipes := tmap s.pipes fun _ b => { b with stalled := false } }

/-- A step of the table that has no word. -/
def isStep (e : Instr) : Bool := !(shape e).word

/-- An enabled partition that is at work is idle from now on at the earliest (R456). -/
def noteBusy (s : State) : State :=
  { s with parts := tmap s.parts fun k p => if bit p.w1.toNat 63 && !partIdle s k then { p with idleSince := s.now } else p }

/-- Time passes. -/
def timeStep (s : State) (n : Nat) : State := unstall (noteBusy (passTime (noteWaits s) n))

/-! Upsets (R252, R280, R412, R415, R424). -/

/-- A failure that nature causes: never a marker (R413), and a tag only where its sector is encrypted (R424). -/
def natural (s : State) (ia : Nat) (g : Grain) : Bool :=
  match g with
  | .good | .marker => false
  | .correctable | .uncorrectable => true
  | .badTag => (s.page ia).enc

/-- A slice drops a lease entry and keeps its end as its bound (R280). -/
def dropLease (c : Core) (line : Nat) : Core :=
  match tfind c.leases line with
  | none => c
  | some e => { c with leases := tdel c.leases line, retired := if c.retired < e.le then e.le else c.retired }

/-- Change one entry of a list. -/
def modAt {α : Type} (l : List α) (i : Nat) (f : α → α) : List α := ((upto l.length).zip l).map fun e => if e.1 = i then f e.2 else e.2

/-- Change the sums of a pass that a host has not drained yet (R236, R238). -/
def upsetPass (s : State) (op host pass : Nat) (f : MxPass → MxPass) : State :=
  s.modOp op (setHost host fun h => { h with full := h.full.map fun b => { b with passes := modAt b.passes pass f } })

/-- What an upset does to the state. -/
def applyUpset (s : State) (u : Upset) : State :=
  match u with
  | .grain k g => if natural s (8 * k) g && decide (g ≠ .badTag) then { s with grains := sset .good s.grains k g } else s
  | .sector k g => if natural s (64 * k) g then { s with sectors := sset .good s.sectors k g } else s
  | .spad w k => s.modMem w fun m => { m with bad := sset false m.bad k true }
  | .reg t f => if f < 116 then s.modThr t fun x => { x with bad := sset false x.bad f true } else s
  | .pred t p => if 0 < p ∧ p < 8 then s.modThr t fun x => { x with bad := sset false x.bad (200 + p) true } else s
  | .gReg g k => s.modGrp g fun x => { x with bad := sset false x.bad k true }
  | .cReg g k => s.modGrp g fun x => { x with bad := sset false x.bad (100 + k) true }
  | .corrected vf => countCorr s vf
  | .mismatch => { s with mismatch := true }
  | .copyEngine id => match tfind s.cmds id with
    | some c => if c.gate then s else countPipe (s.modCmd id (setStatus 8)) (s.vfOf c.wg)
    | none => s
  | .link k => if k = 1 ∨ k = 4 ∨ k = 5 then countPf s k else s
  | .mxCell o h p i j n r => upsetPass s o h p fun x => { x with cells := modAt x.cells i fun l => modAt l j fun _ => { n := n.toNat, res := r.toNat } }
  | .mxEdge o h p col i n r =>
    let e := fun (x : MxEdge) => { x with sum := n.toNat, res := r.toNat }
    upsetPass s o h p fun x => if col then { x with cols := modAt x.cols i e } else { x with rows := modAt x.rows i e }
  | .mxPromotion o h => s.modOp o (setHost h fun x => { x with staged := x.staged.map fun y => { y with residue := true } })
  | .am c k => s.modCu c fun u => { u with amBad := sset false u.amBad k true }
  | .dropLease c l => s.modCore c fun x => dropLease x l
  | .dropL1 c l => s.modCu c fun u => { u with l1 := tdel u.l1 l }
  | .dropL2 c l => s.modCore c fun x => { x with l2 := tdel x.l2 l }

/-- A step with no word, unless its context is saved or not resident. -/
def eventStep (s : State) (e : Instr) : Out := if isStep e && !frozen s e then exec e (unstall s) else .next s

/-- One act. -/
def actStep (s : State) (a : Act) : Out :=
  match a with
  | .tick n => .next (timeStep s n)
  | .issue p => issuePipe s p
  | .event e => eventStep s e
  | .upset u => .next (applyUpset s u)

/-- The power-on boot step (R453). -/
def isBoot (a : Act) : Bool :=
  match a with
  | .event (.powerOnBoot _ _ _ _) => true
  | _ => false

end Sys2Proof.Machine
end

