-- ==== Sys2Proof/Machine/Load.lean ====
section
/-! DEFINITION. How a word comes to run first: a one-thread workgroup of a launch of VF 0, in place on the pipe whose turn it is, stands
at that word (log entry 13). Used by `State.withFetchWord` only. -/

namespace Sys2Proof.Machine

/-- The VA, and IA, of the placed word; a PERIOD stands before it (R25). -/
def loadPc : Nat := 0x10004

/-- The partition of a placed word: every core, one device, IAs 0 to 2^32 - 1. -/
def loadPart : Partition :=
  { w0 := 0x00000000FFFFFFFF#64, w1 := 0x8000000000000000#64, routes := true, keys := true, windows := [(0, 0xFFFFFFFF)] }

/-- Ranges at the same IAs (R350): the 64 KiB unit of the placed code is readable and executable, the rest of VAs 0 to 2^32 - 1 readable
and writable. -/
def loadRanges : Table (List DWord) :=
  [(0, [0, 0, 0, 0xE000000000000000#64]), (1, [0x10000, 0x10000, 0x10000, 0xD000000000000000#64]),
   (2, [0x20000, 0x00000000FFFF0000#64, 0x20000, 0xE000000000000000#64])]

/-- The role kind's number that a word needs (R37, R254). -/
def roleNumber (w : Word) : Nat :=
  match decode w with
  | .ok i => match (shape i).role with
    | some .matrix => 1
    | some .copy => 2
    | _ => 0
  | .error _ => 0

/-- The word stands in a fragment kernel only (R226). -/
def needsFrag (w : Word) : Bool :=
  match decode w with
  | .ok i => (shape i).frag
  | .error _ => false

/-- The header of the placed kernel: 15 stage rings and a copy ring, 16 barriers, 16 KiB of scratchpad, one group. -/
def loadHeader (w : Word) : Header :=
  { rings := 16, barriers := 16, spad := 4, roles := [{ entry := d64 loadPc, threads := 64, retdepth := 16, oregs := 16, vregs := 96, kind := roleNumber w }]
    descs := (upto 15).map (fun i => ({ base := 64 * i } : RingDesc)) ++ [{ copy := true, n := 4, base := 0x1000 }] }

/-- The launch of the placed kernel: four levels, each co-resident. -/
def loadLaunch (w : Word) (id : Nat) : Launch :=
  { nlev := 3, levels := List.replicate 4 { cores := true }, header := loadHeader w, phase := .admitted, total := 1, next := 1
    pass := if needsFrag w then some id else none, binned := true }

/-- The pass of a placed fragment word: one pixel. -/
def loadPass (id : Nat) : Pass :=
  { vf := 0, queue := 0, record := List.replicate 256 0, width := 1, height := 1, samples := 1, tileMode := false, perSample := false
    lists := false, draws := [id] }

/-- The fragment of a placed fragment word. -/
def loadFrag (id tid : Nat) : Frag :=
  { launch := id, tile := 0, x := 0, y := 0, sample := 0, seq := 0, cov := 1, front := true, px := 0x3F000000#32, py := 0x3F000000#32, depth := 0
    tid := some tid }

/-- What stands after the word: a word that takes the adverb, where it is one, then a PERIOD (R22, R25). -/
def loadNext (w : Word) : List Word :=
  let period := (encode (.period 116 116 116)).getD 0
  let follow := match decode w with
    | .ok (.advRound _ _ _) => [(encode (.fadd 0 0 0 0)).getD 0]
    | .ok (.advMemhint _ _) => [(encode (.ldg 0 0 0 2 0)).getD 0]
    | .ok (.advXopnd _) => [(encode (.ffma 0 0 0 0)).getD 0]
    | .ok (.advImm _) | .ok (.advSched _ _) => [(encode (.movi 0 0 0)).getD 0]
    | _ => []
  follow ++ [period]

/-- Words as bytes at an address. -/
def putWords (m : Table Byte) (a : Nat) (ws : List Word) : Table Byte := writeBytes m a ((ws.map bytesOfWord).flatten)

/-- The line of code bytes that a CU's next fetch from an address finds, leased to its L1; a pin of its own holds the same bytes (R32,
R158). -/
def leaseCode (s : State) (cid : Nat) (sp : Space) (ia : Nat) (bs : List Byte) : State :=
  let line := lineOf sp ia
  let hold := fun (s : State) (h : Nat) => setPins s h ((pinsOf s h).map fun p => if p.line = line then { p with bytes := bs } else p)
  ((ownHolders cid).foldl hold s).modCu cid fun u => { u with l1 := tput u.l1 line { bytes := bs, label := 0, leaseEnd := s.now + 1000 } }

/-- The machine with a word placed to run next, as a workgroup of one live thread. -/
def loadWord (s : State) (w : Word) : State :=
  let id := s.fresh
  let cid := s.turn / 4
  let s1 :=
    { s with
      mem := putWords s.mem (loadPc - 4) ([(encode (.period 116 116 116)).getD 0, w] ++ loadNext w)
      parts := tput s.parts 0 loadPart
      ctxs := tput s.ctxs 0 { (s.ctx 0) with binding := 0x8000000000000000#64, resident := true, ranges := loadRanges }
      launches := tput s.launches id (loadLaunch w id)
      passes := if needsFrag w then tput s.passes id (loadPass id) else s.passes
      fresh := id + 1 }
  let s2 := startWg s1 { launch := id, cid := cid } (loadHeader w) 0 fun _ _ => [0]
  let tid := (id + 1) * 1024
  let s3 := if needsFrag w then { s2 with frags := tput s2.frags id (loadFrag id tid), threads := tmod s2.threads tid fun x => { x with frag := some id } } else s2
  let s4 := leaseCode s3 cid .mem loadPc (readBytes s3.mem (loadPc / 64 * 64) 64)
  { s4 with
    threads := tmod s3.threads tid fun x => { x with picker := .running, sentences := 1 }
    pipes := tput s3.pipes s3.turn { tids := [tid], pc := d64 loadPc } }

/-- A word stored at the pc of a bundle, and in the line its CU fetches from. -/
def placeAt (s : State) (p : Nat) (b : Bundle) (r : List DWord) (w : Word) : State :=
  let sp := spaceOf r
  let ia := iaOf r b.pc
  let line := writeBytes (writeBytes [] 0 (codeBytes s (bundleVf s b) (p / 4) sp (ia / 64 * 64) 64)) (ia % 64) (bytesOfWord w)
  leaseCode (s.setStore sp (putWords (s.store sp) ia [w])) (p / 4) sp ia (readBytes line 0 64)

/-- The bundle can fetch the word it stands at, from its CU's copy. -/
def fetchRange (s : State) (b : Bundle) : Option (List DWord) :=
  if b.tids.isEmpty || bundleFrozen s b || (s.launchOf (wgOf (b.tids.headD 0))).replay then none
  else ((rangeOf s (bundleVf s b) b.pc).map (·.2)).filter permX

/-- The machine with a word stored where its next issue fetches: at the pc of the bundle whose turn it is, where there is one that can be
fetched, else placed. -/
def fetchPlaced (s : State) (w : Word) : State :=
  let s1 := match tfind s.pipes s.turn with
    | none => loadWord s w
    | some b => match fetchRange s b with
      | some r => placeAt s s.turn b r w
      | none => loadWord { s with pipes := tdel s.pipes s.turn } w
  { s1 with agenda := .issue s1.turn :: s1.agenda, pkg := { s1.pkg with booted := true } }

end Sys2Proof.Machine
end

