-- ==== Sys2Proof/Machine/Step.lean ====
section
/-! DEFINITION. One step of the machine: what happens next is named by the agenda, else by the policy. -/

namespace Sys2Proof.Machine

/-- One step of the machine. A device held in reset takes nothing but a power-on (R2, R453). -/
def step (s : State) : Host.Outcome State Fault Refusal :=
  if s.pkg.booted || isBoot (nextAct s) then actStep { s with agenda := s.agenda.tail } (nextAct s)
  else .fault .heldInReset

/-- The state with an instruction placed so that the next step runs it (log entry 13). -/
def State.withFetchWord (s : State) (_nbits w : Nat) : State := fetchPlaced s (BitVec.ofNat 32 w)

end Sys2Proof.Machine
end

