-- ==== Sys2Proof/Safety.lean ====
section
/-! DEFINITION. The words in which claims about the machine are stated: the word a bundle is at, when a word passes every check
that all words share, what running it changes and what it leaves, and the invariants. -/

namespace Sys2Proof.Machine

/-! The word a bundle is at. -/

/-- The bundle on the pipe whose turn it is. -/
def State.bundle (s : State) : Bundle := (tfind s.pipes s.turn).getD {}

/-- An instruction as the word at that bundle. -/
def wordAt (i : Instr) (s : State) : Wx := mkWx s i s.turn s.bundle

/-- The threads in which the word takes effect: the guard-true ones (R14), or all for SEL (R16). -/
def lanes (i : Instr) (s : State) : List Nat := (wordAt i s).act s

/-- The groups of the bundle. -/
def State.gids (s : State) : List Nat := groupsOf s.bundle.tids

/-- A thread and its group are there. -/
def placed (s : State) (t : Nat) : Bool := (tfind s.threads t).isSome && (tfind s.groups (gidOf t)).isSome

/-- A workgroup rolls back (R419), commits (R418), or has used up the budget of a pre-emption (R406). -/
def heldBack (s : State) (g : Nat) : Bool := (s.wg g).retry || flushing s g || budgetOver s g

/-- The bundle can take the word, and the word passes every check that all words share: it is legal, allotted, declared, in its
place and role (R26, R30); a whole-group word is reached by the whole group, with no clause held (R113, R270); no register of it
awaits a result (R47); no temporary of it is stale (R45), no guard poisoned (R72), no group register written by part of a group
(R50); nothing has failed (R412, R415), nothing ends an interval (R416). -/
def clear (i : Instr) (s : State) : Bool :=
  match tfind s.pipes s.turn with
  | none => false
  | some b =>
    let w := mkWx s i s.turn b
    b.fence.isNone && !b.tids.isEmpty && decide b.tids.Nodup && b.tids.all (placed s) &&
    (wordCheck s w).isNone && (!w.sh.whole || (!b.tids.any (holdsClause s) && wholeBundle s b.tids)) &&
    !(wgsOf b.tids).any (heldBack s) && !w.blocked s && (w.unended s).isEmpty && b.tids.all (soundLane s) && (preFails s w).isEmpty

/-- The state in which a word takes effect: the context labels of the bundle's groups raised by the guard's label (R15, R58). -/
def entered (i : Instr) (s : State) : State := raiseGuard s (wordAt i s)

/-- The state after the word took effect as said: the bundle goes on to the next word (R25), with its adverbs spent. -/
def goOn (i : Instr) (s t : State) : State := advance t (wordAt i s) (lanes i s)

/-! What the lanes read. -/

/-- A 32-bit register field as a lane reads it (R10). -/
def rv (s : State) (u : Nat) (f : BitVec 7) : Word := (readReg s u f.toNat).val

/-- A pair as a lane reads it: the even register holds the low half; z reads as 0 (R11). -/
def pv (s : State) (u : Nat) (f : BitVec 7) : DWord :=
  if f.toNat = 116 then 0 else (readReg s u (f.toNat + 1)).val ++ (readReg s u f.toNat).val

/-- The words of a pair value. -/
def halves (v : DWord) : List Word := [v.truncate 32, (v >>> 32).truncate 32]

/-- The words of a number: `n` of them, least significant first. -/
def wordsOf (v : Nat) : Nat → List Word
  | 0 => []
  | n + 1 => w32 v :: wordsOf (v / 2 ^ 32) n

/-- A source of the word is poisoned in a lane (R72). -/
def srcPoison (i : Instr) (s : State) (u : Nat) : Bool := (wordAt i s).srcs.any fun o => anyPoison (readOpnd s u o)

/-- The addend of a multiply-add: the XOPND register, else rd (R24, R75). -/
def addend (s : State) (d : BitVec 7) : BitVec 7 := s.bundle.advs.xopnd.getD d

/-- The conditions of ICMP (R34), on register words. -/
def icmpHolds (c : BitVec 4) (x y : Word) : Bool :=
  match c.toNat with
  | 0 => x == y
  | 1 => x != y
  | 2 => x.slt y
  | 3 => x.sle y
  | 4 => y.slt x
  | 5 => y.sle x
  | 6 => x.ult y
  | 7 => x.ule y
  | 8 => y.ult x
  | _ => y.ule x

/-- The label of the word's result in a group: its sources, guard and context (R54). -/
def outLabel (i : Instr) (s : State) (g : Nat) : Label := (wordAt i s).label s g

/-- The label of a result is set outright: the word takes effect in every live thread of the group (R54). -/
def setsLabel (i : Instr) (s : State) (g : Nat) : Bool := holdsGroup s (lanes i s) g

/-- A label after a write in a group. -/
def newLabel (i : Instr) (s : State) (g : Nat) (old : Label) : Label :=
  if setsLabel i s g then outLabel i s g else old ||| outLabel i s g

/-! What running a word changes. -/

/-- The bits of sr.twritten that a write of the operand sets (R45). -/
def tempBits (d : Opnd) : BitVec 4 :=
  (fieldsOf d).foldl (fun m f => if 112 ≤ f ∧ f < 116 then m ||| (1#4 <<< (f - 112)) else m) 0

/-- A computing word has run: it has changed nothing but the registers and flags of its lanes, the group registers, labels and
context labels of its groups, and its bundle, which stands at the next word. -/
structure Ran (i : Instr) (s t : State) : Prop where
  rest : t = { s with threads := t.threads, groups := t.groups, pipes := t.pipes }
  pipes : t.pipes = tmod s.pipes s.turn fun b => { b with pc := b.pc + 4, pos := b.pos + 1, advs := {}, stalled := false }
  otherThreads : ∀ u, u ∉ s.bundle.tids → tfind t.threads u = tfind s.threads u
  otherGroups : ∀ g, g ∉ s.gids → tfind t.groups g = tfind s.groups g
  offLanes : ∀ u, u ∉ lanes i s → t.thr u = { s.thr u with passed := (t.thr u).passed }
  thread : ∀ u, t.thr u = { s.thr u with
    regs := (t.thr u).regs, written := (t.thr u).written, preds := (t.thr u).preds, fpflags := (t.thr u).fpflags
    dpc := (t.thr u).dpc, hint := (t.thr u).hint, yielded := (t.thr u).yielded, passed := (t.thr u).passed }
  group : ∀ g, t.grp g = { s.grp g with
    g := (t.grp g).g, lreg := (t.grp g).lreg, lpred := (t.grp g).lpred, lg := (t.grp g).lg, lflags := (t.grp g).lflags
    ctx := (t.grp g).ctx }
  context : ∀ g ∈ s.gids, (t.grp g).ctx = (s.grp g).ctx ||| (if (shape i).sel then 0 else (wordAt i s).guardLabel s g)
  sched : ∀ u ∈ lanes i s, (t.thr u).yielded = (match s.bundle.advs.sched with
      | none => (s.thr u).yielded
      | some v => (schedule v (s.thr u)).yielded) ∧
    (t.thr u).hint = (match s.bundle.advs.sched with
      | none => (s.thr u).hint
      | some v => (schedule v (s.thr u)).hint)

/-- A computing word has run and written a destination: the words of each lane's value, with the lane's poison bit; z discards
them (R10); a group register takes the value of its group's lowest lane, high half 0 (R10, R51). `fl` are the flags each lane
raises, where the word raises flags (R55, R68). -/
structure Wrote (i : Instr) (s t : State) (d : Opnd) (val : Nat → List Word) (poison : Nat → Bool)
    (fl : Option (Nat → BitVec 5)) : Prop extends Ran i s t where
  value : ∀ u ∈ lanes i s, ∀ e ∈ (fieldsOf d).zip (val u), e.1 < 116 →
    sget {} (t.thr u).regs e.1 = { val := e.2, poison := poison u }
  regs : ∀ u f, u ∉ lanes i s ∨ f ∉ fieldsOf d → sget {} (t.thr u).regs f = sget {} (s.thr u).regs f
  temps : ∀ u ∈ lanes i s, (t.thr u).written = (s.thr u).written ||| tempBits d
  predicate : ∀ k, d = .p k → ∀ u ∈ lanes i s,
    sget {} (t.thr u).preds k = { val := decide ((val u).headD 0 ≠ 0), poison := poison u }
  preds : ∀ u k, u ∉ lanes i s ∨ d ≠ .p k → sget {} (t.thr u).preds k = sget {} (s.thr u).preds k
  groupReg : ∀ k, gDest d = some k → ∀ g ∈ s.gids, sget {} (t.grp g).g k =
    match lowestIn (lanes i s) g with
    | some u => { val := ((val u).headD 0).zeroExtend 64, plo := poison u }
    | none => sget {} (s.grp g).g k
  groupRegs : ∀ k g, gDest d ≠ some k → sget {} (t.grp g).g k = sget {} (s.grp g).g k
  label : ∀ g ∈ s.gids, ∀ f ∈ fieldsOf d, f < 116 → sget 0 (t.grp g).lreg f = newLabel i s g (sget 0 (s.grp g).lreg f)
  labels : ∀ g f, g ∉ s.gids ∨ f ∉ fieldsOf d → sget 0 (t.grp g).lreg f = sget 0 (s.grp g).lreg f
  predLabel : ∀ k, d = .p k → ∀ g ∈ s.gids, sget 0 (t.grp g).lpred k = newLabel i s g (sget 0 (s.grp g).lpred k)
  predLabels : ∀ k g, d ≠ .p k → sget 0 (t.grp g).lpred k = sget 0 (s.grp g).lpred k
  groupLabel : ∀ k, gDest d = some k → ∀ g ∈ s.gids, sget 0 (t.grp g).lg k = newLabel i s g (sget 0 (s.grp g).lg k)
  groupLabels : ∀ k g, gDest d ≠ some k → sget 0 (t.grp g).lg k = sget 0 (s.grp g).lg k
  flags : ∀ u ∈ lanes i s, (t.thr u).fpflags = (match fl with | none => (s.thr u).fpflags | some f => (s.thr u).fpflags ||| f u)
  flagsLabel : ∀ g ∈ s.gids, (t.grp g).lflags = (match fl with | none => (s.grp g).lflags | some _ => (s.grp g).lflags ||| outLabel i s g)
  firstPoison : ∀ u ∈ lanes i s, (t.thr u).dpc =
    if poison u ∧ gDest d = none ∧ (s.thr u).dpc = 0 then s.bundle.pc else (s.thr u).dpc

/-- Running the word answers a next state in which it has written the destination and raised no flag. -/
def Computes (i : Instr) (s : State) (d : Opnd) (val : Nat → List Word) : Prop :=
  ∃ t, exec i s = .next t ∧ Wrote i s t d val (srcPoison i s) none

/-- Running a floating-point word answers a next state in which it has written the destination and raised its flags; a poisoned
lane raises none (R72). -/
def ComputesF (i : Instr) (s : State) (d : Opnd) (val : Nat → List Word × BitVec 5) : Prop :=
  ∃ t, exec i s = .next t ∧
    Wrote i s t d (fun u => (val u).1) (srcPoison i s) (some fun u => if srcPoison i s u then 0 else (val u).2)

/-- The lanes whose result would raise a flag that their own thread enables; a poisoned lane raises none (R69, R72). -/
def enabledLanes (i : Instr) (s : State) (fl : Nat → BitVec 5) : List Nat :=
  (lanes i s).filter fun u => !srcPoison i s u && decide (fl u &&& (s.thr u).fpctl ≠ 0)

/-- A floating-point word: it computes the results and flags said, lane by lane, unless a lane would raise a flag that its thread
enables; then those lanes fail with cause 0x14 and the flags enabled, and nothing is written (R68, R69). -/
def FpWord (i : Instr) (s : State) (d : Opnd) (r : Nat → Nat × BitVec 5) : Prop :=
  clear i s = true →
    (enabledLanes i s (fun u => (r u).2) = [] → ComputesF i s d fun u => (wordsOf (r u).1 (opndWords d), (r u).2)) ∧
    (enabledLanes i s (fun u => (r u).2) ≠ [] → exec i s = .next (trapFails s (wordAt i s)
      ((enabledLanes i s fun u => (r u).2).map fun u =>
        { tid := u, cause := 0x14, detail := ((r u).2 &&& (s.thr u).fpctl).zeroExtend 8 })))

/-! Random numbers (R106), on words. -/

/-- One round of Philox4x32. -/
def philoxStep (c : Word × Word × Word × Word) (k0 k1 : Word) : Word × Word × Word × Word :=
  let h0 := (0xD2511F53#32).zeroExtend 64 * c.1.zeroExtend 64
  let h1 := (0xCD9E8D57#32).zeroExtend 64 * c.2.2.1.zeroExtend 64
  ((h1 >>> 32).truncate 32 ^^^ c.2.1 ^^^ k0, h1.truncate 32, (h0 >>> 32).truncate 32 ^^^ c.2.2.2 ^^^ k1, h0.truncate 32)

/-- The rounds: the keys of round j are the first keys plus j steps. -/
def philoxRounds (k0 k1 : Word) : Nat → Word × Word × Word × Word → Word × Word × Word × Word
  | 0, c => c
  | j + 1, c => philoxStep (philoxRounds k0 k1 j c) (k0 + BitVec.ofNat 32 j * 0x9E3779B9#32) (k1 + BitVec.ofNat 32 j * 0xBB67AE85#32)

/-! Whole-group words (R110 to R122). -/

/-- A whole-group word: where no lane consumes a poisoned word, it writes the lanes' words; else the lanes that do fail with cause
0x12 and nothing is written (R113). -/
def CollectiveWord (i : Instr) (s : State) (d : Opnd) (val : Nat → List Word) (poison consumes : Nat → Bool)
    (fl : Option (Nat → BitVec 5)) : Prop :=
  clear i s = true →
    ((lanes i s).filter consumes = [] → ∃ t, exec i s = .next t ∧ Wrote i s t d val poison fl) ∧
    ((lanes i s).filter consumes ≠ [] →
      exec i s = .next (trapFails s (wordAt i s) (((lanes i s).filter consumes).map fun u => { tid := u, cause := 0x12 })))

/-- The thread of another lane of a thread's group. -/
def peer (u lane : Nat) : Nat := gidOf u * 64 + lane

/-- The lane of the group is present (R111). -/
def present (s : State) (u lane : Nat) : Bool := s.bundle.tids.contains (peer u lane)

/-- The fill word (R111): 0, or the XOPND register as a thread reads it. -/
def fillWord (s : State) (u : Nat) : Cell :=
  match s.bundle.advs.xopnd with
  | none => {}
  | some f => readReg s u f.toNat

/-- What a lane takes of a source lane: its word where it is present, else the fill. -/
def takenWord (s : State) (u : Nat) (a : BitVec 7) (src : Option Nat) : Cell :=
  match src with
  | some l => if present s u l then readReg s (peer u l) a.toNat else fillWord s u
  | none => fillWord s u

/-- A shuffle: each lane takes the word of the lane its count chooses; it consumes the count, and a word of another lane. -/
def ShuffleWord (i : Instr) (s : State) (d a b : BitVec 7) (src : Nat → Nat → Option Nat) : Prop :=
  let from_ := fun u => src (laneOf u) (rv s u b).toNat
  CollectiveWord i s (.r d) (fun u => [(takenWord s u a (from_ u)).val]) (fun u => (takenWord s u a (from_ u)).poison)
    (fun u => (readReg s u b.toNat).poison ||
      match from_ u with
      | some l => present s u l && decide (l ≠ laneOf u) && (readReg s (peer u l) a.toNat).poison
      | none => false) none

/-- The pairwise tree of RED after a number of levels, position by position (R120). -/
def redAt (o : Nat) (x : Nat → Nat) : Nat → Nat → Nat
  | 0, i => x i
  | l + 1, i => if i % 2 ^ (l + 1) = 0 then (redOp o (redAt o x l i) (redAt o x l (i + 2 ^ l))).1 else redAt o x l i

/-- The log-step prefix of SCAN after a number of levels, position by position (R120). -/
def scanAt (o : Nat) (x : Nat → Nat) : Nat → Nat → Nat
  | 0, i => x i
  | l + 1, i => if 2 ^ l ≤ i then (redOp o (scanAt o x l (i - 2 ^ l)) (scanAt o x l i)).1 else scanAt o x l i

/-- The lowest-numbered thread of the bundle. -/
def lowest (s : State) : Nat := (minOf s.bundle.tids).getD 0

/-- The source of a position of RED and SCAN: a present lane's word, else the fill read in the lowest present lane (R111, R120). -/
def posCell (s : State) (a : BitVec 7) (i : Nat) : Cell :=
  if present s (lowest s) i then readReg s (peer (lowest s) i) a.toNat else fillWord s (lowest s)

/-- A lane consumes a poisoned source of one of the first n positions: another lane's word, or a fill read in another lane (R113). -/
def consumesOf (s : State) (a : BitVec 7) (u n : Nat) : Bool :=
  (List.range n).any fun i => (posCell s a i).poison &&
    (if present s (lowest s) i then decide (peer u i ≠ u) else decide (lowest s ≠ u))

/-! Words whose results arrive later (R46, R47, R153). -/

/-- No lane has an acquire under way (R162), and each can count one more access of the kind (R53). -/
def canIssue (i : Instr) (s : State) (k : AccKind) : Bool := !(lanes i s).any (acquirePending s) && !kindFull s k (lanes i s)

/-- A group of the bundle, in which the labels of the word's destinations are raised at issue where no lane of it takes the word (R54,
R71). -/
def idleGroup (i : Instr) (s : State) (g : Nat) : Group :=
  if s.gids.contains g && !(lanes i s).any (fun u => gidOf u == g) then
    (shape i).dsts.foldl (fun x d => labelOpnd false (outLabel i s g) d x) (s.grp g)
  else s.grp g

/-- The word has put one access per lane in flight: its address and kind of work as `chk` says, the lane's pending registers
marked, its count of the class raised; registers, flags, memory and everything else stand, but for the labels of a group in which no lane
takes the word. -/
structure Issued (i : Instr) (s t : State) (k : AccKind) (dst : Option Opnd) (chk : Nat → Access → Prop) : Prop where
  rest : t = { s with threads := t.threads, groups := t.groups, pipes := t.pipes, accs := t.accs, batches := t.batches, fresh := t.fresh }
  pipes : t.pipes = tmod s.pipes s.turn fun b => { b with pc := b.pc + 4, pos := b.pos + 1, advs := {}, stalled := false }
  before : ∀ n, n < s.fresh → tfind t.accs n = tfind s.accs n
  each : ∀ u ∈ lanes i s, ∃ n a, s.fresh ≤ n ∧ tfind t.accs n = some a ∧ a.kind = k ∧ a.tid = u ∧ a.pc = s.bundle.pc ∧
    a.dest = laneDest (lanes i s) dst u ∧ a.label = outLabel i s (gidOf u) ∧ chk u a
  pending : ∀ u ∈ lanes i s, ∀ f, sbBit (t.thr u) f = (sbBit (s.thr u) f || ((laneDest (lanes i s) dst u).contains f && decide (f < 112)))
  count : ∀ u ∈ lanes i s, ∀ c, octOf (t.thr u) c = octOf (s.thr u) c + if classOf k = some c then 1 else 0
  values : ∀ u, (t.thr u).regs = (s.thr u).regs ∧ (t.thr u).preds = (s.thr u).preds ∧ (t.thr u).written = (s.thr u).written ∧
    (t.thr u).fpflags = (s.thr u).fpflags
  otherThreads : ∀ u, u ∉ s.bundle.tids → tfind t.threads u = tfind s.threads u
  groups : ∀ g, t.grp g = { idleGroup i s g with ctx := (t.grp g).ctx }
  context : ∀ g ∈ s.gids, (t.grp g).ctx = (s.grp g).ctx ||| (wordAt i s).guardLabel s g

/-- The effective address of a global access in a lane (R149): the base pair plus the sign-extended payload of ADV.IMM. -/
def globalAddr (s : State) (u : Nat) (b : BitVec 7) : DWord :=
  pv s u b + (match s.bundle.advs.imm with | some p => p.signExtend 64 | none => 0)

/-- An access is translated: its IA, store and range are those of the first range that matches its address (R350, R351). -/
def Translated (s : State) (i : Instr) (a : Access) : Prop :=
  ∃ k r, rangeOf s (wordAt i s).vf a.ea = some (k, r) ∧ a.ia = iaOf r a.ea ∧ a.space = spaceOf r ∧ a.range = k

/-- A workgroup runs neither checkpointed nor paired (R416, R420). -/
def plainLanes (i : Instr) (s : State) : Prop := ∀ u ∈ lanes i s, (s.wg (wgOf u)).mode = .plain

/-- Every access in flight, and every one a checkpoint keeps, has a number and an instruction number below the next one. -/
def freshNumbers (s : State) : Bool :=
  let below := fun (l : Table Access) => l.all fun e => decide (e.1 < s.fresh ∧ e.2.inst < s.fresh)
  below s.accs && s.wgs.all fun e => match e.2.shadow with | none => true | some h => below h.accs

/-- The canonical form of a memory: addresses strictly rising, no byte listed that reads as an unlisted one does (log entry 4). -/
def Memory.wf (m : Table Byte) : Bool := canonical 0#8 m

/-- Every byte store of the package is in canonical form. -/
def memoryWf (s : State) : Bool := Memory.wf s.mem && Memory.wf s.hostMem && Memory.wf s.foreignMem

/-! Stage rings (R174 to R181). -/

/-- The lanes of a workgroup in ascending lane order (R176). -/
def lanesIn (i : Instr) (s : State) (w : Nat) : List Nat := sortLanes ((lanes i s).filter fun u => wgOf u == w)

/-- A ring of the workgroup is there, and nothing was queued or claimed in this very cycle from a later pipe, so that what is added
now goes to the end (R180). -/
def ringSteady (s : State) (w q : Nat) : Prop :=
  (tfind s.wgs w).isSome = true ∧ (tfind (s.wg w).mem.rings q).isSome = true ∧
  (∀ e ∈ (s.ring w q).puts, ¬ (e.at_ = s.now.toNat ∧ s.turn < e.pipe)) ∧ ∀ c ∈ (s.ring w q).claims, ¬ (c.at_ = s.now.toNat ∧ s.turn < c.pipe)

/-- The thread and kind of an access. -/
def accOwner (t : State) (n : Nat) : Option (Nat × AccKind) := (tfind t.accs n).map fun a => (a.tid, a.kind)

/-- What every ring word leaves alone: registers and flags, the accesses in flight before, all but the tables named. -/
structure RingWord (i : Instr) (s t : State) : Prop where
  rest : t = { s with threads := t.threads, groups := t.groups, wgs := t.wgs, cus := t.cus, pipes := t.pipes, accs := t.accs
                      batches := t.batches, msgs := t.msgs, ctxs := t.ctxs, fresh := t.fresh }
  next : t.bundle.pc = s.bundle.pc + 4
  before : ∀ n, n < s.fresh → tfind t.accs n = tfind s.accs n ∧ tfind t.msgs n = tfind s.msgs n
  regs : ∀ u, (t.thr u).regs = (s.thr u).regs ∧ (t.thr u).fpflags = (s.thr u).fpflags
  otherThreads : ∀ u, u ∉ s.bundle.tids → tfind t.threads u = tfind s.threads u

/-- The payloads of the lanes of the workgroups named are queued on the ring, in lane order, each with its lane's label and store
count; no other ring changes (R176). -/
structure QueuedPuts (i : Instr) (s t : State) (data : Opnd) (m q : Nat) (ws : List Nat) : Prop extends RingWord i s t where
  queued : ∀ w ∈ ws, ∃ es, t.ring w q = { s.ring w q with puts := (s.ring w q).puts ++ es } ∧
    es.map (·.data) = (lanesIn i s w).map (fun u => leBytes (wordsVal (readOpnd s u data)) (4 * m)) ∧
    es.map (·.label) = (lanesIn i s w).map (fun u => outLabel i s (gidOf u)) ∧
    es.map (fun e => e.acc.bind (accOwner t)) = (lanesIn i s w).map fun u => some (u, .ringPut)
  otherRings : ∀ w k, w ∉ ws ∨ k ≠ q → t.ring w k = s.ring w k
  count : ∀ u ∈ lanes i s, (t.thr u).octStore = (s.thr u).octStore + if ws.contains (wgOf u) then 1 else 0

/-- One claim per workgroup named is posted on the ring for its lanes, whose registers are pending (R177, R178). -/
structure PostedClaims (i : Instr) (s t : State) (d : Opnd) (m q : Nat) (peek : Bool) (ws : List Nat) : Prop extends RingWord i s t where
  posted : ∀ w ∈ ws, ∃ c, t.ring w q = { s.ring w q with claims := (s.ring w q).claims ++ [c] } ∧ c.peek = peek ∧ c.words = m ∧
    c.total = (lanesIn i s w).length ∧ c.accs.map (accOwner t) = (lanesIn i s w).map fun u => some (u, .ringGet)
  otherRings : ∀ w k, w ∉ ws ∨ k ≠ q → t.ring w k = s.ring w k
  pending : ∀ u ∈ lanes i s, ∀ f, sbBit (t.thr u) f = (sbBit (s.thr u) f || (ws.contains (wgOf u) &&
    (laneDest ((lanes i s).filter fun v => ws.contains (wgOf v)) (some d) u).contains f && decide (f < 112)))
  count : ∀ u ∈ lanes i s, (t.thr u).octLoad = (s.thr u).octLoad + if ws.contains (wgOf u) then 1 else 0

/-- The lanes, all on one CU, have each sent a put toward the ring of another CU; the credit is lowered by as many, which are counted
against the target's generation (R181, R295). -/
structure SentPuts (i : Instr) (s t : State) (data : Opnd) (m q cid dst : Nat) : Prop extends RingWord i s t where
  credit : creditOf t cid dst q = { creditOf s cid dst q with
    credit := (creditOf s cid dst q).credit - ((lanes i s).length : Nat), sent := (creditOf t cid dst q).sent }
  counted : ∀ k, sget 0 (creditOf t cid dst q).sent k =
    sget 0 (creditOf s cid dst q).sent k + if k = (creditOf s cid dst q).gen.toNat then (lanes i s).length else 0
  sent : ∀ u ∈ lanes i s, ∃ n e, s.fresh ≤ n ∧
    tfind t.msgs n = some (.put cid dst q (creditOf s cid dst q).gen (s.wg (wgOf u)).launch e (creditOf s cid dst q).absent) ∧
    e.data = leBytes (wordsVal (readOpnd s u data)) (4 * m) ∧ e.label = outLabel i s (gidOf u) ∧ e.src = some cid ∧
    e.acc.bind (accOwner t) = some (u, .ringPut)
  rings : ∀ w k, t.ring w k = s.ring w k
  count : ∀ u ∈ lanes i s, (t.thr u).octStore = (s.thr u).octStore + 1

/-- A queued put is done, or discarded: the store of its lane has completed and is gone, or its row of a copy command is done, with status
bit 0 where it was lost (R176, R196, R202). -/
structure PutDone (s t : State) (e : PutEntry) (lost : Bool) : Prop where
  gone : ∀ n a, e.acc = some n → tfind s.accs n = some a → tfind t.accs n = none
  count : ∀ n a, e.acc = some n → tfind s.accs n = some a → a.kind = .ringPut → (tfind s.threads a.tid).isSome = true →
    (t.thr a.tid).octStore = (s.thr a.tid).octStore - 1
  others : ∀ k, e.acc ≠ some k → tfind t.accs k = tfind s.accs k
  row : t.cmds = match e.cmd with
    | none => s.cmds
    | some c => tmod s.cmds c fun x => { x with puts := x.puts.filter (· ≠ e.row), status := if lost then x.status ||| 1 else x.status }

/-- The credit of a CU for a ring covers that many lanes, or its entry is marked absent (R181, R295). -/
def covers (s : State) (cid dst q n : Nat) : Prop := n = 0 ∨ (creditOf s cid dst q).absent = true ∨ (n : Int) ≤ (creditOf s cid dst q).credit

/-! Holds (R28, R157, R183 to R192). -/

/-- The word has added a hold to each lane and changed nothing else but the adverbs' effects and the context labels: it takes effect
at the sentence boundary. -/
structure HeldAt (i : Instr) (s t : State) (h : Nat → Hold) : Prop where
  rest : t = { s with threads := t.threads, groups := t.groups, pipes := t.pipes }
  next : t.bundle.pc = s.bundle.pc + 4 ∧ t.bundle.pos = s.bundle.pos + 1 ∧ t.bundle.tids = s.bundle.tids
  holds : ∀ u ∈ lanes i s, (t.thr u).holds = (s.thr u).holds ++ [h u]
  others : ∀ u, u ∉ lanes i s → (t.thr u).holds = (s.thr u).holds
  regs : ∀ u, (t.thr u).regs = (s.thr u).regs ∧ (t.thr u).preds = (s.thr u).preds ∧ (t.thr u).fpflags = (s.thr u).fpflags

/-- A held thread's wait is over: where it was its only hold the thread is ready, else the others keep it held. -/
def freed (s t : State) (u : Nat) (h : Hold) : Prop :=
  (t.thr u).holds = (s.thr u).holds.filter (fun x => decide (x ≠ h) && awaitUnmet (s.thr u) x) ∧
  ((t.thr u).picker = .ready ↔ (t.thr u).holds = []) ∧ (t.thr u).pc = (s.thr u).pc ∧ (t.thr u).regs = (s.thr u).regs

/-- No access of a thread of the kinds named is in flight, but for those a buffer holds (R184). -/
def quiet (s : State) (u : Nat) (ks : List AccKind) : Prop :=
  ∀ e ∈ s.accs, e.2.tid = u → e.2.kind ∈ ks → e.2.stage = .retained

/-- What an acquire and a release of an order wait for in a thread (R184): values of loads and claims; stores, atomics and puts
completed; for the wide scopes, device time past the largest write-completion time. -/
def orderMet (s : State) (u : Nat) (o : Order) : Prop :=
  (o.kind = .acquire ∨ o.kind = .acqRel → quiet s u [.load, .spLoad, .atomr, .ringGet]) ∧
  (o.kind = .release ∨ o.kind = .acqRel → quiet s u [.store, .atom, .atomr, .ringPut, .insert] ∧
    (o.scope = .dev ∨ o.scope = .part ∨ o.scope = .sys → (s.thr u).wct < s.now))

/-- No pin of the thread's workgroup is narrower than a scope (R163). -/
def noPins (s : State) (u : Nat) (o : Order) : Prop := o.kind = .acquire ∨ narrowPins s (wgOf u) o.scope = []

/-! Control transfers (R127 to R132). -/

/-- A place a sentence may start at: an aligned code address after a PERIOD (R27, R127). -/
def goodTarget (s : State) (vf cid : Nat) (pc : DWord) : Prop :=
  (∃ k r, rangeOf s vf pc = some (k, r) ∧ permX r = true) ∧ pc.toNat % 4 = 0 ∧ isPeriod (instrAt s vf cid (pc - 4)) = true

/-- The word has set where its lanes' next sentence starts, with their return stacks as said; the context labels of its groups are
raised by the guard's label and as said; registers stand (R58, R127). -/
structure Jumped (i : Instr) (s t : State) (target : Nat → DWord) (stack : Nat → List (DWord × Label)) (raise : Nat → Label) : Prop where
  rest : t = { s with threads := t.threads, groups := t.groups, pipes := t.pipes }
  next : t.bundle.pc = s.bundle.pc + 4 ∧ t.bundle.tids = s.bundle.tids
  jump : ∀ u ∈ lanes i s, (t.thr u).jump = some (target u) ∧ (t.thr u).rstack = stack u
  others : ∀ u, u ∉ lanes i s → (t.thr u).jump = (s.thr u).jump ∧ (t.thr u).rstack = (s.thr u).rstack
  regs : ∀ u, (t.thr u).regs = (s.thr u).regs ∧ (t.thr u).preds = (s.thr u).preds
  groups : ∀ q, t.grp q = { s.grp q with ctx := (t.grp q).ctx }
  context : ∀ q ∈ s.gids, (t.grp q).ctx = (s.grp q).ctx ||| (wordAt i s).guardLabel s q ||| raise q

/-- The word traps, lane u among those that fail, with cause c among its causes; nothing but context labels has changed (R127). -/
def failsWith (i : Instr) (s : State) (u c : Nat) : Prop :=
  ∃ e l, exec i s = .next (trapFails e (wordAt i s) l) ∧ e = { s with groups := e.groups } ∧ (∀ q, e.grp q = { s.grp q with ctx := (e.grp q).ctx }) ∧
    ∃ f ∈ l, f.tid = u ∧ f.cause = c

/-! Traps (R135 to R140). -/

/-- A thread that a trap takes to its handler: alive, with a trap vector that is a sentence start, and not in a handler (R135, R138). -/
def hasHandler (s : State) (u : Nat) : Prop :=
  alive (s.thr u) = true ∧ (s.grp (gidOf u)).tvec ≠ 0 ∧ (s.thr u).frame.inh = false ∧
  targetCause s (s.vfOf (wgOf u)) (s.cidOf u) (s.grp (gidOf u)).tvec = none

/-- The threads have taken the trap (R135 to R137): each one's frame says what happened, its temporaries are saved, and its next
sentence starts at its group's trap vector; its registers stand; nothing else has changed but the pipes it left and the counters
of its context. -/
structure TrapTaken (s t : State) (ts : List Nat) (q : TrapReq) : Prop where
  rest : t = { s with threads := t.threads, pipes := t.pipes, ctxs := t.ctxs }
  others : ∀ u, u ∉ ts → tfind t.threads u = tfind s.threads u
  left : ∀ e ∈ t.pipes, ∀ u ∈ ts, u ∉ e.2.tids
  cause : ∀ u ∈ ts, (t.thr u).cause = BitVec.ofNat 6 q.cause ∧ (t.thr u).detail = q.detail
  where_ : ∀ u ∈ ts, (t.thr u).frame.tfpc = q.pc ∧ (t.thr u).frame.tfrpc = q.rpc ∧ (t.thr u).frame.pos = BitVec.ofNat 5 q.pos ∧
    (t.thr u).frame.tfaddr = q.addr
  status : ∀ u ∈ ts, (t.thr u).frame.inh = true ∧ (t.thr u).frame.own = q.own.contains u ∧ (t.thr u).frame.kind = q.kind ∧
    (t.thr u).frame.tw = (s.thr u).written ∧ (t.thr u).frame.rsd = BitVec.ofNat 5 (s.thr u).rstack.length
  poison : ∀ u ∈ ts, (t.thr u).frame.tfdpc = if q.cause = 0x12 then (s.thr u).dpc else 0
  temps : ∀ u ∈ ts, ∀ k, k < 4 → sget ({} : Cell) (t.thr u).frame.tft k = sget {} (s.thr u).regs (112 + k)
  handler : ∀ u ∈ ts, (t.thr u).pc = (s.grp (gidOf u)).tvec ∧ (t.thr u).pos = 0 ∧ (t.thr u).picker = .ready ∧ (t.thr u).holds = []
  kept : ∀ u ∈ ts, (t.thr u).regs = (s.thr u).regs ∧ (t.thr u).preds = (s.thr u).preds ∧ (t.thr u).rstack = (s.thr u).rstack ∧
    (t.thr u).fpflags = (s.thr u).fpflags

/-! The memory side (R158 to R163, R288). -/

/-- Nothing stands in an access's way at its home: no pin on its line, no refusal, its page backed; its launch writes and reads memory
itself (R428). -/
def letThrough (s : State) (a : Access) (wr : Bool) (l : Label) : Prop :=
  pinHolders s (lineOf a.space a.ia) = [] ∧ (s.launchOf (wgOf a.tid)).replay = false ∧ (s.launchOf (wgOf a.tid)).requeued = false ∧
  memSide s (s.vfOf (wgOf a.tid)) (s.grp (gidOf a.tid)).dom a.space (rangeRec s (s.vfOf (wgOf a.tid)) a.range) a.ia wr l = .ok s

/-- No grain of memory has failed, and every device that a line's page lies on can be reached (R412, R452). -/
def soundMemory (s : State) : Prop := s.grains = [] ∧ s.sectors = [] ∧ ∀ ia, linkDown s ia = false

/-- The home answers a write with the lease end or now, whichever is later (R279). -/
def writtenAt (s : State) (line : Nat) : DWord := if (leaseOf s line).le < s.now then s.now else (leaseOf s line).le

/-! Queues and the mailbox (R333 to R338, R444, R445). -/

/-- Nothing of a context's queues can be taken: none is enabled, none has a head (R336). -/
def idleQueues (s : State) (vf : Nat) : Prop := ∀ q, q < 16 → (s.queue vf q).head = none ∧ queueOn (s.queue vf q) = false

/-- What an event pass leaves alone stays as it is; no number of a launch is that of the device's own accesses. -/
def ownAccesses (s : State) : Prop := tfind s.launches noLaunch = none

/-- A mailbox's response has the status in its word 0 and the result in its word 1 (R445). -/
def Responded (t : State) (port : Nat) (status : BitVec 8) (result : DWord) : Prop :=
  ∃ m, tfind t.pkg.mailboxes port = some m ∧ sget 0 m.response 0 = status.zeroExtend 64 ∧ sget 0 m.response 1 = result

/-- A command of a mailbox: its port is there and the device is awake (R444, R445, R457). -/
def canCommand (s : State) (port : Nat) : Prop := port < 2 ∧ s.pkg.power ≠ 4

/-- The state but for what a response changes: the mailboxes and the next number. -/
def answered (s t : State) : Prop := t = { s with fresh := t.fresh, pkg := { s.pkg with mailboxes := t.pkg.mailboxes } }

end Sys2Proof.Machine
end

