-- ==== Sys2Proof/WellFormed.lean ====
section
/-! DEFINITION. Well-formed instructions: the operand encodings are legal (R109, R148, R193, R233), and a word is
written as its own row of the table: IADD (immediate) with ra = 116 is MOVI (R76). -/

namespace Sys2Proof

/-- The instruction is the one its own word decodes to. -/
def Instr.canonical : Instr → Bool
  | .iaddImm _ _ a _ => decide (a ≠ 116#7)
  | _ => true

/-- A well-formed instruction. The steps of the table, which have no word, are well formed. -/
def Instr.wellFormed (i : Instr) : Bool := i.canonical && Machine.legal i

end Sys2Proof
end

