-- ==== Sys2Proof/Certificates/Slice0/Obligations.lean ====
section
/-! DEFINITION. The statements for the provers. -/

open Sys2Proof Sys2Proof.Machine

/-! ## The machine as a whole. -/

/-- What a step is (R25, R27, R30, R32, R33; log entries 2, 6): a device that has booted takes the act at the head of its agenda, or the
policy's; an issue runs the instruction that the word at the bundle's PC decodes to, as the pipe whose turn it is, or takes the trap
that the fetch or an illegal encoding calls for. The word is the CU's copy of its line where a pin or a live lease holds one, else the
four bytes of memory, of which the CU then has a leased copy. A step of the table runs unless its context is saved or absent, after
which held bundles try again; every instruction answers a next state, and only a device held in reset stops. -/
def Obligations.StepRunsDecodedInstruction : Prop := ∀ (s : State),
  let s' := { s with agenda := s.agenda.tail }
  (∀ i, ∃ t, exec i s = .next t) ∧
  (s.pkg.booted = true → s.agenda = [] → step s = step { s with agenda := [policy s] }) ∧
  (∀ p b, s.pkg.booted = true → s.agenda.head? = some (.issue p) → tfind s.pipes p = some b → bundleFrozen s b = false →
    let vf := s.vfOf (wgOf (b.tids.headD 0))
    let lch := s.launchOf (wgOf (b.tids.headD 0))
    (∀ c, fetchFor s' p b = .trap c → step s = .next (takeTrap s' b.tids (faultReq b c b.tids))) ∧
    (∀ t, fetchFor s' p b = .wait t → step s = .next t) ∧
    (∀ t w i, fetchFor s' p b = .word t w → decode w = .ok i → step s = exec i { t with turn := p }) ∧
    (∀ t w e, fetchFor s' p b = .word t w → decode w = .error e → step s = exec (.illegalEncoding w) { t with turn := p }) ∧
    (rangeOf s vf b.pc = none → fetchFor s' p b = .trap 3) ∧
    (∀ k r, rangeOf s vf b.pc = some (k, r) → permX r = false → fetchFor s' p b = .trap 4) ∧
    (∀ k r, rangeOf s vf b.pc = some (k, r) → permX r = true → iaOf r b.pc % 4 = 0 →
      let ia := iaOf r b.pc
      let line := lineOf (spaceOf r) ia
      let byteOf := fun (l : List Byte) j => (l[ia % 64 + j]?).getD 0
      let fetches := fun (t : State) (byte : Nat → Byte) => fetchFor s' p b = .word t (byte 3 ++ byte 2 ++ byte 1 ++ byte 0)
      (∀ h q, ownPin s (p / 4) line = some (h, q) → q.bytes.length = 64 → fetches s' (byteOf q.bytes)) ∧
      (∀ c, ownPin s (p / 4) line = none → lch.replay = false → liveCopy s (p / 4) (s.ctx vf).dom line = some c → c.bytes.length = 64 →
        fetches s' (byteOf c.bytes)) ∧
      (pinHolders s line = [] → lch.replay = false → lch.requeued = false → liveCopy s (p / 4) (s.ctx vf).dom line = none →
        peerLine s line = false → soundMemory s → memSide s' vf (s.ctx vf).dom (spaceOf r) r ia false 0 = .ok s' →
        ∃ t, fetches t (fun j => sget 0#8 (s.store (spaceOf r)) (ia + j)) ∧ t = { s' with pages := t.pages, cus := t.cus, cores := t.cores } ∧
          ∃ c, tfind (t.cu (p / 4)).l1 line = some c ∧ byteOf c.bytes 0 = sget 0#8 (s.store (spaceOf r)) ia))) ∧
  (∀ p, s.pkg.booted = true → s.agenda.head? = some (.issue p) →
    (tfind s.pipes p = none ∨ ∃ b, tfind s.pipes p = some b ∧ bundleFrozen s b = true) → step s = .next s') ∧
  (∀ e, s.pkg.booted = true → s.agenda.head? = some (.event e) → (shape e).word = false → frozen s e = false →
    step s = exec e { s' with pipes := tmap s.pipes fun _ b => { b with stalled := false } }) ∧
  (∀ e, s.pkg.booted = true → s.agenda.head? = some (.event e) → ((shape e).word = true ∨ frozen s e = true) → step s = .next s') ∧
  (∀ n, s.pkg.booted = true → s.agenda.head? = some (.tick n) → ∃ t, step s = .next t ∧ t.now = s.now + d64 n ∧ t.mem = s.mem ∧
    t.threads = s.threads ∧ t.groups = s.groups ∧ t.agenda = s'.agenda) ∧
  (∀ u, s.pkg.booted = true → s.agenda.head? = some (.upset u) → step s = .next (applyUpset s' u)) ∧
  (∀ a b c d, s.agenda.head? = some (.event (.powerOnBoot a b c d)) → ∃ t, step s = .next t) ∧
  (s.pkg.booted = false → (∀ a b c d, nextAct s ≠ .event (.powerOnBoot a b c d)) → step s = .fault .heldInReset)

/-- Words of every part of the opcode map decode to what they stand for (R8, R9, R12, R33), the spec's own worked words among them;
reserved majors and must-be-zero fields are refused. -/
def Obligations.DecodesWrittenWords : Prop :=  decode 0x7E024403#32 = .ok (.shflDown 0 9 8 3) ∧ decode 0x880040F4#32 = .ok (.gbcast 0 1 1 116) ∧
  decode 0x76040A06#32 = .ok (.rng4 0 16 20 6) ∧ decode 0x8A010180#32 = .ok (.xgsend 0 4 3) ∧ decode 0x8A01C181#32 = .ok (.xgrecv 0 7 3) ∧
  decode 0x86080280#32 = .ok (.voteAny 0 2 5) ∧ decode 0x84018200#32 = .ok (.red 0 6 4 0) ∧ decode 0x84014244#32 = .ok (.scan 0 5 4 0 1) ∧
  decode 0x70050400#32 = .ok (.packE4m3x4 0 20 8) ∧ decode 0xEC1D3A74#32 = .ok (.period 116 116 116) ∧
  decode 0x30057A80#32 = .ok (.mov 0 21 117) ∧ decode 0x02007A7F#32 = .ok (.movi 0 1 127) ∧ decode 0x80004100#32 = .ok (.permset 0 1 2) ∧
  decode 0x82050A81#32 = .ok (.perm 0 20 21 1) ∧ decode 0xFE400002#32 = .ok (.advXopnd 2) ∧ decode 0xF2008380#32 = .ok (.srd 0 2 7) ∧
  decode 0xF21D0101#32 = .ok (.swr 0 116 2) ∧ decode 0xD81D0300#32 = .ok (.flset 0 116 6) ∧ decode 0xD81D0601#32 = .ok (.flins 0 116 12) ∧
  (∀ m ∈ [27, 48, 51, 93, 95, 102, 110, 119, 124, 125], decode (BitVec.ofNat 32 (m * 2 ^ 25)) = .error .reservedMajor) ∧
  decode 0x2A000060#32 = .error .unassigned

/-- Encoding and decoding agree (R9, R33): every instruction of a word, whatever its operands, is what its word decodes to; each word
that decodes is the word of its instruction; exactly the rows without a step of the table have a word. -/
def Obligations.EncodeThenDecode : Prop :=  (∀ (i : Instr) (w : Word), i.canonical = true → encode i = some w → decode w = .ok i) ∧
  (∀ (w : Word) (i : Instr), decode w = .ok i → encode i = some w ∧ i.canonical = true) ∧
  ∀ i : Instr, (encode i).isSome = (shape i).word

/-- The state after reset (R52, R274, R399; log entries 1, 4, 13, the model's own choices among them): a booted device of 32 cores with
nothing placed, launched or listed, every byte of its memories reading as an unlisted one, no range, device time 0; in it the
invariants of the model hold. -/
def Obligations.ResetState : Prop :=  let s := State.reset
  s.pkg.booted = true ∧ s.pkg.enabledCores = 0xFFFFFFFF#32 ∧ s.now = 0 ∧ s.threads = [] ∧ s.groups = [] ∧ s.wgs = [] ∧ s.pipes = [] ∧ s.accs = [] ∧
  s.launches = [] ∧ (∀ sp a, sget 0#8 (s.store sp) a = 0) ∧ (∀ vf pc, rangeOf s vf pc = none) ∧ (∀ p, bit (s.part p).w1.toNat 63 = false) ∧
  (∀ vf q, bit (s.queue vf q).w1.toNat 63 = false) ∧ memoryWf s = true ∧ freshNumbers s = true

/-- No step takes a memory out of its canonical form (log entry 4): addresses strictly rising, no byte listed that reads as an unlisted
one; so equal memories are equal data. -/
def Obligations.MemoryStaysCanonical : Prop := ∀ (s t : State), memoryWf s = true → step s = .next t → memoryWf t = true

/-- Every step keeps the numbering of accesses (a property of the model's own counter, log entry 2): each access in flight, or kept by a
checkpoint, has a number and an instruction number below the next one. -/
def Obligations.NumbersStayFresh : Prop := ∀ (s t : State), freshNumbers s = true → step s = .next t → freshNumbers t = true

/-- A group's context label never falls while the group lives (R57): not in a word, not in a trap or TRET, not across pre-emption, not
across a rollback; the steps that place new groups give them numbers of their own. -/
def Obligations.ContextLabelNeverFalls : Prop := ∀ (i : Instr) (s t : State) (g : Nat) (x y : Group),
  (∀ l c a, i ≠ .workgroupPlacement l c a) → (∀ l k q, i ≠ .fragmentLaunch l k q) → (∀ l k c, i ≠ .resolveLaunch l k c) →
  exec i s = .next t → tfind s.groups g = some x → tfind t.groups g = some y → x.ctx &&& ~~~y.ctx = 0

/-! ## Integer words. -/

/-- Integer addition, subtraction, products, minima and maxima (R75): the result in every lane, modulo 2^32; IMAD adds rd, or the
register that ADV.XOPND names; and their words.

The immediate of an immediate word (R23, R76): the seven bits sign-extended, or with ADV.IMM the 25 bits of its payload above
them. -/
def Obligations.IntegerResults : Prop :=
  (∀ (s : State) (g : BitVec 4) (d a b : BitVec 7),
     (let word := fun (m : BitVec 7) => some ((m ++ g ++ d ++ a ++ b : Word))
      encode (.iadd g d a b) = word 0x00 ∧ encode (.isub g d a b) = word 0x02 ∧ encode (.imul g d a b) = word 0x03 ∧
      encode (.imulhI32 g d a b) = word 0x04 ∧ encode (.imulhN32 g d a b) = word 0x05 ∧ encode (.imad g d a b) = word 0x06 ∧
      encode (.iminI32 g d a b) = word 0x07 ∧ encode (.iminN32 g d a b) = word 0x08 ∧ encode (.imaxI32 g d a b) = word 0x09 ∧
      encode (.imaxN32 g d a b) = word 0x0A) ∧
     (clear (.iadd g d a b) s = true → Computes (.iadd g d a b) s (.r d) fun u => [rv s u a + rv s u b]) ∧
     (clear (.isub g d a b) s = true → Computes (.isub g d a b) s (.r d) fun u => [rv s u a - rv s u b]) ∧
     (clear (.imul g d a b) s = true → Computes (.imul g d a b) s (.r d) fun u => [rv s u a * rv s u b]) ∧
     (clear (.imulhI32 g d a b) s = true → Computes (.imulhI32 g d a b) s (.r d) fun u =>
       [(((rv s u a).signExtend 64 * (rv s u b).signExtend 64) >>> 32).truncate 32]) ∧
     (clear (.imulhN32 g d a b) s = true → Computes (.imulhN32 g d a b) s (.r d) fun u =>
       [(((rv s u a).zeroExtend 64 * (rv s u b).zeroExtend 64) >>> 32).truncate 32]) ∧
     (clear (.imad g d a b) s = true → Computes (.imad g d a b) s (.r d) fun u => [rv s u a * rv s u b + rv s u (addend s d)]) ∧
     (clear (.iminI32 g d a b) s = true → Computes (.iminI32 g d a b) s (.r d) fun u =>
       [if (rv s u b).slt (rv s u a) then rv s u b else rv s u a]) ∧
     (clear (.iminN32 g d a b) s = true → Computes (.iminN32 g d a b) s (.r d) fun u =>
       [if rv s u b < rv s u a then rv s u b else rv s u a]) ∧
     (clear (.imaxI32 g d a b) s = true → Computes (.imaxI32 g d a b) s (.r d) fun u =>
       [if (rv s u a).slt (rv s u b) then rv s u b else rv s u a]) ∧
     (clear (.imaxN32 g d a b) s = true → Computes (.imaxN32 g d a b) s (.r d) fun u =>
       [if rv s u a < rv s u b then rv s u b else rv s u a])) ∧
  (∀ (s : State) (g : BitVec 4) (d a b : BitVec 7),
     let imm := fun (k : BitVec 7) => (match s.bundle.advs.imm with | some p => (p ++ k : Word) | none => k.signExtend 32)
     (∀ k, clear (.iaddImm g d a k) s = true → Computes (.iaddImm g d a k) s (.r d) fun u => [rv s u a + imm k]) ∧
     (∀ k, clear (.movi g d k) s = true → Computes (.movi g d k) s (.r d) fun _ => [imm k]) ∧
     (clear (.iadd64 g d a b) s = true → Computes (.iadd64 g d a b) s (.pair d) fun u => halves (pv s u a + pv s u b)) ∧
     (clear (.isub64 g d a b) s = true → Computes (.isub64 g d a b) s (.pair d) fun u => halves (pv s u a - pv s u b)) ∧
     (∀ (sh : BitVec 2) (x : BitVec 5), clear (.lea g d a sh x) s = true →
       Computes (.lea g d a sh x) s (.r d) fun u => [rv s u a + rv s u (x.zeroExtend 7) <<< sh.toNat]) ∧
     (clear (.mov g d a) s = true → Computes (.mov g d a) s (.r d) fun u => [rv s u a]) ∧
     (clear (.mov64 g d a) s = true → Computes (.mov64 g d a) s (.pair d) fun u => halves (pv s u a)))

/-- Logic and shifts (R79 to R81): a register amount is the whole of vb, so 32 and more empty the word, or fill it with the sign; the words of the register forms.

Bit fields and single-operand words (R82 to R84): a field of `len` bits from `pos` on, clipped at bit 31, is extracted by two
shifts, or inserted under its mask.

Compare and select (R34, R85, R86): ICMP writes its condition to the predicate; SEL chooses by the selector in every lane. -/
def Obligations.LogicBitAndSelectResults : Prop :=
  (∀ (s : State) (g : BitVec 4) (d a b : BitVec 7) (n : BitVec 5),
     (let word := fun (m : BitVec 7) => some ((m ++ g ++ d ++ a ++ b : Word))
      encode (.and32 g d a b) = word 0x0E ∧ encode (.or32 g d a b) = word 0x0F ∧ encode (.xor32 g d a b) = word 0x10 ∧
      encode (.andn g d a b) = word 0x11 ∧ encode (.shl g d a b) = word 0x12 ∧ encode (.shr g d a b) = word 0x13 ∧
      encode (.sar g d a b) = word 0x14) ∧
     (clear (.and32 g d a b) s = true → Computes (.and32 g d a b) s (.r d) fun u => [rv s u a &&& rv s u b]) ∧
     (clear (.or32 g d a b) s = true → Computes (.or32 g d a b) s (.r d) fun u => [rv s u a ||| rv s u b]) ∧
     (clear (.xor32 g d a b) s = true → Computes (.xor32 g d a b) s (.r d) fun u => [rv s u a ^^^ rv s u b]) ∧
     (clear (.andn g d a b) s = true → Computes (.andn g d a b) s (.r d) fun u => [rv s u a &&& ~~~(rv s u b)]) ∧
     (clear (.shl g d a b) s = true → Computes (.shl g d a b) s (.r d) fun u => [rv s u a <<< (rv s u b).toNat]) ∧
     (clear (.shr g d a b) s = true → Computes (.shr g d a b) s (.r d) fun u => [rv s u a >>> (rv s u b).toNat]) ∧
     (clear (.sar g d a b) s = true → Computes (.sar g d a b) s (.r d) fun u => [(rv s u a).sshiftRight (rv s u b).toNat]) ∧
     (clear (.shlImm g d a n) s = true → Computes (.shlImm g d a n) s (.r d) fun u => [rv s u a <<< n.toNat]) ∧
     (clear (.shrImm g d a n) s = true → Computes (.shrImm g d a n) s (.r d) fun u => [rv s u a >>> n.toNat]) ∧
     (clear (.sarImm g d a n) s = true → Computes (.sarImm g d a n) s (.r d) fun u => [(rv s u a).sshiftRight n.toNat])) ∧
  (∀ (s : State) (g : BitVec 4) (d a b : BitVec 7),
     let pos := fun u => (rv s u b).toNat % 32
     let len := fun u => min (min ((rv s u b).toNat / 256 % 64) 32) (32 - pos u)
     let mask : Nat → Word := fun u => ((1#32 <<< len u) - 1) <<< pos u
     (clear (.bfe g d a b) s = true → Computes (.bfe g d a b) s (.r d) fun u =>
       [if len u = 0 then 0
        else if (rv s u b).getLsbD 16 then (rv s u a <<< (32 - pos u - len u)).sshiftRight (32 - len u)
        else (rv s u a <<< (32 - pos u - len u)) >>> (32 - len u)]) ∧
     (clear (.bfi g d a b) s = true → Computes (.bfi g d a b) s (.r d) fun u =>
       [(rv s u d &&& ~~~(mask u)) ||| ((rv s u a <<< pos u) &&& mask u)]) ∧
     (clear (.iabs g d a) s = true → Computes (.iabs g d a) s (.r d) fun u =>
       [if (rv s u a).getLsbD 31 then 0 - rv s u a else rv s u a]) ∧
     (clear (.popc g d a) s = true → Computes (.popc g d a) s (.r d) fun u =>
       [w32 ((List.range 32).countP fun k => (rv s u a).getLsbD k)]) ∧
     (clear (.clz g d a) s = true → Computes (.clz g d a) s (.r d) fun u =>
       [w32 (((List.range 32).find? fun k => (rv s u a).getLsbD (31 - k)).getD 32)]) ∧
     (clear (.brev g d a) s = true → Computes (.brev g d a) s (.r d) fun u => [(rv s u a).reverse])) ∧
  (∀ (s : State) (g : BitVec 4) (d a b : BitVec 7) (p : BitVec 3) (c : BitVec 4),
     (clear (.icmp g p c a b) s = true → Computes (.icmp g p c a b) s (.p p.toNat) fun u =>
       [if icmpHolds c (rv s u a) (rv s u b) then 1 else 0]) ∧
     (clear (.sel g d a b) s = true → lanes (.sel g d a b) s = s.bundle.tids ∧
       Computes (.sel g d a b) s (.r d) fun u => [if guardVal s u g then rv s u a else rv s u b]))

/-! ## Floating-point words. -/

/-- FP32 arithmetic, minima, maxima and compares under the word's ADV.ROUND (R64, R68, R69, R87 to R89, R92): each lane takes the
machine's own sum, product, fused or ordered result of its operands, with the flags of that operation.

FNEG inverts bit 31 and FABS clears it, NaNs included; FCLASS writes a one-hot mask of ten classes (R90, R91); none raises a
flag.

Packed 16-bit words (R93, R94): element 0 from the low halves, element 1 from the high halves, the flags of both together. -/
def Obligations.FpWordResults : Prop :=
  (∀ (s : State) (g : BitVec 4) (d a b : BitVec 7) (p : BitVec 3) (c : BitVec 4),
     let r := rndOf s.bundle.advs
     let x := fun u => (rv s u a).toNat
     let y := fun u => (rv s u b).toNat
     let z := fun u => (rv s u (addend s d)).toNat
     FpWord (.fadd g d a b) s (.r d) (fun u => f32.add r (x u) (y u)) ∧
     FpWord (.fsub g d a b) s (.r d) (fun u => f32.sub r (x u) (y u)) ∧
     FpWord (.fmul g d a b) s (.r d) (fun u => f32.mul r (x u) (y u)) ∧
     FpWord (.ffma g d a b) s (.r d) (fun u => f32.fma r false false (x u) (y u) (z u)) ∧
     FpWord (.ffms g d a b) s (.r d) (fun u => f32.fma r false true (x u) (y u) (z u)) ∧
     FpWord (.ffnma g d a b) s (.r d) (fun u => f32.fma r true false (x u) (y u) (z u)) ∧
     FpWord (.fmin g d a b) s (.r d) (fun u => f32.minmax false false (x u) (y u)) ∧
     FpWord (.fmax g d a b) s (.r d) (fun u => f32.minmax false true (x u) (y u)) ∧
     FpWord (.fcmp g p c a b) s (.p p.toNat) (fun u =>
       (if (fcmp c.toNat (x u) (y u)).1 then 1 else 0, (fcmp c.toNat (x u) (y u)).2))) ∧
  (∀ (s : State) (g : BitVec 4) (d a : BitVec 7),
     (clear (.fneg g d a) s = true → Computes (.fneg g d a) s (.r d) fun u => [rv s u a ^^^ 0x80000000#32]) ∧
     (clear (.fabs g d a) s = true → Computes (.fabs g d a) s (.r d) fun u => [rv s u a &&& 0x7FFFFFFF#32]) ∧
     (clear (.fclass g d a) s = true → Computes (.fclass g d a) s (.r d) fun u => [w32 (fclass (rv s u a).toNat)]) ∧
     ∀ n, n < 2 ^ 32 → ∃ k, k < 10 ∧ fclass n = 2 ^ k) ∧
  (∀ (s : State) (g : BitVec 4) (d a b : BitVec 7),
     let r := rndOf s.bundle.advs
     let two := fun (f : Nat → Nat → Nat → Nat × BitVec 5) (u : Nat) =>
       let x := (rv s u a).toNat
       let y := (rv s u b).toNat
       let z := (rv s u (addend s d)).toNat
       let lo := f (x % 65536) (y % 65536) (z % 65536)
       let hi := f (x / 65536) (y / 65536) (z / 65536)
       (lo.1 + hi.1 * 65536, lo.2 ||| hi.2)
     FpWord (.hadd2F16 g d a b) s (.r d) (two fun x y _ => f16.add r x y) ∧
     FpWord (.hadd2Bf16 g d a b) s (.r d) (two fun x y _ => bf16.add r x y) ∧
     FpWord (.hmul2F16 g d a b) s (.r d) (two fun x y _ => f16.mul r x y) ∧
     FpWord (.hmul2Bf16 g d a b) s (.r d) (two fun x y _ => bf16.mul r x y) ∧
     FpWord (.hfma2F16 g d a b) s (.r d) (two fun x y z => f16.fma r false false x y z) ∧
     FpWord (.hfma2Bf16 g d a b) s (.r d) (two fun x y z => bf16.fma r false false x y z) ∧
     FpWord (.hmin2F16 g d a b) s (.r d) (two fun x y _ => f16.minmax r.ftz false x y) ∧
     FpWord (.hmin2Bf16 g d a b) s (.r d) (two fun x y _ => bf16.minmax r.ftz false x y) ∧
     FpWord (.hmax2F16 g d a b) s (.r d) (two fun x y _ => f16.minmax r.ftz true x y) ∧
     FpWord (.hmax2Bf16 g d a b) s (.r d) (two fun x y _ => bf16.minmax r.ftz true x y))

/-- NaNs, infinities and zeros of FP32 sums and products (R61, R64, R87): a NaN result is the positive canonical NaN, a signalling
operand raises v, opposite infinities and 0 times infinity raise v, and an exact zero sum of opposite numbers is +0, or -0 under RD.

One rounding (R64): the rounded multiple of the unit is one of the two next to the exact magnitude m / 2^k, below in RZ, the
nearer one in RNE with ties to even, outward from zero only where RU and RD say so; it is inexact exactly where it differs. -/
def Obligations.FpValueRules : Prop :=
  (∀ (r : Rnd) (a b : Nat), a < 2 ^ 32 → b < 2 ^ 32 →
     let nan := fun n => decide (0x7F800000 < n % 2 ^ 31)
     let sig := fun n => nan n && !n.testBit 22
     let inf := fun n => decide (n % 2 ^ 31 = 0x7F800000)
     ((nan a || nan b) = true → (f32.add r a b).1 = 0x7FC00000 ∧ (f32.sub r a b).1 = 0x7FC00000 ∧ (f32.mul r a b).1 = 0x7FC00000 ∧
       (f32.add r a b).2 = (if sig a || sig b then flagV else 0) ∧ (f32.mul r a b).2 = (if sig a || sig b then flagV else 0)) ∧
     (inf a = true → inf b = true → a ≠ b → f32.add r a b = (0x7FC00000, flagV)) ∧
     (inf a = true → b % 2 ^ 31 = 0 → f32.mul r a b = (0x7FC00000, flagV) ∧ f32.mul r b a = (0x7FC00000, flagV)) ∧
     (a < 0x7F800000 → f32.add r a (a + 2 ^ 31) = (if r.mode = 3 then 0x80000000 else 0, 0))) ∧
  (∀ (mode : Nat) (neg : Bool) (m k : Nat), 0 < k → mode < 4 →
     let n := roundAt mode neg m 0 k false
     (n.2 = true ↔ m % 2 ^ k ≠ 0) ∧
     (n.1 = m / 2 ^ k ∨ (n.1 = m / 2 ^ k + 1 ∧ m % 2 ^ k ≠ 0)) ∧
     (mode = 0 → 2 * (m - n.1 * 2 ^ k) ≤ 2 ^ k ∧ 2 * (n.1 * 2 ^ k - m) ≤ 2 ^ k ∧ (2 * (m % 2 ^ k) = 2 ^ k → n.1 % 2 = 0)) ∧
     (mode = 1 → n.1 = m / 2 ^ k) ∧
     (mode = 2 → if neg then n.1 = m / 2 ^ k else m ≤ n.1 * 2 ^ k) ∧
     (mode = 3 → if neg then m ≤ n.1 * 2 ^ k else n.1 = m / 2 ^ k))

/-- Conversions, packs and unpacks (R95 to R100).

RNG4 writes the four words of Philox4x32-10 of its counter under the low halves of its key pair; a poisoned counter word or key
register poisons them (R106, R107). -/
def Obligations.ConversionAndRandomResults : Prop :=
  (∀ (s : State) (g : BitVec 4) (d a b : BitVec 7),
     let r := rndOf s.bundle.advs
     let x := fun u => (rv s u a).toNat
     let y := fun u => (rv s u b).toNat
     let q := fun (u k : Nat) => (readReg s u (a.toNat + k)).val
     let clamp := fun (lo hi : Int) (w : Word) => if w.toInt < lo then lo else if hi < w.toInt then hi else w.toInt
     (∀ (t : BitVec 3) (k : BitVec 4), FpWord (.cvtToFloat g d a t k) s (.r d)
       (fun u => cvtF r t.toNat k.toNat (wordsVal (readOpnd s u (cvtOpnd k.toNat a))))) ∧
     (∀ (t : BitVec 3) (k : BitVec 4), FpWord (.cvtToInt g d a t k) s (cvtOpnd t.toNat d) (fun u => cvtI r t.toNat k.toNat (x u))) ∧
     FpWord (.packF16x2 g d a b) s (.r d) (fun u =>
       ((packF f16 r (x u)).1 + (packF f16 r (y u)).1 * 65536, (packF f16 r (x u)).2 ||| (packF f16 r (y u)).2)) ∧
     FpWord (.packBf16x2 g d a b) s (.r d) (fun u =>
       ((packF bf16 r (x u)).1 + (packF bf16 r (y u)).1 * 65536, (packF bf16 r (x u)).2 ||| (packF bf16 r (y u)).2)) ∧
     FpWord (.packE4m3x4 g d a) s (.r d) (fun u => packF4 e4m3 r (wordsVal (readOpnd s u (.quad a)))) ∧
     FpWord (.packE5m2x4 g d a) s (.r d) (fun u => packF4 e5m2 r (wordsVal (readOpnd s u (.quad a)))) ∧
     (clear (.packI8x4 g d a) s = true → Computes (.packI8x4 g d a) s (.r d) fun u =>
       [BitVec.ofInt 8 (clamp (-128) 127 (q u 3)) ++ BitVec.ofInt 8 (clamp (-128) 127 (q u 2)) ++
        BitVec.ofInt 8 (clamp (-128) 127 (q u 1)) ++ BitVec.ofInt 8 (clamp (-128) 127 (q u 0))]) ∧
     (clear (.packN8x4 g d a) s = true → Computes (.packN8x4 g d a) s (.r d) fun u =>
       [BitVec.ofInt 8 (clamp 0 255 (q u 3)) ++ BitVec.ofInt 8 (clamp 0 255 (q u 2)) ++
        BitVec.ofInt 8 (clamp 0 255 (q u 1)) ++ BitVec.ofInt 8 (clamp 0 255 (q u 0))]) ∧
     (clear (.packI4x8 g d a) s = true → Computes (.packI4x8 g d a) s (.r d) fun u =>
       [w32 ((List.range 8).foldl (fun acc k => acc + (BitVec.ofInt 4 (clamp (-8) 7 (q u k))).toNat * 16 ^ k) 0)]) ∧
     (clear (.packN4x8 g d a) s = true → Computes (.packN4x8 g d a) s (.r d) fun u =>
       [w32 ((List.range 8).foldl (fun acc k => acc + (BitVec.ofInt 4 (clamp 0 15 (q u k))).toNat * 16 ^ k) 0)]) ∧
     (∀ t k : BitVec 3, clear (.unpack g d a t k) s = true → Computes (.unpack g d a t k) s (.r d) fun u =>
       [match t.toNat with
         | 0 => w32 (unpackF f16 (x u / 2 ^ (16 * k.toNat) % 2 ^ 16))
         | 1 => w32 (unpackF bf16 (x u / 2 ^ (16 * k.toNat) % 2 ^ 16))
         | 2 => w32 (unpackF e4m3 (x u / 2 ^ (8 * k.toNat) % 2 ^ 8))
         | 3 => w32 (unpackF e5m2 (x u / 2 ^ (8 * k.toNat) % 2 ^ 8))
         | 4 => ((rv s u a >>> (8 * k.toNat)).truncate 8).signExtend 32
         | 5 => ((rv s u a >>> (8 * k.toNat)).truncate 8).zeroExtend 32
         | 6 => ((rv s u a >>> (4 * k.toNat)).truncate 4).signExtend 32
         | _ => ((rv s u a >>> (4 * k.toNat)).truncate 4).zeroExtend 32])) ∧
  (∀ (s : State) (g : BitVec 4) (d a : BitVec 7) (k : BitVec 6),
     clear (.rng4 g d a k) s = true → ∃ t, exec (.rng4 g d a k) s = .next t ∧
       Wrote (.rng4 g d a k) s t (.quad d)
         (fun u =>
           let c := fun n => (readReg s u (a.toNat + n)).val
           let r := philoxRounds ((readG s (gidOf u) k.toNat).val.truncate 32) ((readG s (gidOf u) (k.toNat + 1)).val.truncate 32) 10
             (c 0, c 1, c 2, c 3)
           [r.1, r.2.1, r.2.2.1, r.2.2.2])
         (fun u => ((List.range 4).any fun n => (readReg s u (a.toNat + n)).poison) ||
           [k.toNat, k.toNat + 1].any fun j => (readG s (gidOf u) j).plo || (readG s (gidOf u) j).phi)
         none)

/-! ## Results that arrive later. -/

/-- The special functions (R101, R102): on the asynchronous path each lane puts its result in flight, to its register or to none
for z; in a group where no lane takes the word its labels are raised all the same (R55, R71); RCP, RSQ and SQRT take the
synchronous path where a lane's thread has an enable set.

A result arrives (R47, R53, R154): its words are in the registers, their scoreboard bits clear, the access gone, its count down;
special-function results also merge their flags and their label's share (R55, R102); a value of an acquire of scope core expires
the copies of its CU and core (R282); a value not yet there does not arrive. -/
def Obligations.LateResults : Prop :=
  (∀ (s : State) (g : BitVec 4) (d a : BitVec 7),
     let r := rndOf s.bundle.advs
     let issued := fun (i : Instr) (fn : Nat) => ∃ t, exec i s = .next t ∧
       t = goOn i s (issueLanes (idleFlags (wordAt i s) (entered i s)) (wordAt i s)
         (if d = 116#7 then none else some (.r d)) fun u =>
           let v := specialFn fn r (rv s u a).toNat
           { kind := .special, tid := u, result := [{ val := w32 v.1, poison := srcPoison i s u }]
             resFlags := if srcPoison i s u then 0 else v.2, stage := .returned }) ∧
       ∀ q ∈ s.gids, (∀ u ∈ lanes i s, gidOf u ≠ q) →
         (t.grp q).lflags = (s.grp q).lflags ||| outLabel i s q ∧
         (d.toNat < 116 → sget 0 (t.grp q).lreg d.toNat = sget 0 (s.grp q).lreg d.toNat ||| outLabel i s q)
     let either := fun (i : Instr) (fn : Nat) =>
       ((∀ u ∈ lanes i s, (s.thr u).fpctl = 0) → clear i s = true → issued i fn) ∧
       ((∃ u ∈ lanes i s, (s.thr u).fpctl ≠ 0) → FpWord i s (.r d) fun u => specialFn fn r (rv s u a).toNat)
     either (.rcp g d a) 0 ∧ either (.rsq g d a) 1 ∧ either (.sqrt g d a) 2 ∧
     (clear (.ex2 g d a) s = true → issued (.ex2 g d a) 3) ∧ (clear (.lg2 g d a) s = true → issued (.lg2 g d a) 4) ∧
     (clear (.sin g d a) s = true → issued (.sin g d a) 5) ∧ (clear (.cos g d a) s = true → issued (.cos g d a) 6)) ∧
  (∀ (s : State) (id : Nat) (a : Access),
     tfind s.accs id = some a → (tfind s.threads a.tid).isSome = true → (tfind s.groups (gidOf a.tid)).isSome = true →
     a.dest.Nodup → (∀ f ∈ a.dest, f < 112) → a.pred = none →
     let arrived := fun (t : State) =>
       (∀ e ∈ a.dest.zip a.result, sget {} (t.thr a.tid).regs e.1 = e.2 ∧ sbBit (t.thr a.tid) e.1 = false) ∧
       (∀ f, f ∉ a.dest → sget {} (t.thr a.tid).regs f = sget {} (s.thr a.tid).regs f ∧ sbBit (t.thr a.tid) f = sbBit (s.thr a.tid) f) ∧
       tfind t.accs id = none ∧ (∀ k, k ≠ id → tfind t.accs k = tfind s.accs k) ∧
       (∀ u, u ≠ a.tid → tfind t.threads u = tfind s.threads u) ∧
       (a.kind ≠ .load → t.cus = s.cus) ∧ t = { s with threads := t.threads, groups := t.groups, accs := t.accs, batches := t.batches, cus := t.cus }
     (a.kind = .special → ∃ t, exec (.specialFunctionResult id) s = .next t ∧ arrived t ∧
       (t.thr a.tid).fpflags = (s.thr a.tid).fpflags ||| a.resFlags ∧
       (t.grp (gidOf a.tid)).lflags = (s.grp (gidOf a.tid)).lflags ||| a.label) ∧
     (delivers a.kind = true → a.stage = .returned →
       (¬ (isAcq a.order = true ∧ a.order.scope = .core) → ∃ t, exec (.loadValueArrival id) s = .next t ∧ arrived t ∧
         (t.thr a.tid).wct = (if (s.thr a.tid).wct < a.wct then a.wct else (s.thr a.tid).wct) ∧ (t.thr a.tid).fpflags = (s.thr a.tid).fpflags ∧
         ∀ k, octOf (t.thr a.tid) k = octOf (s.thr a.tid) k - if classOf a.kind = some k then 1 else 0) ∧
       (isAcq a.order = true → a.order.scope = .core → ∃ t, exec (.loadValueArrival id) s = .next t ∧ tfind t.accs id = none ∧
         (t.cu (s.cidOf a.tid)).l1 = [] ∧ (t.core (s.cidOf a.tid / 8)).l2 = [] ∧ ∀ e ∈ a.dest.zip a.result, sget {} (t.thr a.tid).regs e.1 = e.2)) ∧
     (delivers a.kind = true → a.stage ≠ .returned → a.kind ≠ .tex → a.kind ≠ .walk → exec (.loadValueArrival id) s = .next s))

/-! ## Whole-group words. -/

/-- SHFL and GBCAST (R111, R113 to R115): each lane takes the word of the lane its count chooses, or the fill.

VOTE (R122), over the present lanes' predicates. -/
def Obligations.ShuffleAndVoteResults : Prop :=
  (∀ (s : State) (g : BitVec 4) (d a b : BitVec 7),
     ShuffleWord (.shflRot g d a b) s d a b (fun l n => some ((l + n % 64) % 64)) ∧
     ShuffleWord (.shflXor g d a b) s d a b (fun l n => some (l ^^^ (n % 64))) ∧
     ShuffleWord (.shflUp g d a b) s d a b (fun l n => if n ≤ l then some (l - n) else none) ∧
     ShuffleWord (.shflDown g d a b) s d a b (fun l n => if l + n < 64 then some (l + n) else none) ∧
     ShuffleWord (.gbcast g d a b) s d a b (fun _ n => if n < 64 then some n else none)) ∧
  (∀ (s : State) (g : BitVec 4) (p q : BitVec 3) (d : BitVec 7),
     let v := fun t => (readPred s t q.toNat).val
     let bad := fun t => (readPred s t q.toNat).poison
     let ts := s.bundle.tids
     let vote := fun (i : Instr) (dst : Opnd) (val : List Word) =>
       CollectiveWord i s dst (fun _ => val) bad (fun u => ts.any fun t => bad t && decide (t ≠ u)) none
     vote (.voteAny g p q) (.p p.toNat) [if ts.any v then 1 else 0] ∧
     vote (.voteAll g p q) (.p p.toNat) [if ts.all v then 1 else 0] ∧
     vote (.voteEq g p q) (.p p.toNat) [if ts.all (fun t => v t == v (ts.headD 0)) then 1 else 0] ∧
     vote (.voteBallot g d q) (.pair d)
       (halves (ts.foldl (fun (acc : DWord) t => if v t then acc ||| (1#64 <<< laneOf t) else acc) 0)))

/-- PERMSET loads the control word from six group registers, and PERM routes by it (R116, R118).

The network only permutes (R117): whatever the control word, no two of the 64 outputs come from one input, and a control word
with no switch set moves nothing. -/
def Obligations.PermutationResults : Prop :=
  (∀ (s : State) (g : BitVec 4) (d a : BitVec 7) (c : BitVec 3) (n k : BitVec 7),
     (let cw := fun u => sget ({} : CCell) (s.grp (gidOf u)).c c.toNat
      let src := fun u => permFrom (cw u).val (laneOf u)
      let x := fun u => if present s u (src u) then readReg s (peer u (src u)) a.toNat else {}
      CollectiveWord (.perm g d a c) s (.r d) (fun u => [(x u).val]) (fun u => (x u).poison || (cw u).poison)
        (fun u => (x u).poison && decide (src u ≠ laneOf u)) none) ∧
     (let i : Instr := .permset g n k
      let bad := (lanes i s).filter fun u => permPoison s (gidOf u) k.toNat
      clear i s = true →
        (bad = [] → ∃ t, exec i s = .next t ∧ t = { s with threads := t.threads, groups := t.groups, pipes := t.pipes } ∧
          (∀ q, q ∈ groupsOf (lanes i s) → sget {} (t.grp q).c n.toNat = { val := permWord s q k.toNat }) ∧
          (∀ q, q ∈ s.gids → sget 0 (t.grp q).lc n.toNat = newLabel i s q (sget 0 (s.grp q).lc n.toNat)) ∧
          (∀ q j, (q ∉ groupsOf (lanes i s) ∨ j ≠ n.toNat) → sget {} (t.grp q).c j = sget {} (s.grp q).c j) ∧
          (∀ q, t.grp q = { s.grp q with c := (t.grp q).c, lc := (t.grp q).lc, ctx := (t.grp q).ctx }) ∧
          (∀ u, (t.thr u).regs = (s.thr u).regs ∧ (t.thr u).preds = (s.thr u).preds) ∧
          t.bundle.pc = s.bundle.pc + 4) ∧
        (bad ≠ [] → exec i s = .next (trapFails s (wordAt i s) (bad.map fun u => { tid := u, cause := 0x12 }))))) ∧
  ((∀ c : BitVec 352, ((List.range 64).map (permFrom c)).Nodup ∧ ∀ l, l < 64 → permFrom c l < 64) ∧
     ∀ l, l < 64 → permFrom 0 l = l)

/-- RED and SCAN (R119 to R121), by the tree and the prefix as the spec writes them, position by position; a lane with a poisoned
source, of its result's or of its own, raises no flag (R72).

RED gives, bit for bit, the value that an inclusive SCAN of the same operation gives in lane 63, FP sums included; for the
integer operations that is the fold of all 64 words. -/
def Obligations.ReductionResults : Prop :=
  (∀ (s : State) (g : BitVec 4) (d a : BitVec 7) (o : BitVec 3) (excl : BitVec 1),
     let x := fun i => (posCell s a i).val.toNat
     let xs := (List.range 64).map x
     let anyBad := (List.range 64).any fun i => (posCell s a i).poison
     let reader := fun i => if present s (lowest s) i then peer (lowest s) i else lowest s
     let flags := fun (f : BitVec 5) (n : Nat → Nat) => if o = 1 then some (fun u : Nat =>
       if (List.range 64).any fun i => (posCell s a i).poison && (decide (i < n u) || decide (reader i = u)) then 0 else f) else none
     CollectiveWord (.red g d a o) s (.r d) (fun _ => [w32 (redAt o.toNat x 6 0)]) (fun _ => anyBad)
       (fun u => consumesOf s a u 64) (flags (redTree o.toNat 6 xs 0).2 fun _ => 64) ∧
     (let n := fun u => if excl = 1 then laneOf u else laneOf u + 1
      CollectiveWord (.scan g d a o excl) s (.r d)
        (fun u => [w32 (if excl = 1 then (if laneOf u = 0 then redId o.toNat else scanAt o.toNat x 6 (laneOf u - 1))
           else scanAt o.toNat x 6 (laneOf u))])
        (fun u => (List.range (n u)).any fun i => (posCell s a i).poison)
        (fun u => consumesOf s a u (n u)) (flags (scanTree o.toNat 6 1 xs 0).2 n))) ∧
  (∀ (o : Nat) (x : Nat → Nat), (∀ i, x i < 2 ^ 32) →
     redAt o x 6 0 = scanAt o x 6 63 ∧
     (o ≠ 1 → ∀ l, l < 64 → scanAt o x 6 l = (List.range l).foldl (fun acc i => (redOp o acc (x (i + 1))).1) (x 0)))

/-- XGSEND and XGRECV at issue (R123, R124): a send fills an empty slot for which no group waits; a receive is posted where none
is; else the group waits, parked.

The slot's own steps (R124): a waiting send finds the slot empty, oldest wait first; a posted receive takes a full slot, empties
it, and frees its registers. -/
def Obligations.GroupTransfers : Prop :=
  (∀ (s : State) (g : BitVec 4) (a d : BitVec 7) (k : BitVec 4),
     let wg := wgOf (s.bundle.tids.headD 0)
     let gid := gidOf (s.bundle.tids.headD 0)
     let x := slotOf s wg k.toNat
     (tfind s.wgs wg).isSome = true →
     (let i : Instr := .xgsend g a k
      let d := sendData (entered i s) (wordAt i s) a
      clear i s = true →
        (d.label = outLabel i s gid ∧ d.gid = gid ∧ ∀ u ∈ s.bundle.tids, sget {} d.data (laneOf u) = readReg s u a.toNat) ∧
        (x.full = none → x.senders = [] → ∃ t, exec i s = .next t ∧ (slotOf t wg k.toNat).full = some d ∧
          (∀ j, j ≠ k.toNat → slotOf t wg j = slotOf s wg j) ∧ t.bundle.pc = s.bundle.pc + 4 ∧
          (∀ u, (t.thr u).regs = (s.thr u).regs) ∧ t = { s with threads := t.threads, groups := t.groups, wgs := t.wgs, pipes := t.pipes }) ∧
        (x.full ≠ none ∨ x.senders ≠ [] → exec i s = .next (modSlot (parkBundle (entered i s) (wordAt i s)) wg k.toNat fun y =>
          { y with senders := y.senders ++ [d] }))) ∧
     (let i : Instr := .xgrecv g d k
      clear i s = true →
        (x.posted = none → ∃ t, exec i s = .next t ∧ (slotOf t wg k.toNat).posted = some
            { gid := gid, reg := d.toNat, tids := lanes i s, label := outLabel i s gid, whole := setsLabel i s gid, pc := s.bundle.pc } ∧
          (∀ u ∈ lanes i s, sbBit (t.thr u) d.toNat = true) ∧ (∀ u, (t.thr u).regs = (s.thr u).regs) ∧
          (∀ j, j ≠ k.toNat → slotOf t wg j = slotOf s wg j) ∧ t.bundle.pc = s.bundle.pc + 4 ∧
          t = { s with threads := t.threads, groups := t.groups, wgs := t.wgs, pipes := t.pipes }) ∧
        (x.posted ≠ none → exec i s = .next (parkBundle (entered i s) (wordAt i s))))) ∧
  (∀ (s : State) (wg k : Nat) (x : XSlot),
     tfind s.wgs wg = some (s.wg wg) → tfind (s.wg wg).mem.slots k = some x →
     (∀ d, x.full = none → d ∈ x.senders → (∀ e ∈ x.senders, e ≠ d → d.since < e.since ∨ (d.since = e.since ∧ d.gid < e.gid)) →
       ∃ t, exec (.xgsendSlotFill wg k) s = .next t ∧ (slotOf t wg k).full = some d ∧
         (∀ e ∈ (slotOf t wg k).senders, e ∈ x.senders ∧ e.gid ≠ d.gid) ∧
         ((s.threads.map (·.1)).Nodup → ∀ u ∈ liveOf s d.gid, (t.thr u).pc = (s.thr u).pc + 4)) ∧
     (∀ d p, x.full = some d → x.posted = some p → p.tids.Nodup → p.reg < 112 →
       (∀ u ∈ p.tids, (tfind s.threads u).isSome = true) →
       ∃ t, exec (.xgrecvDelivery wg k) s = .next t ∧ (slotOf t wg k).full = none ∧ (slotOf t wg k).posted = none ∧
         (∀ u ∈ p.tids, alive (s.thr u) = true →
           sget {} (t.thr u).regs p.reg = sget {} d.data (laneOf u) ∧ sbBit (t.thr u) p.reg = false) ∧
         (∀ u, u ∉ p.tids → tfind t.threads u = tfind s.threads u) ∧
         t = { s with threads := t.threads, groups := t.groups, wgs := t.wgs }))

/-! ## Memory words. -/

/-- LDG (R149 to R151, R153 to R158): where every lane's span is readable, aligned and its base sound, each lane has one load in
flight toward its registers; one that is served at issue carries what the CU's pin or live copy of its line holds under the thread's
own stores; the lanes that fail trap with causes 3, 4, 6 or 0x12; while an acquire is under way, or a count is full, the word stalls.

PFETCH (R167): it writes no register and counts nothing; one fetch is in flight for each line of the span that the lane may read, none
for the others; only a poisoned base traps; behind an acquire it stalls. -/
def Obligations.LoadAndPrefetchWords : Prop :=
  (∀ (s : State) (g : BitVec 4) (d b : BitVec 7) (z : BitVec 3) (o : BitVec 4),
     let i : Instr := .ldg g d b z o
     let n := sizeBytes z
     let ok := fun u => spanCause s (wordAt i s).vf (globalAddr s u b) n { rd := true } = none ∧ (globalAddr s u b).toNat % n = 0 ∧
       anyPoison (readOpnd s u (.pair b)) = false
     clear i s = true →
     (canIssue i s .load = true → (∀ u ∈ lanes i s, ok u) → ∃ t, exec i s = .next t ∧
       Issued i s t .load (some (sizedOpnd z d)) fun u a =>
         a.ea = globalAddr s u b ∧ a.width = n ∧ a.signed = decide (z = 5#3 ∨ z = 6#3) ∧ a.order = Machine.orderOf o ∧ Translated s i a ∧
         (a.cache, a.lease) = hintOf s.bundle.advs ∧ (a.stage = .issued ∨ a.stage = .returned) ∧
         ((s.wg (wgOf u)).mode = .plain → a.stage = .returned → ∃ v r, rangeOf s (wordAt i s).vf a.ea = some (a.range, r) ∧
           cachedLine s (s.cidOf u) (s.wg (wgOf u)).launch (s.grp (gidOf u)).dom a.space (rangeRec s (s.vfOf (wgOf u)) a.range) a.ia = some v ∧
           a.result = (loadFrom s u s.fresh a v).result ∧ a.resLabel = (loadFrom s u s.fresh a v).resLabel)) ∧
     (canIssue i s .load = true → ¬ (∀ u ∈ lanes i s, ok u) →
       exec i s = .next (trapFails s (wordAt i s) ((lanes i s).map (globalFails s (wordAt i s) b n { rd := true } [])).flatten)) ∧
     (canIssue i s .load = false → exec i s = .next (stallPipe (entered i s) s.turn))) ∧
  (∀ (s : State) (g : BitVec 4) (b : BitVec 7) (k : BitVec 3),
     let i : Instr := .pfetch g b k
     let lineAt := fun u j => d64 ((globalAddr s u b).toNat / 64 * 64 + 64 * j)
     let readable := fun ea => ∃ j r, rangeOf s (wordAt i s).vf ea = some (j, r) ∧ permR r = true
     clear i s = true →
     ((lanes i s).any (acquirePending s) = true → exec i s = .next (stallPipe (entered i s) s.turn)) ∧
     ((lanes i s).any (acquirePending s) = false →
     ((∀ u ∈ lanes i s, anyPoison (readOpnd s u (.pair b)) = false) → ∃ t, exec i s = .next t ∧
       (∀ n, n < s.fresh → tfind t.accs n = tfind s.accs n) ∧
       (∀ u ∈ lanes i s, ∀ j, j < 2 ^ k.toNat → readable (lineAt u j) → ∃ n a, s.fresh ≤ n ∧ n < t.fresh ∧ tfind t.accs n = some a ∧
         a.kind = .fetch ∧ a.tid = u ∧ a.ea = lineAt u j ∧ a.stage = .issued ∧ Translated s i a) ∧
       (∀ n a, s.fresh ≤ n → n < t.fresh → tfind t.accs n = some a → a.kind = .fetch ∧ a.dest = [] ∧ readable a.ea ∧
         ∃ u ∈ lanes i s, ∃ j, j < 2 ^ k.toNat ∧ a.tid = u ∧ a.ea = lineAt u j) ∧
       (∀ u, (t.thr u).regs = (s.thr u).regs ∧ ∀ c, octOf (t.thr u) c = octOf (s.thr u) c) ∧ t.bundle.pc = s.bundle.pc + 4 ∧
       t = { s with threads := t.threads, groups := t.groups, pipes := t.pipes, accs := t.accs, fresh := t.fresh }) ∧
     (¬ (∀ u ∈ lanes i s, anyPoison (readOpnd s u (.pair b)) = false) →
       exec i s = .next (trapFails s (wordAt i s) (poisonFails s (lanes i s) (.pair b))))))

/-- STG in a workgroup that is neither checkpointed nor paired (R149 to R161): each lane has one store in flight with the low bytes
of its register, or of that of the last lane that stores to the same bytes, into whose write it is merged (R152); a release is held
for the thread's earlier stores (R161); failing lanes trap. -/
def Obligations.StoreWordIssues : Prop := ∀ (s : State) (g : BitVec 4) (d b : BitVec 7) (z : BitVec 3) (o : BitVec 4),
  let i : Instr := .stg g d b z o
  let n := sizeBytes z
  let ok := fun u => spanCause s (wordAt i s).vf (globalAddr s u b) n { wr := true } = none ∧ (globalAddr s u b).toNat % n = 0 ∧
    anyPoison (readOpnd s u (.pair b)) = false ∧ anyPoison (readOpnd s u (sizedOpnd z d)) = false
  clear i s = true → plainLanes i s → freshNumbers s = true →
  (canIssue i s .store = true → (∀ u ∈ lanes i s, ok u) → ∃ t, exec i s = .next t ∧
    Issued i s t .store none fun u a =>
      a.ea = globalAddr s u b ∧ a.width = n ∧ a.order = Machine.orderOf o ∧ Translated s i a ∧
      (∃ v ∈ lanes i s, globalAddr s v b = globalAddr s u b ∧ a.data = wordsVal (readOpnd s v (sizedOpnd z d)) % 2 ^ (8 * n) ∧
        a.merged = decide (v ≠ u) ∧ ∀ x ∈ lanes i s, globalAddr s x b = globalAddr s u b → x = v ∨ keyBefore (laneOrder s x) (laneOrder s v) = true) ∧
      a.engine = (if pins (orderOf o) then some (holderOf s u o a.space a.ia) else none) ∧ a.stage = (if isRel (orderOf o) then .held else .issued) ∧
      a.after = (if isRel (orderOf o) then earlierStores s u else [])) ∧
  (canIssue i s .store = true → ¬ (∀ u ∈ lanes i s, ok u) →
    exec i s = .next (trapFails s (wordAt i s)
      ((lanes i s).map (globalFails s (wordAt i s) b n { wr := true } [sizedOpnd z d])).flatten)) ∧
  (canIssue i s .store = false → exec i s = .next (stallPipe (entered i s) s.turn))

/-- LDSP (R149, R150, R165, R166): performed at issue, so each lane's load carries the bytes of its workgroup's scratchpad, their
poison and the labels of their blocks.

STSP in a workgroup without a copy ring (R149, R150, R152, R165): one step; each byte stored is that of the highest lane that
stores there, every other byte of every scratchpad stands, and the labels of the blocks are raised by the result label. -/
def Obligations.ScratchpadWords : Prop :=
  (∀ (s : State) (g : BitVec 4) (d b : BitVec 7) (z : BitVec 3) (o : BitVec 4),
     let i : Instr := .ldsp g d b z o
     let n := sizeBytes z
     let sa := fun u => saOf s (wordAt i s) u b
     let ok := fun u => sa u + n ≤ spadSize s (wgOf u) ∧ sa u % n = 0 ∧ (readReg s u b.toNat).poison = false
     clear i s = true →
     (canIssue i s .spLoad = true → (∀ u ∈ lanes i s, ok u) → ∃ t, exec i s = .next t ∧
       Issued i s t .spLoad (some (sizedOpnd z d)) fun u a =>
         a.stage = .returned ∧ a.resLabel = spadLabel s (wgOf u) (sa u) n ∧
         a.result = loadCells (spadRead s (wgOf u) (sa u) n) n (decide (z = 5#3 ∨ z = 6#3))
           (fun k => spadBad s (wgOf u) (sa u + 4 * k) (min 4 (n - 4 * k)))) ∧
     (canIssue i s .spLoad = true → ¬ (∀ u ∈ lanes i s, ok u) →
       exec i s = .next (trapFails s (wordAt i s) ((lanes i s).map (spadFails s (wordAt i s) b n [])).flatten)) ∧
     (canIssue i s .spLoad = false → exec i s = .next (stallPipe (entered i s) s.turn))) ∧
  (∀ (s : State) (g : BitVec 4) (d b : BitVec 7) (z : BitVec 3) (o : BitVec 4),
     let i : Instr := .stsp g d b z o
     let n := sizeBytes z
     let sa := fun u => saOf s (wordAt i s) u b
     let ok := fun u => sa u + n ≤ spadSize s (wgOf u) ∧ sa u % n = 0 ∧ (readReg s u b.toNat).poison = false ∧
       anyPoison (readOpnd s u (sizedOpnd z d)) = false
     let hits := fun u w x => wgOf u = w ∧ sa u ≤ x ∧ x < sa u + n
     clear i s = true → canIssue i s .spStore = true → (isRel (orderOf o) && (lanes i s).any (globalPending s)) = false →
     ((∀ u ∈ lanes i s, ok u ∧ copyWords s (wgOf u) = none ∧ (tfind s.wgs (wgOf u)).isSome = true) → ∃ t, exec i s = .next t ∧
       (∀ u ∈ lanes i s, ∀ x, hits u (wgOf u) x → (∀ v ∈ lanes i s, hits v (wgOf u) x → v ≤ u) →
         sget 0 (t.wg (wgOf u)).mem.spad x = BitVec.ofNat 8 (wordsVal (readOpnd s u (sizedOpnd z d)) / 2 ^ (8 * (x - sa u)))) ∧
       (∀ w x, (∀ u ∈ lanes i s, ¬ hits u w x) → sget 0 (t.wg w).mem.spad x = sget 0 (s.wg w).mem.spad x) ∧
       (∀ w k, sget 0 (t.wg w).mem.blockLabel k = sget 0 (s.wg w).mem.blockLabel k ||| orAll (((lanes i s).filter fun u =>
         decide (wgOf u = w) && decide (sa u / 4096 ≤ k) && decide (k ≤ (sa u + n - 1) / 4096)).map fun u => outLabel i s (gidOf u))) ∧
       (∀ u, (t.thr u).regs = (s.thr u).regs ∧ (t.thr u).preds = (s.thr u).preds) ∧ t.bundle.pc = s.bundle.pc + 4 ∧
       t = { s with threads := t.threads, groups := t.groups, wgs := t.wgs, pipes := t.pipes }) ∧
     (¬ (∀ u ∈ lanes i s, ok u) →
       exec i s = .next (trapFails s (wordAt i s) ((lanes i s).map (spadFails s (wordAt i s) b n [sizedOpnd z d])).flatten)))

/-- The atomics (R168 to R173) in workgroups neither checkpointed nor paired, the float add outside deterministic launches: each
lane has one request in flight toward the engine of its scope, with operand, compare value and operation; ATOMR marks its register
pending; failing lanes trap; an ATOMR needs read permission besides write.

What an atomic leaves and computes (R168, R169), on words: add, min, max, and, or, xor, exch, cas. -/
def Obligations.AtomicWords : Prop :=
  (∀ (s : State) (g : BitVec 4) (x b : BitVec 7) (z : BitVec 3) (o : BitVec 4),
     let one := fun (i : Instr) (ret : Bool) (n op : Nat) (signed fp : Bool) =>
       let kind : AccKind := if ret then .atomr else .atom
       let opnd : Opnd := if n = 8 then .pair x else .r x
       let other := fun (c : BitVec 7) => if n = 8 then Opnd.pair c else .r c
       let need : Need := { rd := ret, wr := true }
       let words := match s.bundle.advs.xopnd with | some c => [opnd, other c] | none => [opnd]
       let ok := fun u => spanCause s (wordAt i s).vf (globalAddr s u b) n need = none ∧ (globalAddr s u b).toNat % n = 0 ∧
         (Opnd.pair b :: words).all fun w => !anyPoison (readOpnd s u w)
       clear i s = true → plainLanes i s → freshNumbers s = true → canIssue i s kind = true →
       (fp = true → (s.launchOf (wgOf (s.bundle.tids.headD 0))).det = false) →
       ((∀ u ∈ lanes i s, ok u) → ∃ t, exec i s = .next t ∧
         Issued i s t kind (if ret then some opnd else none) fun u a =>
           a.ea = globalAddr s u b ∧ a.width = n ∧ a.op = op ∧ a.signed = signed ∧ a.fp = fp ∧ a.data = wordsVal (readOpnd s u opnd) ∧
           (∀ c, s.bundle.advs.xopnd = some c → a.cmp = wordsVal (readOpnd s u (other c))) ∧ a.order = Machine.orderOf o ∧ Translated s i a ∧
           a.engine = some (holderOf s u o a.space a.ia) ∧ a.stage = (if isRel (orderOf o) then .held else .issued)) ∧
       (¬ (∀ u ∈ lanes i s, ok u) →
         exec i s = .next (trapFails s (wordAt i s) ((lanes i s).map (globalFails s (wordAt i s) b n need words)).flatten))
     one (.atomI32 g x b z o) false 4 z.toNat true false ∧ one (.atomN32 g x b z o) false 4 z.toNat false false ∧
     one (.atomI64 g x b z o) false 8 z.toNat true false ∧ one (.atomN64 g x b z o) false 8 z.toNat false false ∧
     one (.atomF32 g x b o) false 4 0 false true ∧
     one (.atomrI32 g x b z o) true 4 z.toNat true false ∧ one (.atomrN32 g x b z o) true 4 z.toNat false false ∧
     one (.atomrI64 g x b z o) true 8 z.toNat true false ∧ one (.atomrN64 g x b z o) true 8 z.toNat false false ∧
     one (.atomrF32 g x b o) true 4 0 false true) ∧
  (∀ (x y c : Word),
     let op := fun k signed => w32 (atomOp k 4 signed false x.toNat y.toNat c.toNat)
     op 0 true = x + y ∧ op 0 false = x + y ∧ op 1 true = (if y.slt x then y else x) ∧ op 1 false = (if y.ult x then y else x) ∧
     op 2 true = (if x.slt y then y else x) ∧ op 2 false = (if x.ult y then y else x) ∧ op 3 false = x &&& y ∧ op 4 false = x ||| y ∧
     op 5 false = x ^^^ y ∧ op 6 false = y ∧ op 7 false = (if x = c then y else x))

/-! ## Stage rings. -/

/-- QPUT and QPUT.nb, local (R176, R179): queued in lane order behind what is queued; QPUT stalls where the queue has no room; the
non-blocking form queues only where nothing is queued and enough slots are empty, and its predicate says so.

QPUT to a ring of another CU, and its non-blocking form, in workgroups neither checkpointed nor paired (R179, R181): sent where
the credit covers the lanes; else QPUT stalls and the non-blocking form sends nothing. -/
def Obligations.RingPuts : Prop :=
  (∀ (s : State) (g : BitVec 4) (v : BitVec 7) (q : BitVec 4) (l : BitVec 2) (p : BitVec 3)
       (c : BitVec 3),
     let data := payloadOpnd l v
     let m := payloadWords l
     let k := q.toNat
     let bad := fun (i : Instr) => (lanes i s).filter fun u => anyPoison (readOpnd s u data)
     let trap := fun (i : Instr) => exec i s = .next (trapFails s (wordAt i s) ((bad i).map fun u => { tid := u, cause := 0x12 }))
     let ready := fun (i : Instr) => clear i s = true ∧ canIssue i s .ringPut = true ∧ ∀ w ∈ wgsOf (lanes i s), ringSteady s w k
     (let i : Instr := .qput g v q l
      let room := ∀ w ∈ wgsOf (lanes i s), (s.ring w k).puts.length + (lanesIn i s w).length ≤ 64
      ready i → (bad i = [] → room → ∃ t, exec i s = .next t ∧ QueuedPuts i s t data m k (wgsOf (lanes i s)) ∧ t.ctxs = s.ctxs ∧
          ∀ u, (t.thr u).preds = (s.thr u).preds) ∧
        (bad i = [] → ¬ room → exec i s = .next (stallPipe (entered i s) s.turn)) ∧ (bad i ≠ [] → trap i)) ∧
     (let i : Instr := .qputNb g v p q l 0 c
      let fits := fun w => (s.ring w k).puts = [] ∧ (lanesIn i s w).length ≤ (s.ring w k).free
      ready i → (bad i = [] → ∃ t, exec i s = .next t ∧
          (∀ ws, (∀ w, w ∈ ws ↔ w ∈ wgsOf (lanes i s) ∧ fits w) → QueuedPuts i s t data m k ws) ∧
          (∀ u ∈ lanes i s, (fits (wgOf u) → sget {} (t.thr u).preds p.toNat = { val := true }) ∧
            (¬ fits (wgOf u) → sget {} (t.thr u).preds p.toNat = { val := false })) ∧
          ((∀ u ∈ lanes i s, fits (wgOf u) ∨ (s.launchOf (wgOf u)).det = false) → t.ctxs = s.ctxs)) ∧
        (bad i ≠ [] → trap i))) ∧
  (∀ (s : State) (g : BitVec 4) (v : BitVec 7) (q : BitVec 4) (l : BitVec 2) (p : BitVec 3)
       (c : BitVec 3) (cid : Nat),
     let data := payloadOpnd l v
     let m := payloadWords l
     let k := q.toNat
     let dst := cid / 8 * 8 + c.toNat
     let sound := fun (i : Instr) => ∀ u ∈ lanes i s, anyPoison (readOpnd s u data) = false
     let ready := fun (i : Instr) => clear i s = true ∧ canIssue i s .ringPut = true ∧ plainLanes i s ∧ freshNumbers s = true ∧
       ∀ u ∈ lanes i s, s.cidOf u = cid
     (let i : Instr := .qputRemote g v q l c
      let ok := covers s cid dst k (lanes i s).length
      ready i → sound i → (ok → ∃ t, exec i s = .next t ∧ SentPuts i s t data m k cid dst ∧ t.ctxs = s.ctxs) ∧
        (¬ ok → exec i s = .next (stallPipe (entered i s) s.turn))) ∧
     (let i : Instr := .qputNb g v p q l 1 c
      let ok := covers s cid dst k (lanes i s).length
      ready i → sound i → (ok → ∃ t, exec i s = .next t ∧ SentPuts i s t data m k cid dst ∧ t.ctxs = s.ctxs ∧
          ∀ u ∈ lanes i s, sget {} (t.thr u).preds p.toNat = { val := true }) ∧
        (¬ ok → ∃ t, exec i s = .next t ∧ RingWord i s t ∧ t.msgs = s.msgs ∧ t.cus = s.cus ∧ t.accs = s.accs ∧
          (∀ u ∈ lanes i s, sget {} (t.thr u).preds p.toNat = { val := false }) ∧ ∀ u, (t.thr u).octStore = (s.thr u).octStore)))

/-- QGET, QPEEK and their non-blocking forms (R177 to R179): one claim per workgroup, behind those posted; the non-blocking forms
claim only where no claim is pending and enough slots are filled, and their predicate says so. -/
def Obligations.RingGets : Prop := ∀ (s : State) (g : BitVec 4) (d : BitVec 7) (p : BitVec 3) (q : BitVec 4) (l : BitVec 2),
  let o := payloadOpnd l d
  let m := payloadWords l
  let k := q.toNat
  let ready := fun (i : Instr) => clear i s = true ∧ canIssue i s .ringGet = true ∧ freshNumbers s = true ∧
    ∀ w ∈ wgsOf (lanes i s), ringSteady s w k
  let get := fun (i : Instr) (peek : Bool) => ready i → ∃ t, exec i s = .next t ∧
    PostedClaims i s t o m k peek (wgsOf (lanes i s)) ∧ t.ctxs = s.ctxs ∧ ∀ u, (t.thr u).preds = (s.thr u).preds
  let getNb := fun (i : Instr) (peek : Bool) =>
    let fits := fun w => (s.ring w k).claims = [] ∧ (lanesIn i s w).length ≤ (s.ring w k).filled
    ready i → ∃ t, exec i s = .next t ∧ (∀ ws, (∀ w, w ∈ ws ↔ w ∈ wgsOf (lanes i s) ∧ fits w) → PostedClaims i s t o m k peek ws) ∧
      (∀ u ∈ lanes i s, (fits (wgOf u) → sget {} (t.thr u).preds p.toNat = { val := true }) ∧
        (¬ fits (wgOf u) → sget {} (t.thr u).preds p.toNat = { val := false })) ∧
      ((∀ u ∈ lanes i s, fits (wgOf u) ∨ (s.launchOf (wgOf u)).det = false) → t.ctxs = s.ctxs)
  get (.qget g d q l) false ∧ get (.qpeek g d q l) true ∧ getNb (.qgetNb g d p q l) false ∧ getNb (.qpeekNb g d p q l) true

/-- The steps of a ring (R176 to R178, R181, R295): an empty slot takes the put that is next, of a lane or of a copy command's row, and
its store completes; a row longer than a slot is discarded (R200); a filled slot goes to the lowest lane of the oldest claim; a peek
reads the slots in order and moves nothing; an arrival joins the inbound queue of the workgroup it names, or is discarded; a change of
an inbound ring's count is reported to every sender; a report gives the credit E minus what was sent to that generation and not
served. Where there is nothing to serve, or it must wait, nothing happens. -/
def Obligations.RingSteps : Prop := ∀ (s : State) (w q : Nat) (r : Ring),
  let reported := fun (t : State) (free : Nat) (served : Nat → Nat) =>
    if r.desc.inbound then ∀ d ∈ r.senders, ∃ n, tfind t.msgs n = some (.report (s.wg w).cid q d free (served d) (s.wg w).gen false)
    else t.msgs = s.msgs
  let counted := fun (e : PutEntry) (d : Nat) => sget 0 r.served d + if e.src = some d then 1 else 0
  (s.ring w q = r → (tfind s.wgs w).isSome = true → (tfind (s.wg w).mem.rings q).isSome = true →
    ((nextPut r = none ∨ ∃ e ps ins, nextPut r = some (e, ps, ins) ∧ (putReady s e = false ∨ (tooLong r e = false ∧ r.free = 0))) →
      exec (.ringPutSlotHandout w q) s = .next s) ∧
    (∀ e ps ins, nextPut r = some (e, ps, ins) → putReady s e = true →
      let s0 := putPins s e
      let off := r.desc.base + r.tail * 2 ^ r.desc.log
      (tooLong r e = true → ∃ t, exec (.ringPutSlotHandout w q) s = .next t ∧ PutDone s t e true ∧
        t.ring w q = { r with puts := ps, inbound := ins, served := (t.ring w q).served } ∧ (∀ d, sget 0 (t.ring w q).served d = counted e d) ∧
        (t.wg w).mem.spad = (s.wg w).mem.spad ∧ t = { s with threads := t.threads, wgs := t.wgs, accs := t.accs, cmds := t.cmds }) ∧
      (tooLong r e = false → 0 < r.free → ∃ t, exec (.ringPutSlotHandout w q) s = .next t ∧ PutDone s t e false ∧
        t.ring w q = { r with
          puts := ps, inbound := ins, tail := (r.tail + 1) % r.desc.n, free := r.free - 1, filled := r.filled + 1
          phase := sset false r.phase r.tail (!sget false r.phase r.tail), label := sset 0 r.label r.tail e.label, served := (t.ring w q).served } ∧
        (∀ d, sget 0 (t.ring w q).served d = counted e d) ∧ reported t (r.free - 1) (counted e) ∧
        (copyWords s w = none → ∀ x, sget 0 (t.wg w).mem.spad x =
          if off ≤ x ∧ x < off + e.data.length then (e.data[x - off]?).getD 0 else sget 0 (s.wg w).mem.spad x) ∧
        (∀ k ∈ e.bad, sget false (t.wg w).mem.bad ((off + 4 * k) / 8) = true) ∧
        t = { s0 with threads := t.threads, wgs := t.wgs, accs := t.accs, cmds := t.cmds, msgs := t.msgs, fresh := t.fresh })) ∧
    ((r.claims = [] ∨ ∃ c rest, r.claims = c :: rest ∧ c.accs ≠ [] ∧ (c.peek = true ∨ r.filled = 0)) →
      exec (.ringClaimService w q) s = .next s) ∧
    (∀ c rest n more a, r.claims = c :: rest → c.accs = n :: more → c.peek = false → 0 < r.filled → tfind s.accs n = some a →
      ∃ t, exec (.ringClaimService w q) s = .next t ∧
        t.ring w q = { r with
          head := (r.head + 1) % r.desc.n, filled := r.filled - 1, free := r.free + 1
          claims := if more = [] then rest else { c with accs := more } :: rest } ∧
        tfind t.accs n = some { a with
          stage := .returned, resLabel := sget 0 r.label r.head
          result := cellsOfBytes (spadRead s w (r.desc.base + r.head * 2 ^ r.desc.log) (4 * c.words))
            (fun k => spadBad s w (r.desc.base + r.head * 2 ^ r.desc.log + 4 * k) 4) c.words 0 } ∧
        (∀ k, k ≠ n → tfind t.accs k = tfind s.accs k) ∧ reported t (r.free + 1) (fun d => sget 0 r.served d) ∧
        t = { s with wgs := t.wgs, accs := t.accs, msgs := t.msgs, fresh := t.fresh }) ∧
    ((r.claims = [] ∨ ∃ c rest, r.claims = c :: rest ∧ (c.peek = false ∨ r.filled < min c.total r.desc.n)) →
      exec (.qpeekClaimService w q) s = .next s) ∧
    (∀ c rest, r.claims = c :: rest → c.peek = true → c.accs.Nodup → min c.total r.desc.n ≤ r.filled →
      ∃ t, exec (.qpeekClaimService w q) s = .next t ∧ t.ring w q = { r with claims := rest } ∧
        (∀ n a j, n ∈ c.accs → tfind s.accs n = some a → a.aux[1]? = some j → j < r.desc.n → tfind t.accs n = some { a with
          stage := .returned, resLabel := sget 0 r.label ((r.head + j) % r.desc.n)
          result := cellsOfBytes (spadRead s w (r.desc.base + (r.head + j) % r.desc.n * 2 ^ r.desc.log) (4 * c.words))
            (fun k => spadBad s w (r.desc.base + (r.head + j) % r.desc.n * 2 ^ r.desc.log + 4 * k) 4) c.words 0 }) ∧
        (∀ n a j, n ∈ c.accs → tfind s.accs n = some a → a.aux[1]? = some j → r.desc.n ≤ j → tfind t.accs n = some { a with
          stage := .returned, resLabel := 0, result := List.replicate c.words {} }) ∧
        (∀ n, n ∉ c.accs → tfind t.accs n = tfind s.accs n) ∧ t = { s with wgs := t.wgs, accs := t.accs })) ∧
  (∀ n src dst gen launch e absent, tfind s.msgs n = some (.put src dst q gen launch e absent) →
    let s0 := putPins s e
    ((putEarlier s n src dst q = true ∨ putReady s e = false) → exec (.remotePutArrival n) s = .next s) ∧
    (putEarlier s n src dst q = false → putReady s e = true →
      (arrivalWg s dst q gen launch absent = none → ∃ t, exec (.remotePutArrival n) s = .next t ∧ t.msgs = tdel s.msgs n ∧ PutDone s t e true ∧
        t.wgs = s.wgs ∧ ((s.launch launch).det = false →
          t = { s with threads := t.threads, accs := t.accs, cmds := t.cmds, msgs := t.msgs })) ∧
      (arrivalWg s dst q gen launch absent = some w → s.ring w q = r → (tfind s.wgs w).isSome = true →
        (tfind (s.wg w).mem.rings q).isSome = true →
        (64 ≤ r.inbound.length → exec (.remotePutArrival n) s = .next s) ∧
        (r.inbound.length < 64 → ∃ t, exec (.remotePutArrival n) s = .next t ∧
          (t.ring w q).inbound = r.inbound ++ [{ e with at_ := s.now.toNat }] ∧ src ∈ (t.ring w q).senders ∧
          t.ring w q = { r with inbound := (t.ring w q).inbound, senders := (t.ring w q).senders } ∧
          t = { s0 with wgs := t.wgs, msgs := tdel s.msgs n })))) ∧
  (∀ n src dst free served gen absent, tfind s.msgs n = some (.report src q dst free served gen absent) →
    ∃ t, exec (.creditReportArrival n) s = .next t ∧ t = { s with cus := t.cus, msgs := tdel s.msgs n } ∧
      (let old := creditOf s dst src q
       creditOf t dst src q = { old with
         credit := (free : Int) - (((sget 0 old.sent gen.toNat : Nat) : Int) - (served : Int)), gen := gen, absent := absent, reported := true }) ∧
      ∀ c, c ≠ dst → tfind t.cus c = tfind s.cus c)

/-! ## Fences and waits. -/

/-- FENCE, FENCE.sc, MXFENCE (R183 to R185, R208): the bundle is held at the word for its lanes; with no lane it goes on; FENCE and
FENCE.sc stall behind an acquire of their lanes (R162).

A fence completes (R183 to R185, R208): once every lane's accesses are done, the narrower pins performed and device time past
its write-completion times, the bundle goes on; FENCE.sc expires the L1, in its place in the total order (R287), MXFENCE sets the
operand-ready bit; while an access is not done nothing happens; a full deferred record traps instead (R157). -/
def Obligations.Fences : Prop :=
  (∀ (s : State) (g o : BitVec 4),
     let fence := fun (i : Instr) (order : Order) (sc mx : Bool) => clear i s = true →
       (lanes i s = [] → exec i s = .next (goOn i s (entered i s))) ∧
       (mx = false → (lanes i s).any (acquirePending s) = true → exec i s = .next (stallPipe (entered i s) s.turn)) ∧
       (lanes i s ≠ [] → (mx = true ∨ (lanes i s).any (acquirePending s) = false) → ∃ t, exec i s = .next t ∧
         t.bundle = { s.bundle with fence := some { order := order, sc := sc, tids := lanes i s, mx := mx } } ∧
         (∀ p, p ≠ s.turn → tfind t.pipes p = tfind s.pipes p) ∧ t = { s with groups := t.groups, pipes := t.pipes } ∧
         ∀ q, t.grp q = { s.grp q with ctx := (t.grp q).ctx })
     fence (.fence g o) (orderOf o) false false ∧ fence (.fenceSc g o) (orderOf o) true false ∧
     fence .mxfence { kind := .acqRel, scope := .core } false true) ∧
  (∀ (s : State) (p : Nat) (b : Bundle) (f : FenceHold),
     tfind s.pipes p = some b → b.fence = some f → f.tids ≠ [] →
     ((∀ u ∈ f.tids, orderMet s u f.order ∧ noPins s u f.order) → (f.mx = true ∨ ∀ u ∈ f.tids, (s.thr u).deferred = none) →
       (f.sc = true → scInOrder s p = false → exec (.fenceCompletion p) s = .next s) ∧ ((f.sc = true → scInOrder s p = true) →
       ∃ t b', exec (.fenceCompletion p) s = .next t ∧ tfind t.pipes p = some b' ∧ b'.pc = b.pc + 4 ∧ b'.pos = b.pos + 1 ∧ b'.fence = none ∧
         b'.tids = b.tids ∧ b'.advs = {} ∧ (f.sc = true → (t.cu (s.cidOf (f.tids.headD 0))).l1 = []) ∧
         (f.mx = true → ∀ u ∈ f.tids, (tfind s.groups (gidOf u)).isSome = true → (t.grp (gidOf u)).mxReady = true) ∧
         t.lastSc = (if f.sc then some (s.now, p) else s.lastSc) ∧
         (∀ u, (t.thr u).regs = (s.thr u).regs) ∧ t.mem = s.mem ∧ t.accs = s.accs)) ∧
     ((∃ u ∈ f.tids, ¬ orderMet s u { f.order with scope := .wg }) → exec (.fenceCompletion p) s = .next s) ∧
     ((∀ u ∈ f.tids, orderMet s u f.order ∧ noPins s u f.order) → f.mx = false → (∃ u ∈ f.tids, (s.thr u).deferred ≠ none) →
       exec (.fenceCompletion p) s = .next (deferTrap s b.tids false b.pc b.faultPc (b.pos - b.advs.count))))

/-- WAIT (R53, R70, R157, R187): where every lane's counts are met it is done at once, the admitted tile flags merged, or the bundle
takes the deferred trap; else its lanes are held at the sentence boundary. That a tile count of 31 admits no flags is the model's
reading (log entry 74).

BAR, LBAR, CWAIT and DTIME hold their lanes at the sentence boundary (R145, R188, R190, R191): CWAIT on a readable, aligned
counter with sound operands; BAR and LBAR in threads that hold no clause, else cause 0x11; DTIME also gives device time. -/
def Obligations.WaitWords : Prop :=
  (∀ (s : State) (g : BitVec 4) (a b c d : BitVec 5),
     let i : Instr := .wait g a b c d
     let within := fun (n : Nat) (k : BitVec 5) => k = 31 ∨ n ≤ k.toNat
     let met := fun u => within (s.thr u).octLoad a ∧ within (s.thr u).octStore b ∧ within (s.thr u).octCopy c ∧ within (s.thr u).octTile d
     clear i s = true →
     ((∀ u ∈ lanes i s, met u) → (∀ u ∈ lanes i s, (s.thr u).deferred = none ∧ (d ≠ 31 → ∀ e ∈ (s.thr u).tiles, e.cause = none)) →
       ∃ t, exec i s = .next t ∧ t.bundle.pc = s.bundle.pc + 4 ∧ (∀ u, (t.thr u).holds = (s.thr u).holds ∧ (t.thr u).regs = (s.thr u).regs) ∧
         (∀ u ∈ lanes i s, (t.thr u).fpflags = if d = 31 then (s.thr u).fpflags else (s.thr u).tiles.foldl (fun f e => f ||| e.flags) (s.thr u).fpflags) ∧
         t = { s with threads := t.threads, groups := t.groups, pipes := t.pipes }) ∧
     ((∀ u ∈ lanes i s, met u) → (∃ u ∈ lanes i s, (s.thr u).deferred ≠ none ∨ (d ≠ 31 ∧ ∃ e ∈ (s.thr u).tiles, e.cause ≠ none)) → ∃ e : State, (∀ u, (e.thr u).deferred = (s.thr u).deferred) ∧
       exec i s = .next (deferTrap e s.bundle.tids (decide (d ≠ 31)) s.bundle.pc s.bundle.faultPc (s.bundle.pos - s.bundle.advs.count))) ∧
     (¬ (∀ u ∈ lanes i s, met u) → ∃ t, exec i s = .next t ∧ HeldAt i s t fun _ =>
       .wait a.toNat b.toNat c.toNat d.toNat s.bundle.pc s.bundle.faultPc (s.bundle.pos - s.bundle.advs.count) s.bundle.tids
         (s.thr (s.bundle.tids.headD 0)).ride)) ∧
  (∀ (s : State) (g : BitVec 4) (b : BitVec 4) (k : BitVec 3) (x y : BitVec 7) (o : BitVec 4),
     let bar := fun (i : Instr) (h : Hold) => clear i s = true →
       (s.bundle.tids.any (holdsClause s) = false → ∃ t, exec i s = .next t ∧ HeldAt i s t fun _ => h) ∧
       (s.bundle.tids.any (holdsClause s) = true → exec i s = .next (trapFails s (wordAt i s)
         ((s.bundle.tids.filter (holdsClause s)).map fun u => { tid := u, cause := 0x11 })))
     bar (.bar b) (.bar b.toNat) ∧ bar (.lbar k) (.lbar k.toNat) ∧
     (let i : Instr := .cwait g x y o
      let ok := fun u => spanCause s (wordAt i s).vf (globalAddr s u y) 8 { rd := true } = none ∧ (globalAddr s u y).toNat % 8 = 0 ∧
        anyPoison (readOpnd s u (.pair y)) = false ∧ anyPoison (readOpnd s u (.pair x)) = false
      clear i s = true → plainLanes i s → (lanes i s).any (acquirePending s) = false →
        ((∀ u ∈ lanes i s, ok u) → ∃ t, exec i s = .next t ∧ HeldAt i s t fun u =>
          .cwait (globalAddr s u y) (pv s u x) (orderOf o) (outLabel i s (gidOf u)) none s.bundle.pc) ∧
        (¬ (∀ u ∈ lanes i s, ok u) → exec i s = .next (trapFails s (wordAt i s)
          ((lanes i s).map (globalFails s (wordAt i s) y 8 { rd := true } [.pair x])).flatten))) ∧
     (let i : Instr := .dtime g x y
      clear i s = true → (∀ u ∈ lanes i s, anyPoison (readOpnd s u (.pair y)) = false) →
        ∃ t, exec i s = .next t ∧ t.bundle.pc = s.bundle.pc + 4 ∧
          (∀ u ∈ lanes i s, (∀ e ∈ (fieldsOf (.pair x)).zip (halves s.now), e.1 < 116 → sget {} (t.thr u).regs e.1 = { val := e.2 }) ∧
            (t.thr u).holds = (s.thr u).holds ++ if y = 116#7 then [] else [.dtime (pv s u y)]) ∧
          (∀ u f, u ∉ lanes i s ∨ f ∉ fieldsOf (.pair x) → sget {} (t.thr u).regs f = sget {} (s.thr u).regs f) ∧
          t = { s with threads := t.threads, groups := t.groups, pipes := t.pipes, ctxs := t.ctxs } ∧
          ((s.launchOf (wgOf (s.bundle.tids.headD 0))).det = false → t.ctxs = s.ctxs)))

/-- The waits end (R28, R145, R157, R187, R188, R190, R191): WAIT when its counts are met in every thread held at it, or with the
deferred trap; CWAIT when the counter it reads, in a pin of its CU or at the home, has reached the target, raising the context label;
BAR and LBAR when every live thread has arrived with its accesses done, in each of them; DTIME at its time; a PERIOD's awaits when no register awaits a result. -/
def Obligations.BoundaryWaitsEnd : Prop := ∀ (s : State),
  (∀ u a b c d pc rpc pos l k, let h : Hold := .wait a b c d pc rpc pos l k
    u ∈ l → l.Nodup → (s.thr u).holds.head? = some h →
    (∀ v ∈ l, (tfind s.threads v).isSome = true ∧ (s.thr v).picker = .held ∧ h ∈ (s.thr v).holds) →
    ((∃ v ∈ l, waitMet (s.thr v) a b c d = false) → exec (.waitSatisfied u) s = .next s) ∧
    ((∀ v ∈ l, waitMet (s.thr v) a b c d = true) →
      ((∀ v ∈ l, (s.thr v).deferred = none ∧ (d ≠ 31 → ∀ e ∈ (s.thr v).tiles, e.cause = none)) →
        ∃ t, exec (.waitSatisfied u) s = .next t ∧ (∀ v ∈ l, freed s t v h) ∧ (∀ v, v ∉ l → tfind t.threads v = tfind s.threads v) ∧
          t = { s with threads := t.threads, groups := t.groups }) ∧
      ((∃ v ∈ l, (s.thr v).deferred ≠ none ∨ (d ≠ 31 ∧ ∃ e ∈ (s.thr v).tiles, e.cause ≠ none)) →
        ∃ (e : State) (ts : List Nat), (∀ v, (e.thr v).deferred = (s.thr v).deferred) ∧ (∀ v ∈ l, v ∈ ts) ∧ (∀ v ∈ ts, v ∈ l) ∧
          exec (.waitSatisfied u) s = .next (deferTrap e ts (decide (d ≠ 31)) pc rpc pos)))) ∧
  (∀ u ea tg o l n r pc, let h : Hold := .cwait ea tg o l none pc
    let ia := iaOf r ea
    let sp := spaceOf r
    let line := lineOf sp ia
    let reads := fun (bs : List (Byte × Bool)) => forward s u s.fresh sp ia bs
    let value := fun bs => leNat ((reads bs).1.map (·.1))
    let label := fun bs (m : Label) => (s.grp (gidOf u)).ctx ||| (l ||| (m ||| storedLabel s sp r ia ||| (reads bs).2))
    (tfind s.threads u).isSome = true → (tfind s.groups (gidOf u)).isSome = true → (s.thr u).picker = .held → (s.thr u).holds.head? = some h →
    rangeOf s (s.vfOf (wgOf u)) ea = some (n, r) →
    (∀ h' (p : Pin), ownPin s (s.cidOf u) line = some (h', p) →
      let bs := LineView.part { bytes := p.bytes, bad := p.bad, label := p.label } (ia % 64) 8
      (tg.toNat ≤ value bs → ∃ t, exec (.cwaitSatisfied u) s = .next t ∧ freed s t u h ∧ (t.grp (gidOf u)).ctx = label bs p.label ∧
        t = { s with threads := t.threads, groups := t.groups, cus := t.cus, cores := t.cores }) ∧
      (value bs < tg.toNat → exec (.cwaitSatisfied u) s = .next s)) ∧
    (pinHolders s line = [] → (o.scope = .wg → liveCopy s (s.cidOf u) (s.grp (gidOf u)).dom line = none) → ia % 8 = 0 →
      (s.launchOf (wgOf u)).replay = false → (s.launchOf (wgOf u)).requeued = false → peerLine s line = false → soundMemory s →
      memSide s (s.vfOf (wgOf u)) (s.grp (gidOf u)).dom sp r ia false 0 = .ok s →
      let bs := (List.range 8).map fun j => (sget 0#8 (s.store sp) (ia + j), false)
      (tg.toNat ≤ value bs → ∃ t, exec (.cwaitSatisfied u) s = .next t ∧ freed s t u h ∧ (t.grp (gidOf u)).ctx = label bs 0 ∧
        t = { s with threads := t.threads, groups := t.groups, pages := t.pages, cus := t.cus, cores := t.cores }) ∧
      (value bs < tg.toNat → ∃ t, exec (.cwaitSatisfied u) s = .next t ∧ t = { s with pages := t.pages, cus := t.cus, cores := t.cores }))) ∧
  (∀ w b, let h : Hold := .bar b
    liveWg s w ≠ [] → (∀ u ∈ liveWg s w, (tfind s.threads u).isSome = true ∧ (s.thr u).picker = .held ∧ (s.thr u).holds = [h] ∧
      orderMet s u { kind := .acqRel, scope := .wg }) → (tfind s.wgs w).isSome = true → (liveWg s w).Nodup →
    ∃ t, exec (.barrierCompletion w b) s = .next t ∧ (∀ u ∈ liveWg s w, (t.thr u).picker = .ready ∧ (t.thr u).holds = []) ∧
      (((tfind (t.wg w).mem.bars b).getD {}).gen = ((tfind (s.wg w).mem.bars b).getD {}).gen + 1) ∧
      t = { s with threads := t.threads, wgs := t.wgs }) ∧
  (∀ w b, liveWg s w ≠ [] → (∃ u ∈ liveWg s w, (s.thr u).picker = .running ∧ (s.thr u).frame.holds = []) →
    exec (.barrierCompletion w b) s = .next s) ∧
  (∀ l k n, let h : Hold := .lbar k
    let us := ((instanceWgs s l k n).map (liveWg s)).flatten
    let o : Order := { kind := .acqRel, scope := scopeOf ((((s.launch l).levels[k]?).map (·.scope)).getD 0) }
    us ≠ [] → us.Nodup → (∀ w ∈ instanceWgs s l k n, (s.wg w).log = []) →
    (∀ u ∈ us, (tfind s.threads u).isSome = true ∧ (s.thr u).picker = .held ∧ (s.thr u).holds = [h] ∧ orderMet s u o ∧ noPins s u o) →
    ∃ t, exec (.levelBarrierCompletion l k n) s = .next t ∧ (∀ u ∈ us, (t.thr u).picker = .ready ∧ (t.thr u).holds = []) ∧
      t = { s with threads := t.threads, cus := t.cus, cores := t.cores }) ∧
  (∀ u d, let h : Hold := .dtime d
    (tfind s.threads u).isSome = true → (s.thr u).picker = .held → (s.thr u).holds = [h] →
    (d ≤ s.now → ∃ t, exec (.dtimeWaitEnd u) s = .next t ∧ freed s t u h ∧ t = { s with threads := t.threads }) ∧
    (s.now < d → exec (.dtimeWaitEnd u) s = .next s)) ∧
  (∀ u, (tfind s.threads u).isSome = true → (s.thr u).picker = .held →
    ((∀ h ∈ (s.thr u).holds, ∃ f, h = .await f ∧ sbBit (s.thr u) f = false) → ∃ t, exec (.threadReady u) s = .next t ∧
      (t.thr u).picker = .ready ∧ (t.thr u).holds = [] ∧ (t.thr u).pc = (s.thr u).pc ∧ t = { s with threads := t.threads }) ∧
    ((∃ f, Hold.await f ∈ (s.thr u).holds ∧ sbBit (s.thr u) f = true) → exec (.threadReady u) s = .next s))

/-! ## Control flow, special registers, labels. -/

/-- BRA, CALL, BRX, CALLX, RET (R31, R58, R127 to R132): where each lane goes and what its stack becomes, or the cause it traps
with. -/
def Obligations.ControlTransfers : Prop := ∀ (s : State) (g : BitVec 4) (o : BitVec 21) (n a b : BitVec 7),
  let pc := s.bundle.pc
  let vf := s.vfOf (wgOf (s.bundle.tids.headD 0))
  let cid := s.turn / 4
  let near := pc + o.signExtend 64 * 4
  let full := fun u => (s.grp (gidOf u)).retdepth ≤ (s.thr u).rstack.length
  (let i : Instr := .bra g o
   clear i s = true →
     ((∀ u ∈ lanes i s, goodTarget s vf cid near) → ∃ t, exec i s = .next t ∧ Jumped i s t (fun _ => near) (fun u => (s.thr u).rstack) fun _ => 0) ∧
     (∀ u ∈ lanes i s, ¬ goodTarget s vf cid near → ∃ c, (c = 3 ∨ c = 4 ∨ c = 7) ∧ failsWith i s u c)) ∧
  (let i : Instr := .call g o
   clear i s = true →
     ((∀ u ∈ lanes i s, goodTarget s vf cid near ∧ ¬ full u) → ∃ t, exec i s = .next t ∧
       Jumped i s t (fun _ => near) (fun u => (pc + 8, (t.grp (gidOf u)).ctx) :: (s.thr u).rstack) fun _ => 0) ∧
     (∀ u ∈ lanes i s, full u → failsWith i s u 0x0A) ∧
     (∀ u ∈ lanes i s, ¬ goodTarget s vf cid near → ∃ c, (c = 3 ∨ c = 4 ∨ c = 7) ∧ failsWith i s u c)) ∧
  (let i : Instr := .brx g n a b
   let w := wordAt i s
   let table := pc + (match s.bundle.advs.imm with | some p => (p ++ b).signExtend 64 | none => b.signExtend 64) * 4
   let entry := fun u => table + d64 (4 * (rv s u a).toNat)
   let waits := fun u r =>
     let x : Access := { kind := .load, tid := u, ea := entry u, ia := iaOf r (entry u), space := spaceOf r }
     atomWaits s s.fresh x || loadWaits s s.fresh { x with inst := s.fresh }
   let copyAt := fun u r => cachedLine s cid (s.wg (wgOf u)).launch (s.grp (gidOf u)).dom (spaceOf r) r (iaOf r (entry u))
   let cell := fun u r (v : LineView) =>
     (cellsOfPart (forward s u s.fresh (spaceOf r) (iaOf r (entry u)) (v.part (iaOf r (entry u) % 64) 4)).1 4 false).headD {}
   let served := ∀ u ∈ lanes i s, ∀ r, tableRange s w n.toNat a b u = some r → waits u r = false ∧ ∃ v, copyAt u r = some v
   let goes := fun (tg : Nat → DWord) u r v => (readReg s u a.toNat).poison = false ∧ tableRange s w n.toNat a b u = some r ∧
     (cell u r v).poison = false ∧ goodTarget s vf cid (tg u) ∧ tg u = table + (cell u r v).val.signExtend 64 * 4
   clear i s = true → ((lanes i s).any (acquirePending s) = true → exec i s = .next (stallPipe (entered i s) s.turn)) ∧
     ((lanes i s).any (acquirePending s) = false →
       (∀ tg : Nat → DWord, served → (∀ u ∈ lanes i s, ∃ r v, copyAt u r = some v ∧ goes tg u r v) →
         ∃ t, exec i s = .next t ∧ Jumped i s t tg (fun u => (s.thr u).rstack) fun q => fieldLabel s q a.toNat) ∧
       (∀ tg : Nat → DWord, soundMemory s → (∀ u ∈ lanes i s, ∃ r, waits u r = false ∧ copyAt u r = none ∧ (s.grp (gidOf u)).dom = (s.ctx vf).dom ∧
           pinHolders s (lineOf (spaceOf r) (iaOf r (entry u))) = [] ∧ peerLine s (lineOf (spaceOf r) (iaOf r (entry u))) = false ∧
           (s.launchOf (wgOf u)).replay = false ∧ (s.launchOf (wgOf u)).requeued = false ∧
           memSide s vf (s.grp (gidOf u)).dom (spaceOf r) r (iaOf r (entry u)) false 0 = .ok s ∧
           goes tg u r { bytes := readBytes (s.store (spaceOf r)) (iaOf r (entry u) / 64 * 64) 64, bad := [], label := 0 }) →
         ∃ t, exec i s = .next t ∧ (∀ u ∈ lanes i s, (t.thr u).jump = some (tg u) ∧ (t.thr u).rstack = (s.thr u).rstack) ∧
           (∀ q ∈ s.gids, (t.grp q).ctx = (s.grp q).ctx ||| w.guardLabel s q ||| fieldLabel s q a.toNat) ∧ t.bundle.pc = pc + 4 ∧
           (∀ u, (t.thr u).regs = (s.thr u).regs ∧ (t.thr u).preds = (s.thr u).preds) ∧
           t = { s with threads := t.threads, groups := t.groups, pipes := t.pipes, pages := t.pages, cus := t.cus, cores := t.cores }) ∧
       (served → ∀ u ∈ lanes i s, ((readReg s u a.toNat).poison = true → failsWith i s u 0x12) ∧
         (n.toNat < (rv s u a).toNat → failsWith i s u 0x09) ∧
         ((rv s u a).toNat ≤ n.toNat → rangeOf s vf (entry u) = none → failsWith i s u 0x03) ∧
         (∀ k r, (rv s u a).toNat ≤ n.toNat → rangeOf s vf (entry u) = some (k, r) → (permR r = false ∨ permW r = true) → failsWith i s u 0x04)))) ∧
  (let i : Instr := .callx g a
   let target := fun u => d64 ((pv s u a).toNat % 2 ^ 48)
   let pad := fun u => ∃ l : BitVec 16, instrAt s vf cid (target u) = some (.land l) ∧ l.toNat = (pv s u a).toNat / 2 ^ 48
   clear i s = true →
     ((∀ u ∈ lanes i s, anyPoison (readOpnd s u (.pair a)) = false ∧ goodTarget s vf cid (target u) ∧ pad u ∧ ¬ full u) →
       ∃ t, exec i s = .next t ∧ Jumped i s t target (fun u => (pc + 8, (t.grp (gidOf u)).ctx) :: (s.thr u).rstack)
         fun q => opndLabel s q (.pair a)) ∧
     (∀ u ∈ lanes i s, anyPoison (readOpnd s u (.pair a)) = true → failsWith i s u 0x12) ∧
     (∀ u ∈ lanes i s, goodTarget s vf cid (target u) → ¬ pad u → failsWith i s u 0x08) ∧
     (∀ u ∈ lanes i s, ¬ goodTarget s vf cid (target u) → ∃ c, (c = 3 ∨ c = 4 ∨ c = 7) ∧ failsWith i s u c) ∧
     (∀ u ∈ lanes i s, full u → failsWith i s u 0x0A)) ∧
  (let i : Instr := .ret g
   clear i s = true →
     ((∀ u ∈ lanes i s, ∃ e r, (s.thr u).rstack = e :: r ∧ goodTarget s vf cid e.1) → ∃ t, exec i s = .next t ∧
       Jumped i s t (fun u => (((s.thr u).rstack.head?).map (·.1)).getD 0) (fun u => (s.thr u).rstack.tail)
         fun q => orAll (((lanes i s).filter fun u => gidOf u == q).map fun u => (((s.thr u).rstack.head?).map (·.2)).getD 0)) ∧
     (∀ u ∈ lanes i s, (s.thr u).rstack = [] → failsWith i s u 0x0A) ∧
     (∀ u ∈ lanes i s, ∀ e r, (s.thr u).rstack = e :: r → ¬ goodTarget s vf cid e.1 → ∃ c, (c = 3 ∨ c = 4 ∨ c = 7) ∧ failsWith i s u c))

/-- PERIOD (R25, R28, R265, R268): every thread of the bundle starts its next sentence at the word after, or where its transfer
goes; it is held where a register named still awaits a result, else ready; the pipe is free. A register beyond the allotment traps.

NOP, LAND, YIELD and the adverbs (R22 to R24, R131, R134): NOP and LAND only go on, YIELD marks its lanes, an adverb takes its
place before the next word. -/
def Obligations.SentenceEndHintsAndAdverbs : Prop :=
  (∀ (s : State) (x y z : BitVec 7) (b : Bundle),
     tfind s.pipes s.turn = some b → b.fence = none → b.tids.Nodup → (∀ u ∈ b.tids, (tfind s.threads u).isSome = true) →
     let i : Instr := .period x y z
     let named := ([x, y, z].map (·.toNat)).filter (· < 112)
     let g := s.grp (gidOf (b.tids.headD 0))
     (legal i = true → (∀ f ∈ named, allotOk g.vregs g.oregs f = true) → ∃ t, exec i s = .next t ∧ tfind t.pipes s.turn = none ∧
       (∀ p, p ≠ s.turn → tfind t.pipes p = tfind s.pipes p) ∧ t = { s with threads := t.threads, pipes := t.pipes } ∧
       (∀ u ∈ b.tids, let n := t.thr u
         n.pc = ((s.thr u).jump).getD (b.pc + 4) ∧ n.pos = 0 ∧ n.jump = none ∧ n.regs = (s.thr u).regs ∧ n.preds = (s.thr u).preds ∧
         n.holds = (s.thr u).holds ++ (named.filter (sbBit (s.thr u))).map .await ∧
         (n.holds = [] → n.picker = .ready) ∧ (n.holds ≠ [] → n.picker = .held)) ∧
       ∀ u, u ∉ b.tids → tfind t.threads u = tfind s.threads u) ∧
     (legal i = false → exec i s = .next (takeTrap s b.tids (faultReq b 0x01 b.tids))) ∧
     (legal i = true → (∃ f ∈ named, allotOk g.vregs g.oregs f = false) → exec i s = .next (takeTrap s b.tids (faultReq b 0x02 b.tids)))) ∧
  (∀ (s : State) (g : BitVec 4) (l : BitVec 16) (p : BitVec 25) (x f : BitVec 1) (m : BitVec 2)
       (k : BitVec 4) (r : BitVec 7) (h : BitVec 3),
     let idle := fun (i : Instr) => clear i s = true → ∃ t, exec i s = .next t ∧ Ran i s t ∧
       (∀ u, (t.thr u).regs = (s.thr u).regs ∧ (t.thr u).preds = (s.thr u).preds ∧ (t.thr u).written = (s.thr u).written) ∧
       ∀ q, t.grp q = { s.grp q with ctx := (t.grp q).ctx }
     let adverb := fun (i : Instr) (e : Advs → Advs) => clear i s = true → ∃ t, exec i s = .next t ∧
       t.bundle = { s.bundle with
         pc := s.bundle.pc + 4, pos := s.bundle.pos + 1, stalled := false
         advs := { e s.bundle.advs with first := some (s.bundle.advs.first.getD s.bundle.pc), count := s.bundle.advs.count + 1 } } ∧
       (∀ q, q ≠ s.turn → tfind t.pipes q = tfind s.pipes q) ∧ t = { s with groups := t.groups, pipes := t.pipes } ∧ ∀ q, t.grp q = s.grp q
     idle (.nop g) ∧ idle (.land l) ∧
     (let i : Instr := .yield g
      clear i s = true → ∃ t, exec i s = .next t ∧ (∀ u ∈ lanes i s, (t.thr u).yielded = true) ∧ t.bundle.pc = s.bundle.pc + 4 ∧
        (∀ u, (t.thr u).regs = (s.thr u).regs ∧ (t.thr u).preds = (s.thr u).preds ∧ (t.thr u).pc = (s.thr u).pc) ∧
        t = { s with threads := t.threads, groups := t.groups, pipes := t.pipes }) ∧
     adverb (.advImm p) (fun a => { a with imm := some p }) ∧ adverb (.advRound x f m) (fun a => { a with round := some (x ++ f ++ m) }) ∧
     adverb (.advMemhint k m) (fun a => { a with hint := some (k ++ m) }) ∧ adverb (.advXopnd r) (fun a => { a with xopnd := some r }) ∧
     adverb (.advSched h x) (fun a => { a with sched := some (h ++ x) }))

/-- SRD (R52, R53, R137, R143): what each special register reads as, in each lane, to a register or a pair by its width. -/
def Obligations.SpecialRegisterReads : Prop := ∀ (s : State) (g : BitVec 4) (d n : BitVec 7),
  let i : Instr := .srd g d n
  let c := fun u => s.cidOf u
  let x := fun u => s.thr u
  let q := fun u => s.grp (gidOf u)
  let f := fun u => (s.thr u).frame
  let reads := fun (o : Opnd) (val : Nat → List Word) => clear i s = true → ∃ t, exec i s = .next t ∧
    (∀ u ∈ lanes i s, ∀ e ∈ (fieldsOf o).zip (val u), e.1 < 116 → (sget {} (t.thr u).regs e.1).val = e.2) ∧
    (∀ u k, u ∉ lanes i s ∨ k ∉ fieldsOf o → sget {} (t.thr u).regs k = sget {} (s.thr u).regs k) ∧
    (∀ u, (t.thr u).frame = f u ∧ (t.thr u).fpflags = (x u).fpflags ∧ (t.thr u).cause = (x u).cause) ∧ t.bundle.pc = s.bundle.pc + 4 ∧
    t = { s with threads := t.threads, groups := t.groups, pipes := t.pipes, ctxs := t.ctxs }
  let one := fun (k : Nat) (v : Nat → Word) => n.toNat = k → reads (.r d) fun u => [v u]
  let two := fun (k : Nat) (v : Nat → DWord) => n.toNat = k → reads (.pair d) fun u => halves (v u)
  one 0x00 (fun _ => 64) ∧ one 0x01 (fun _ => 16) ∧ one 0x02 (fun u => (x u).fpflags.zeroExtend 32) ∧
  one 0x03 (fun u => (x u).fpctl.zeroExtend 32) ∧ two 0x04 (fun u => (x u).wct) ∧ two 0x05 (fun _ => s.now) ∧
  one 0x06 (fun u => (q u).dom ++ (0 : BitVec 8) ++ (s.grp (gidOf u)).ctx ||| ((wordAt i s).guardLabel s (gidOf u)).zeroExtend 32) ∧
  one 0x07 (fun u => ((x u).detail ++ (0 : BitVec 2) ++ (x u).cause).zeroExtend 32) ∧ one 0x08 (fun u => w32 (c u % 8)) ∧
  one 0x09 (fun u => (Config.devIndex.zeroExtend 24 ++ (0 : BitVec 8)) + w32 (c u / 8)) ∧
  one 0x0A (fun u => w32 (x u).octTile <<< 24 + w32 (x u).octCopy <<< 16 + w32 (x u).octStore <<< 8 + w32 (x u).octLoad) ∧
  one 0x0B (fun u => if (x u).unalloc then 1 else 0) ∧ two 0x10 (fun u => (f u).tfpc) ∧ two 0x11 (fun u => (f u).tfrpc) ∧
  one 0x12 (fun u => (if (f u).inh then 1#1 else 0) ++ (if (f u).own then 1#1 else 0) ++ (f u).kind ++ (0 : BitVec 3) ++ (f u).pos ++ (f u).tw ++
    (0 : BitVec 11) ++ (f u).rsd) ∧
  two 0x13 (fun u => (f u).tfaddr) ∧ two 0x14 (fun u => (f u).tfdpc) ∧
  (∀ k, k < 4 → one (0x15 + k) fun u => (sget ({} : Cell) (f u).tft k).val) ∧ two 0x19 (fun u => (q u).tvec) ∧
  ∀ k, k < 64 → two (0x40 + k) fun u => (sget ({} : GCell) (q u).g k).val

/-- SWR (R50 to R55, R137, R139, R143, R144): what each writable special register takes; the steering registers refuse a label beyond
the context's with cause 0x05, the group's own refuse a partial group with cause 0x19.

LBLR and LBLRAISE (R146, R147): the label of a register, without reading its data; and labels only ever raised. -/
def Obligations.SpecialRegisterWrites : Prop :=
  (∀ (s : State) (g : BitVec 4) (a n : BitVec 7),
     let i : Instr := .swr g a n
     let k := n.toNat
     let src := (wordAt i s).srcs.headD (.r 116#7)
     let v := fun u => wordsVal (readOpnd s u src)
     let steering := k = 0x11 ∨ k = 0x12 ∨ k = 0x19
     let own := 0x40 ≤ k ∨ k = 0x19
     let overLabel := fun u => opndLabel s (gidOf u) src &&& ~~~((s.grp (gidOf u)).ctx ||| (wordAt i s).guardLabel s (gidOf u)) ≠ 0
     clear i s = true → (k = 0x02 → ∀ u ∈ lanes i s, ∀ e ∈ s.accs, e.2.tid = u → e.2.kind ≠ .special) →
     ((steering → ∀ u ∈ lanes i s, ¬ overLabel u) → (own → ∀ q ∈ s.gids, holdsGroup s s.bundle.tids q = true) → ∃ t, exec i s = .next t ∧
       t.bundle.pc = s.bundle.pc + 4 ∧ t = { s with threads := t.threads, groups := t.groups, pipes := t.pipes } ∧
       (∀ u, (t.thr u).regs = (s.thr u).regs ∧ (t.thr u).preds = (s.thr u).preds) ∧
       (∀ u ∈ lanes i s, let x := s.thr u; let y := t.thr u
         y.fpflags = (if k = 0x02 then BitVec.ofNat 5 (v u) else x.fpflags) ∧ y.fpctl = (if k = 0x03 then BitVec.ofNat 5 (v u) else x.fpctl) ∧
         y.cause = (if k = 0x07 then BitVec.ofNat 6 (v u) else x.cause) ∧ y.detail = (if k = 0x07 then BitVec.ofNat 8 (v u / 2 ^ 8) else x.detail) ∧
         y.unalloc = (if k = 0x0B then x.unalloc && !(v u).testBit 0 else x.unalloc) ∧
         y.frame.tfrpc = (if k = 0x11 then d64 (v u) else x.frame.tfrpc) ∧
         y.frame.pos = (if k = 0x12 then BitVec.ofNat 5 (v u / 2 ^ 20) else x.frame.pos) ∧
         y.frame.tw = (if k = 0x12 then BitVec.ofNat 4 (v u / 2 ^ 16) else x.frame.tw) ∧
         (∀ j, j < 4 → (sget ({} : Cell) y.frame.tft j).val = if k = 0x15 + j then w32 (v u) else (sget ({} : Cell) x.frame.tft j).val) ∧
         y.frame.inh = x.frame.inh ∧ y.frame.own = x.frame.own ∧ y.frame.kind = x.frame.kind ∧ y.frame.tfpc = x.frame.tfpc) ∧
       (∀ q ∈ s.gids, ∀ u, lowestIn (lanes i s) q = some u →
         (t.grp q).tvec = (if k = 0x19 then d64 (v u % 2 ^ 48 / 4 * 4) else (s.grp q).tvec) ∧
         ∀ j, j < 64 → (sget ({} : GCell) (t.grp q).g j).val = if k = 0x40 + j then d64 (v u) else (sget ({} : GCell) (s.grp q).g j).val) ∧
       ∀ q ∈ s.gids, (t.grp q).lflags = (if k = 0x02 then newLabel i s q (s.grp q).lflags else (s.grp q).lflags) ∧
         (t.grp q).lfpctl = (if k = 0x03 then newLabel i s q (s.grp q).lfpctl else (s.grp q).lfpctl) ∧
         ∀ j, j < 64 → sget 0 (t.grp q).lg j = if k = 0x40 + j then newLabel i s q (sget 0 (s.grp q).lg j) else sget 0 (s.grp q).lg j) ∧
     (∀ u ∈ lanes i s, steering → overLabel u → failsWith i s u 0x05) ∧
     (∀ u ∈ s.bundle.tids, own → holdsGroup s s.bundle.tids (gidOf u) = false → failsWith i s u 0x19)) ∧
  (∀ (s : State) (g : BitVec 4) (d a : BitVec 7),
     (let i : Instr := .lblr g d a
      clear i s = true → ∃ t, exec i s = .next t ∧ t.bundle.pc = s.bundle.pc + 4 ∧
        (∀ u ∈ lanes i s, d.toNat < 116 → sget {} (t.thr u).regs d.toNat =
          { val := (s.grp (gidOf u)).dom.zeroExtend 32 <<< 24 ||| (fieldLabel s (gidOf u) a.toNat).zeroExtend 32 }) ∧
        (∀ u k, u ∉ lanes i s ∨ k ≠ d.toNat → sget {} (t.thr u).regs k = sget {} (s.thr u).regs k) ∧
        (∀ q ∈ s.gids, d.toNat < 116 → sget 0 (t.grp q).lreg d.toNat =
          if setsLabel i s q then (t.grp q).ctx else sget 0 (s.grp q).lreg d.toNat ||| (t.grp q).ctx) ∧
        t = { s with threads := t.threads, groups := t.groups, pipes := t.pipes }) ∧
     (let i : Instr := .lblraise g d a
      let mask := fun q => orAll (((lanes i s).filter fun u => gidOf u == q).map fun u => (rv s u a).truncate 16)
      clear i s = true → ((∀ u ∈ lanes i s, (readReg s u a.toNat).poison = false) → ∃ t, exec i s = .next t ∧ t.bundle.pc = s.bundle.pc + 4 ∧
          (d = 116#7 → ∀ q ∈ s.gids, (t.grp q).ctx = (s.grp q).ctx ||| (mask q ||| outLabel i s q)) ∧
          (d.toNat < 116 → ∀ q ∈ s.gids, sget 0 (t.grp q).lreg d.toNat = sget 0 (s.grp q).lreg d.toNat ||| (mask q ||| outLabel i s q)) ∧
          (120 ≤ d.toNat → ∀ q ∈ s.gids, sget 0 (t.grp q).lg (d.toNat - 120) = sget 0 (s.grp q).lg (d.toNat - 120) ||| (mask q ||| outLabel i s q)) ∧
          (∀ u, (t.thr u).regs = (s.thr u).regs) ∧ (∀ q k, sget {} (t.grp q).g k = sget {} (s.grp q).g k) ∧
          t = { s with threads := t.threads, groups := t.groups, pipes := t.pipes }) ∧
        ((∃ u ∈ lanes i s, (readReg s u a.toNat).poison = true) → ∃ u ∈ lanes i s, failsWith i s u 0x12)))

/-! ## Traps. -/

/-- Taking a trap (R135 to R137, R414, R431): every thread of the bundle enters its handler with its frame written; a thread with no
handler, or in it already, halts its workgroup (R138).

The checks that every word goes through first (R15, R22, R26, R30, R37): a bundle at a word that breaks one takes the trap of the
first one broken, in the order 0x01, 0x0C, 0x02, 0x0E, and the word has no effect; so does a word that decodes to no instruction. -/
def Obligations.TrapEntry : Prop :=
  (∀ (s : State) (ts : List Nat) (q : TrapReq), ts.Nodup →
     (∀ u ∈ ts, (tfind s.threads u).isSome = true) →
     ((∀ u ∈ ts, hasHandler s u) → TrapTaken s (takeTrap s ts q) ts q ∧
       (q.cause ≠ 0x12 → q.cause ≠ 0x13 → (takeTrap s ts q).ctxs = s.ctxs)) ∧
     (∀ u, ts = [u] → alive (s.thr u) = true → (s.grp (gidOf u)).tvec = 0 ∨ (s.thr u).frame.inh = true →
       (tfind s.wgs (wgOf u)).isSome = true → (s.wg (wgOf u)).halted = false → (tfind s.launches (s.wg (wgOf u)).launch).isSome = true →
       let t := takeTrap s ts q
       (t.wg (wgOf u)).halted = true ∧ (t.launchOf (wgOf u)).halted = true ∧ (∀ v ∈ liveWg s (wgOf u), (t.thr v).picker = .exited) ∧
       ∀ v, wgOf v ≠ wgOf u → tfind t.threads v = tfind s.threads v)) ∧
  (∀ (s : State) (i : Instr) (b : Bundle) (c : Nat) (w : Word),
     tfind s.pipes s.turn = some b → b.fence = none → b.tids.Nodup →
     (∀ u ∈ b.tids, (tfind s.threads u).isSome = true ∧ hasHandler s u) →
     let taken := fun (i : Instr) (c : Nat) => ∃ t, exec i s = .next t ∧ t.ctxs = s.ctxs ∧ TrapTaken s t b.tids
       { cause := c, pc := b.pc, rpc := b.faultPc, pos := b.pos - b.advs.count, own := b.tids }
     ((shape i).word = true → (∀ x y z, i ≠ .period x y z) → wordCheck s (wordAt i s) = some c → taken i c) ∧
     ((shape i).word = true → (∀ x y z, i ≠ .period x y z) → legal i = false → taken i 0x01) ∧ taken (.illegalEncoding w) 0x01)

/-- TRAP, BKPT, CTXYIELD and TRET (R136, R140 to R142): TRAP and BKPT take the trap "after" the word where some lane is guarded true;
TRET brings back the temporaries, their written bits and the place; CTXYIELD marks its threads saved; outside a handler TRET and
CTXYIELD fail with cause 0x01, and TRET to no sentence start with 0x07. -/
def Obligations.TrapWords : Prop := ∀ (s : State) (g : BitVec 4) (c : BitVec 7),
  let ts := s.bundle.tids
  let after := fun (i : Instr) (cause : Nat) (detail : BitVec 8) => clear i s = true →
    (lanes i s = [] → exec i s = .next (goOn i s (entered i s))) ∧
    (lanes i s ≠ [] → (∀ u ∈ ts, hasHandler s u) → ∃ t, exec i s = .next t ∧ TrapTaken (entered i s) t ts
      { cause := cause, detail := detail, pc := s.bundle.pc, rpc := s.bundle.pc + 4, pos := min 24 (s.bundle.pos + 1), kind := 1, own := lanes i s })
  after (.trap g c) 0x15 (c.zeroExtend 8) ∧ after (.bkpt g) 0x16 0 ∧
  (clear .tret s = true →
    (∀ pc pos, (∀ u ∈ ts, (s.thr u).frame.inh = true ∧ tretOk s u = true ∧ (s.thr u).frame.tfrpc = pc ∧ (s.thr u).frame.pos = pos ∧
        (s.thr u).frame.holds = []) →
      ∃ t, exec .tret s = .next t ∧ t.bundle = { s.bundle with pc := pc, pos := pos.toNat, advs := {}, stalled := false } ∧
        (∀ u ∈ ts, (t.thr u).frame.inh = false ∧ (t.thr u).written = (s.thr u).frame.tw ∧ (t.thr u).preds = (s.thr u).preds ∧
          (∀ k, k < 4 → sget {} (t.thr u).regs (112 + k) = sget ({} : Cell) (s.thr u).frame.tft k) ∧
          ∀ f, f < 112 → sget {} (t.thr u).regs f = sget {} (s.thr u).regs f) ∧
        (∀ u, u ∉ ts → tfind t.threads u = tfind s.threads u) ∧ t = { s with threads := t.threads, groups := t.groups, pipes := t.pipes }) ∧
    (∀ u ∈ ts, (s.thr u).frame.inh = false → failsWith .tret s u 0x01) ∧
    (∀ u ∈ ts, (s.thr u).frame.inh = true → tretOk s u = false → failsWith .tret s u 0x07)) ∧
  (clear .ctxyield s = true →
    ((∀ u ∈ ts, (s.thr u).frame.inh = true ∧ (s.thr u).cause = 0x17) → ∃ t, exec .ctxyield s = .next t ∧
      (∀ u ∈ ts, (t.thr u).saved = true) ∧ (∀ u, (t.thr u).regs = (s.thr u).regs) ∧ t.bundle.pc = s.bundle.pc + 4 ∧
      t = { s with threads := t.threads, groups := t.groups, pipes := t.pipes }) ∧
    (∀ u ∈ ts, (s.thr u).frame.inh = false ∨ (s.thr u).cause ≠ 0x17 → failsWith .ctxyield s u 0x01))

/-! ## The copy engine and the release gate. -/

/-- XCPY and GATE in workgroups neither checkpointed nor paired (R47, R194 to R199, R203, R297 to R300): each group's command stands in the
next slot of its workgroup's copy ring with its counter address, pub counts it, its lanes count a copy, the registers it will write
are pending; a failing command traps; a full count, a full ring or a register still pending stalls the word at the first group whose
command cannot leave, those before it having left. -/
def Obligations.CopyWordsPublish : Prop := ∀ (s : State) (g : BitVec 4) (a c : BitVec 7),
  let publishes := fun (i : Instr) (gate : Bool) =>
    let gs := groupsOf (lanes i s)
    let cmd := fun q => cmdOf s q a.toNat
    let inWg := fun (l : List Nat) w => l.filter fun q => q / 16 == w
    let sound := ∀ q ∈ gs, cmdFails s (q / 16) (cmd q) (counterOf s q a.toNat c.toNat) gate = [] ∧ cmdPoison s q a.toNat c.toNat = false
    let leave := fun (l : List Nat) => (∀ q ∈ l, (inWg l (q / 16)).length ≤ copyRoom s (q / 16) ∧ regsBusy s (q / 16) (cmd q) = false ∧
        (tfind s.wgs (q / 16)).isSome = true) ∧
      l.Pairwise fun q r => ∀ u ∈ destLanes s (q / 16) (cmd q), u ∈ destLanes s (r / 16) (cmd r) → ∀ f ∈ destFields (cmd q), f ∉ destFields (cmd r)
    let left := fun (t : State) (l : List Nat) =>
      (∀ u ∈ lanes i s, (t.thr u).octCopy = (s.thr u).octCopy + if l.contains (gidOf u) then 1 else 0) ∧ (∀ u, (t.thr u).regs = (s.thr u).regs) ∧
      t = { s with threads := t.threads, groups := t.groups, wgs := t.wgs, pipes := t.pipes } ∧
      (∀ w, (t.wg w).mem.copy.pub = (s.wg w).mem.copy.pub + w32 (inWg l w).length ∧ (t.wg w).mem.copy.con = (s.wg w).mem.copy.con) ∧
      (∀ w k q base n x, copyWords s w = some (base, n, x) → 2 ^ 32 % n = 0 → (inWg l w)[k]? = some q →
        let slot := ((s.wg w).mem.copy.pub + w32 k).toNat % n
        readBytes (t.wg w).mem.spad (base + 64 * slot) 40 = ((cmd q ++ [counterOf s q a.toNat c.toNat]).map fun v => leBytes v.toNat 8).flatten ∧
        sget false (t.wg w).mem.copy.kind slot = gate) ∧
      (∀ q ∈ l, cKind (cmd q) = 4 → cEmpty (cmd q) = false → ∀ u ∈ liveOf s (q / 16 * 16 + bits (cDest (cmd q)) 8 4), laneOf u < cRows (cmd q) →
          ∀ f, bits (cDest (cmd q)) 0 7 ≤ f → f < bits (cDest (cmd q)) 0 7 + cRowBytes (cmd q) / 4 → f < 112 → sbBit (t.thr u) f = true)
    clear i s = true → plainLanes i s → (∀ u ∈ lanes i s, (s.thr u).sent = false) →
    (sound → octFull s .copy (lanes i s) = false → leave gs → ∃ t, exec i s = .next t ∧ t.bundle.pc = s.bundle.pc + 4 ∧ left t gs) ∧
    (sound → octFull s .copy (lanes i s) = true → exec i s = .next (stallPipe (entered i s) s.turn)) ∧
    (∀ pre q post, sound → octFull s .copy (lanes i s) = false → gs = pre ++ q :: post → leave pre →
      (copyRoom s (q / 16) = (inWg pre (q / 16)).length ∨ regsBusy s (q / 16) (cmd q) = true) →
      ∃ t, exec i s = .next t ∧ t.bundle = { s.bundle with stalled := true } ∧ left t pre ∧
        ∀ u ∈ lanes i s, (t.thr u).sent = pre.contains (gidOf u)) ∧
    (¬ sound → exec i s = .next (trapFails s (wordAt i s) (gs.map (groupFails s (lanes i s) a.toNat c.toNat gate)).flatten))
  publishes (.xcpy g a c) false ∧ publishes (.gate g a c) true

/-- The copy ring's words (R298, R299): a release of the notify word sets pub, and the engine reads on, or stops on a bad count; a store
to the status word clears stop, on which the engine acts on pub anew, and nothing else.

The copy engine's steps (R195, R196, R199, R200, R202, R275, R289, R302): a slot's command is taken when it passes the checks, else the
ring stops with the smallest cause; a unit that is left, in no set order, is read piece by piece and then written to memory,
scratchpad, a ring or a lane's registers, or is refused and passed over with its status bit; a completion adds the increment to the
counter in one update, with the status, or drops it, and its threads count it down. -/
def Obligations.CopyEngineSteps : Prop :=
  (∀ (s : State) (w base n x : Nat) (pub : Word) (data : DWord),
     copyWords s w = some (base, n, x) → (tfind s.wgs w).isSome = true → (s.wg w).ended = false →
     let c := (s.wg w).mem.copy
     (c.stop = false → ∃ t, exec (.notifyWordWrite w pub) s = .next t ∧ t = { s with wgs := t.wgs } ∧
       (t.wg w).mem.copy = (if (pub - c.con).toNat ≤ n then { c with pub := pub, active := true }
         else { c with pub := pub, stop := true, cause := 1 })) ∧
     (c.stop = true → ∃ t, exec (.notifyWordWrite w pub) s = .next t ∧ t = { s with wgs := t.wgs } ∧ (t.wg w).mem.copy = { c with pub := pub }) ∧
     ∃ t, exec (.copyStatusWrite w data) s = .next t ∧ t = { s with wgs := t.wgs } ∧
       (t.wg w).mem.copy = (if c.stop = true ∧ data.getLsbD 40 = false then
           if (c.pub - c.con).toNat ≤ n then { c with stop := false, active := true } else { c with cause := 1 }
         else c)) ∧
  (∀ (s : State),
     (∀ cid, (32 ≤ cmdsOf s cid ∨ nextRing s cid = none) → exec (.copyCommandStart cid) s = .next s) ∧
     (∀ cid idx w i off, cmdsOf s cid < 32 → nextRing s cid = some (idx, w) → nextSlot s w = some (i, off) → (tfind s.wgs w).isSome = true →
       let ws := slotWords s w off
       let q := ws.take 4
       let bad := (cmdFails s w q ((ws.drop 4).headD 0) (sget false (s.wg w).mem.copy.kind i)).map (·.1) ++ if spadBad s w off 40 then [0x12] else []
       (bad = [] → ((targetsOf s w q).2 = false ∨ (s.launch (s.wg w).launch).det = false) →
         ∃ t c, exec (.copyCommandStart cid) s = .next t ∧ tfind t.cmds s.fresh = some c ∧ c.wg = w ∧ c.q = q ∧
         c.counter = (ws.drop 4).headD 0 ∧ c.gate = sget false (s.wg w).mem.copy.kind i ∧ c.next = 0 ∧ c.ahead = [] ∧ c.cur = none ∧ c.buf = [] ∧
         c.targets = (targetsOf s w q).1 ∧ c.status = (if (targetsOf s w q).2 then 1 else 0) ∧
         (t.wg w).mem.copy.con = (s.wg w).mem.copy.con + 1 ∧ (t.cu cid).rotate = (idx, w + 1) ∧
         t = { s with wgs := t.wgs, cus := t.cus, cmds := t.cmds, fresh := t.fresh }) ∧
       (∀ k, minOf bad = some k → ∃ t, exec (.copyCommandStart cid) s = .next t ∧ (t.wg w).mem.copy.stop = true ∧
         (t.wg w).mem.copy.cause = BitVec.ofNat 8 k ∧ (t.wg w).mem.copy.con = (s.wg w).mem.copy.con ∧ t.cmds = s.cmds ∧ t.mem = s.mem)) ∧
     (∀ id c unit, tfind s.cmds id = some c →
       let u := unitOf c unit
       let x := unitAt c u
       let run := exec (.copyUnitWrite (id, unit)) s
       let done := fun (t : State) => run = .next t ∧ ∃ c', tfind t.cmds id = some c' ∧ c'.cur = none ∧ c'.buf = [] ∧ (u ∈ c'.ahead ∨ u < c'.next)
       let writes := fun (s : State) (c : CopyCmd) =>
         let bytes := c.buf.map (·.1)
         let poisoned := c.buf.map (·.2)
         let at_ := cBase c.q + x.row * cDStride c.q + x.lo
         (∀ k r, cKind c.q = 0 → rangeOf s (s.vfOf c.wg) (d64 at_) = some (k, r) →
           let ia := iaOf r (d64 at_)
           let side := memSide s (s.vfOf c.wg) (s.ctx (s.vfOf c.wg)).dom (spaceOf r) r ia true (if c.gate then 0 else c.dataLabel)
           pinHolders s (lineOf (spaceOf r) ia) = [] → (s.launchOf c.wg).replay = false →
           (side = .ok s → ∃ t, done t ∧ t.store (spaceOf r) = writeBytes (s.store (spaceOf r)) ia bytes) ∧
           (∀ s', side = .retry s' → run = .next s')) ∧
         (∀ tg, (cKind c.q = 1 ∨ cKind c.q = 2) → c.targets[x.target]? = some tg → targetLive s tg = true → copyWords s tg.2.1 = none →
           ∃ t, done t ∧ t.mem = s.mem ∧ ∀ k, sget 0 (t.wg tg.2.1).mem.spad k = if at_ ≤ k ∧ k < at_ + bytes.length then (bytes[k - at_]?).getD 0
             else sget 0 (s.wg tg.2.1).mem.spad k) ∧
         (∀ r, cKind c.q = 3 → bit (cDest c.q) 12 = false → tfind (s.wg c.wg).mem.rings (bits (cDest c.q) 0 4) = some r →
           (tfind s.wgs c.wg).isSome = true → r.desc.copy = false → (s.wg c.wg).ended = false → r.puts.length < 64 →
           ∃ t, done t ∧ t.mem = s.mem ∧ ∃ e : PutEntry, t.ring c.wg (bits (cDest c.q) 0 4) = { r with puts := r.puts ++ [e] } ∧ e.data = bytes ∧
             e.cmd = some id ∧ e.row = x.row ∧ e.bad = badWords poisoned ∧ e.label = c.dataLabel) ∧
         (cKind c.q = 4 → let v := (c.wg * 16 + bits (cDest c.q) 8 4) * 64 + x.row
           (tfind s.threads v).isSome = true → alive (s.thr v) = true → v ∈ liveOf s (c.wg * 16 + bits (cDest c.q) 8 4) →
           bits (cDest c.q) 0 7 + cRowBytes c.q / 4 ≤ 112 →
           ∃ t, done t ∧ t.mem = s.mem ∧ ∀ j, j < cRowBytes c.q / 4 → sbBit (t.thr v) (bits (cDest c.q) 0 7 + j) = false ∧
             sget {} (t.thr v).regs (bits (cDest c.q) 0 7 + j) =
               { val := BitVec.ofNat 32 (leNat ((bytes.drop (4 * j)).take 4)), poison := ((poisoned.drop (4 * j)).take 4).any (·) })
       ((cmdWritten c = true ∨ (c.gate = true ∧ c.decided = false)) → run = .next s) ∧
       (cmdWritten c = false → (c.gate = true → c.decided = true) →
         (x.hi - x.lo ≤ c.buf.length → writes s c) ∧
         (c.buf.length < x.hi - x.lo →
           (∀ s', cmdRead s c x c.buf.length = .wait s' → run = .next s') ∧
           (∀ cause ea, cmdRead s c x c.buf.length = .refused s cause ea → ∃ t, done t ∧ t.mem = s.mem ∧
             ∀ c', tfind t.cmds id = some c' → c'.status = c.status ||| if cause = 5 then 4 else 2) ∧
           (∀ s2 bs bad l, cmdRead s c x c.buf.length = .ok s2 bs bad l → s2.cmds = s.cmds →
             let c1 := { c with
               cur := some u, buf := c.buf ++ bs.zip bad, dataLabel := c.dataLabel ||| l
               status := if bad.any (·) then c.status ||| 8 else c.status }
             let s3 := { s2 with cmds := tmod s2.cmds id fun _ => c1 }
             (c1.buf.length < x.hi - x.lo → run = .next s3) ∧ (x.hi - x.lo ≤ c1.buf.length → writes s3 c1))))) ∧
     (∀ id c, tfind s.cmds id = some c → cmdWritten c = true → c.puts = [] → (c.gate = true → c.decided = true) →
       (2 ≤ cScope c.q → c.wct < s.now) → c.tids.Nodup → (∀ u ∈ c.tids, (tfind s.threads u).isSome = true) →
       let vf := s.vfOf c.wg
       let ended := fun (t : State) => tfind t.cmds id = none ∧ ∀ u ∈ c.tids, (t.thr u).octCopy = (s.thr u).octCopy - 1
       let label := c.cmdLabel ||| if c.status = 0 then 0 else c.dataLabel
       (∀ cause, minOf ((counterFails s vf c.counter).map (·.1)) = some cause → ∃ t, exec (.copyCompletion id) s = .next t ∧ ended t ∧
         t.mem = s.mem) ∧
       (∀ k r, counterFails s vf c.counter = [] → rangeOf s vf c.counter = some (k, r) →
         let ia := iaOf r c.counter
         let old := leNat (readBytes (s.store (spaceOf r)) ia 8)
         pinHolders s (lineOf (spaceOf r) ia) = [] → (s.launchOf c.wg).replay = false → (s.launchOf c.wg).requeued = false →
         (∀ cause, memSide s vf (s.ctx vf).dom (spaceOf r) r ia true label = .refused cause → ∃ t, exec (.copyCompletion id) s = .next t ∧ ended t ∧
           t.mem = s.mem) ∧
         (memSide s vf (s.ctx vf).dom (spaceOf r) r ia true label = .ok s →
         ∃ t, exec (.copyCompletion id) s = .next t ∧ ended t ∧
           t.store (spaceOf r) = writeBytes (s.store (spaceOf r)) ia (leBytes ((old + cInc c.q) % 2 ^ 48 +
             (if c.status.getLsbD 4 = true ∧ old / 2 ^ 48 % 2 ^ 8 = 0 then c.refusal.toNat else old / 2 ^ 48 % 2 ^ 8) * 2 ^ 48 +
             (BitVec.ofNat 8 (old / 2 ^ 56) ||| c.status).toNat * 2 ^ 56) 8)))))

/-- The gate decides (R203 to R205, R365, R449): it reads the source piece by piece; once every byte is read, data whose label names at
most the destination's principal passes; other data needs a policy of its domain and label, unexpired, allowing the destination, with
budget, which it spends at once; else the refusal has the code of the first check that fails and nothing is written. In host-assisted
mode it then waits for the host's reply; a refusal by the host gives the budget back. -/
def Obligations.GateDecides : Prop := ∀ (s : State) (id : Nat) (c : CopyCmd) (k : Nat) (r : List DWord),
  let vf := s.vfOf c.wg
  let n := if cEmpty c.q then 0 else cRows c.q * cRowBytes c.q
  let st := c.status
  let l := c.dataLabel
  let pol := fun (t : State) => t.pkg.policies.find? fun p => decide (p.dom = (s.ctx vf).dom ∧ p.label = l)
  let single := l &&& (l - 1) = 0
  let assisted := bit (s.part (s.partOf vf)).mode.toNat 4
  tfind s.cmds id = some c → c.gate = true → c.decided = false →
  rangeOf s vf (d64 (bits (cDest c.q) 0 48)) = some (k, r) → cKind c.q = 0 →
  let refused := fun (code : BitVec 8) => ∃ t c', exec (.gateDecision id) s = .next t ∧ tfind t.cmds id = some c' ∧ c'.decided = true ∧
    c'.refused = true ∧ c'.refusal = code ∧ c'.status = st ||| 16 ∧ cmdWritten c' = true ∧ t = { s with cmds := t.cmds }
  let passed := fun (budgets : Prop) => ∃ t c', exec (.gateDecision id) s = .next t ∧ tfind t.cmds id = some c' ∧ c'.decided = !assisted ∧
    c'.asked = assisted ∧ c'.refused = c.refused ∧ c'.data = c.data ∧ (budgets → t.pkg.policies = s.pkg.policies) ∧
    (assisted = false → t = { s with cmds := t.cmds, pkg := t.pkg })
  (c.asked = false → c.data.length < n →
    (∀ s', gateRead s c = (s', none) → exec (.gateDecision id) s = .next s') ∧
    (∀ s' c1, gateRead s c = (s', some c1) →
      let s1 := { s' with cmds := tmod s'.cmds id fun _ => c1 }
      (c1.data.length < n → exec (.gateDecision id) s = .next s1) ∧
      (n ≤ c1.data.length → s'.cmds = s.cmds → exec (.gateDecision id) s = exec (.gateDecision id) s1))) ∧
  (c.asked = false → n ≤ c.data.length →
    (st ≠ 0 → refused 6) ∧ (st = 0 → spaceOf r = .mem → refused 4) ∧
    (st = 0 → spaceOf r ≠ .mem → single → l &&& ~~~(1#16 <<< prinOf r) ≠ 0 → refused 2) ∧
    (st = 0 → spaceOf r ≠ .mem → single → l &&& ~~~(1#16 <<< prinOf r) = 0 → passed True) ∧
    (st = 0 → spaceOf r ≠ .mem → ¬ single → pol s = none → refused 1) ∧
    (∀ p, st = 0 → spaceOf r ≠ .mem → ¬ single → pol s = some p →
      (p.expiry ≤ s.now → refused 3) ∧
      (s.now < p.expiry → p.dests.getLsbD (prinOf r) = false → refused 4) ∧
      (s.now < p.expiry → p.dests.getLsbD (prinOf r) = true → p.budget.toNat < n → refused 5) ∧
      (s.now < p.expiry → p.dests.getLsbD (prinOf r) = true → n ≤ p.budget.toNat → passed False ∧
        ∀ t, exec (.gateDecision id) s = .next t → pol t = some { p with budget := p.budget - d64 n }))) ∧
  (c.asked = true →
    (c.accepted = none → exec (.gateDecision id) s = .next s) ∧
    (c.accepted = some true → ∃ t, exec (.gateDecision id) s = .next t ∧ tfind t.cmds id = some { c with decided := true } ∧
      t = { s with cmds := t.cmds }) ∧
    (c.accepted = some false → ∃ t, exec (.gateDecision id) s = .next t ∧
      tfind t.cmds id = some { c with decided := true, refused := true, status := st ||| 16, refusal := 7 } ∧
      (∀ p, pol s = some p → pol t = some (if c.drawn = some p.serial then { p with budget := p.budget + d64 n } else p)) ∧
      t = { s with cmds := t.cmds, pkg := t.pkg }))

/-! ## The matrix path. -/

/-- GANG, MXPROG, MXPROG.clr and MXOP (R206, R207, R209, R214, R308): the conjunction register from a group register, or the trap; the
progress register read and cleared; a member that arrives before the others waits parked with its descriptor, and with no conjunction
traps with cause 0x0D. -/
def Obligations.MatrixWords : Prop := ∀ (s : State) (g : BitVec 4) (d p : BitVec 7) (f : BitVec 3),
  let q := gidOf (s.bundle.tids.headD 0)
  let x := s.grp q
  let others := fun (t : State) => ∀ k, k ≠ q → t.grp k = s.grp k
  (let i : Instr := .gang g d
   let r := readG s q d.toNat
   let v := r.val.toNat
   let good := bits v 39 25 = 0 ∧ bits v 35 1 = 0 ∧ 2 ≤ bits v 32 3 ∧ bits v 32 3 ≤ 6 ∧ bits v 36 3 < bits v 32 3
   clear i s = true →
     (r.plo = false → r.phi = false → good → ∃ t, exec i s = .next t ∧ t.bundle.pc = s.bundle.pc + 4 ∧ (t.grp q).conjKey = r.val.truncate 32 ∧
       (t.grp q).conjN.toNat = bits v 32 3 ∧ (t.grp q).conjPos.toNat = bits v 36 3 ∧ (t.grp q).lconj = sget 0 x.lg d.toNat ||| (t.grp q).ctx ∧
       others t ∧ t = { s with threads := t.threads, groups := t.groups, pipes := t.pipes }) ∧
     (r.plo = false → r.phi = false → ¬ good → ∀ u ∈ s.bundle.tids, failsWith i s u 0x0D) ∧
     (r.plo = true ∨ r.phi = true → ∀ u, u ∈ lanes i s ∨ (lanes i s = [] ∧ u ∈ s.bundle.tids) → failsWith i s u 0x12)) ∧
  (let i : Instr := .mxprog g d
   clear i s = true → ∃ t, exec i s = .next t ∧ Wrote i s t (.r d) (fun u =>
     let y := s.grp (gidOf u)
     [(if y.faulted then 0x80000000#32 else 0) ||| (if y.done then 0x40000000#32 else 0) ||| y.kdone.zeroExtend 32]) (fun _ => false) none) ∧
  (let i : Instr := .mxprogClr g
   clear i s = true → ∃ t, exec i s = .next t ∧ t.bundle.pc = s.bundle.pc + 4 ∧ (t.grp q).faulted = false ∧
     (t.grp q).done = false ∧ (t.grp q).kdone = 0 ∧ (t.grp q).progDesc = none ∧ others t ∧ (∀ u, (t.thr u).regs = (s.thr u).regs) ∧
     t = { s with threads := t.threads, groups := t.groups, pipes := t.pipes }) ∧
  (let i : Instr := .mxop g d p f
   clear i s = true →
     (x.conjN = 0 → ∀ u ∈ s.bundle.tids, failsWith i s u 0x0D) ∧
     (x.conjN ≠ 0 → octFull s .tile (lanes i s) = true → exec i s = .next (stallPipe (entered i s) s.turn)) ∧
     (2 ≤ x.conjN.toNat → octFull s .tile (lanes i s) = false → (∀ e ∈ s.groups, e.1 ≠ q → e.2.arrival = none) →
       (s.groups.map (·.1)).Nodup → (∀ u ∈ liveOf s q, u ∈ s.bundle.tids) →
       ∃ t, exec i s = .next t ∧ tfind t.pipes s.turn = none ∧ t.mxops = s.mxops ∧
         (∀ u ∈ s.bundle.tids, (t.thr u).picker = .parked ∧ (t.thr u).pc = s.bundle.pc ∧ (t.thr u).regs = (s.thr u).regs) ∧
         (t.grp q).arrival = some { word := [f.toNat, p.toNat, d.toNat, g.toNat], desc := (List.range 4).map fun j => readG s q (d.toNat + j)
                                    counting := lanes i s, pc := s.bundle.pc
                                    label := orAll ((List.range 4).map fun j => sget 0 x.lg (d.toNat + j)) }))

/-- The rendezvous is complete (R207, R210, R212): members with different words trap with cause 0x0D; a failing check traps every member
with the smallest cause; else the operation starts, its members leave the rendezvous and their counting threads count it.

The array's steps (R212, R213, R217, R236, R238, R250, R309): a host starts in its turn, its elements at +0.0 unless they accumulate;
it reads each operand unit of its block once, and a block read whole is summed while the next is read; the last host to drain a block
commits it in every element of the tile, and the operation ends with its last block; a failed residue check stops it with cause 0x13,
an operand or element that cannot be read with cause 0x18; a bank waits for AMFREE until no operation writes it. What is promoted from
the sums of a block is what its rows and columns give (R244). -/
def Obligations.MatrixSteps : Prop :=
  (∀ (s : State) (ms : List Nat) (a : MxArrival) (f p : Nat),
     ms ≠ [] → ms.Nodup → (∀ q ∈ ms, (tfind s.groups q).isSome = true) → (s.grp (ms.headD 0)).arrival = some a →
     let word := fun q => (s.grp q).arrival.map fun b => (b.word, b.desc.map (·.val))
     let d := a.desc.map (·.val)
     (∀ q ∈ ms, (s.grp q).faulted = false) →
     ((∃ q ∈ ms, word q ≠ word (ms.headD 0)) → fireGang s ms = ms.foldl (fun s q => trapMember s q 0x0D 0) s) ∧
     (a.word.headD 0 = f → (a.word.drop 1).headD 0 + 1 = p → (∀ q ∈ ms, word q = word (ms.headD 0)) →
       (mxFails s ms f p d = [] → (∀ q ∈ ms, ∀ u ∈ liveOf s q, (tfind s.threads u).isSome = true) →
         let t := fireGang s ms
         ∃ o, tfind t.mxops s.fresh = some o ∧ o.fmt = f ∧ o.p = p ∧ o.desc = d ∧ o.members = ms ∧ o.pc = a.pc ∧ o.kdone = 0 ∧
           o.key = (s.grp (ms.headD 0)).conjKey ∧
           (∀ q ∈ ms, (t.grp q).mx = some s.fresh ∧ (t.grp q).arrival = none ∧ (t.grp q).faulted = false ∧ (t.grp q).done = false) ∧
           t.mem = s.mem) ∧
       (∀ c, minOf ((mxFails s ms f p d).map (·.1)) = some c → c ≠ 3 → c ≠ 4 →
         fireGang s ms = ms.foldl (fun s q => trapMember s q c 0) s))) ∧
  (∀ (s : State),
     (∀ id o k h, tfind s.mxops id = some o → o.hosts[k]? = some h → h.started = false →
       let before := ∃ e ∈ s.mxops, e.1 ≠ id ∧ (∀ g ∈ e.2.members, frozenWg s (g / 16) = false) ∧ ∃ x ∈ e.2.hosts, x.cid = h.cid ∧
         (x.started = true ∨ keyBefore (opKey s e.1 e.2) (opKey s id o) = true)
       (o.at_ < s.cycle → ¬ before → ∃ t o', exec (.mxopHostStart id k) s = .next t ∧ tfind t.mxops id = some o' ∧
         o'.hosts[k]? = some { h with started := true, load := some { k := o.kdone } } ∧
         (dAcc o.desc = false → o.resumed = false → ∀ e ∈ tileKeys o k, sget 0 (t.cu h.cid).am e = 0) ∧
         (dAcc o.desc = true ∨ o.resumed = true → t.cus = s.cus) ∧ t = { s with mxops := t.mxops, cus := t.cus }) ∧
       (s.cycle ≤ o.at_ ∨ before → exec (.mxopHostStart id k) s = .next s)) ∧
     (∀ id o k h b unit key, tfind s.mxops id = some o → o.hosts[k]? = some h → h.started = true → h.load = some b →
       (mxUnits o k b.k)[unit]? = some key →
       (tfind b.got key ≠ none → exec (.mxopPromotion id (k, unit)) s = .next s) ∧
       (tfind b.got key = none →
         let r := readUnit s (s.wg h.firstWg).launch (s.vfOf h.firstWg) h.firstWg key
         let got := tput b.got key
         (r.unit = none → exec (.mxopPromotion id (k, unit)) s = .next r.st) ∧
         (∀ u, r.unit = some u → r.st.mxops = s.mxops → ∃ t o' h', exec (.mxopPromotion id (k, unit)) s = .next t ∧
           tfind t.mxops id = some o' ∧ o'.hosts[k]? = some h' ∧ o'.label = o.label ||| r.label ∧ o'.kdone = o.kdone ∧ h'.staged = h.staged ∧
           ((∃ v ∈ mxUnits o k b.k, tfind (got u) v = none) ∨ h.full ≠ none → h'.load = some { b with got := got u } ∧ h'.full = h.full) ∧
           ((∀ v ∈ mxUnits o k b.k, tfind (got u) v ≠ none) → h.full = none → h'.full = some (sumBlock o k { b with got := got u }) ∧
             h'.load = (if b.k + o.p < dK o.desc then some { k := b.k + o.p } else none)) ∧
           t.mem = r.st.mem ∧ ∀ c, (t.cu c).am = (r.st.cu c).am))) ∧
     (∀ id o k h b unit, tfind s.mxops id = some o → o.hosts[k]? = some h → h.started = true → h.staged = none →
       (∀ l, h.load = some l → (mxUnits o k l.k).length ≤ unit) → (hostSums o k h).full = some b →
       let run := exec (.mxopPromotion id (k, unit)) s
       let first := (b.passes[0]?).getD { rows := [], cols := [], cells := [] }
       let sound := b.passes.all passOk = true
       let clean := sound ∧ b.fails = [] ∧ b.spadFails = [] ∧ tileBad s o k h.cid = false
       (b.k ≠ o.kdone → run = .next s) ∧
       (b.k = o.kdone → clean → (∃ y ∈ o.hosts, y.staged = none ∧ y.cid ≠ h.cid) → ∃ t o' h' x, run = .next t ∧ tfind t.mxops id = some o' ∧
         o'.hosts[k]? = some h' ∧ h'.staged = some x ∧ o'.kdone = o.kdone ∧ t = { s with mxops := t.mxops }) ∧
       ((o.hosts.map (·.cid)).Nodup → (∀ q ∈ o.members, (tfind s.groups q).isSome = true ∧ (s.grp q).arrival = none) → b.k = o.kdone →
         (∀ j y, o.hosts[j]? = some y → j ≠ k → ∃ z, y.staged = some z ∧ z.residue = false ∧ z.fails = [] ∧ z.spadFails = [] ∧ z.amBad = false) →
         (clean → first.cols.length ≤ 128 → ∃ t, run = .next t ∧
           (∀ i j x y, first.rows[i]? = some x → first.cols[j]? = some y →
             let e := tileKey (dBank o.desc) i j
             sget 0 (t.cu h.cid).am e =
               w32 (promoteX o.fmt x y (b.passes.map fun z => passDrain z i j) (sget 0 (s.cu h.cid).am e).toNat).1) ∧
           (∀ e, (∀ i j, i < first.rows.length → j < first.cols.length → e ≠ tileKey (dBank o.desc) i j) →
             sget 0 (t.cu h.cid).am e = sget 0 (s.cu h.cid).am e) ∧
           (o.kdone + o.p < dK o.desc → ∃ o', tfind t.mxops id = some o' ∧ o'.kdone = o.kdone + o.p ∧ ∀ y ∈ o'.hosts, y.staged = none) ∧
           (dK o.desc ≤ o.kdone + o.p → tfind t.mxops id = none ∧ ∀ q ∈ o.members, (t.grp q).done = true ∧ (t.grp q).faulted = false ∧
             (t.grp q).mx = none ∧ (t.grp q).kdone = BitVec.ofNat 16 (dK o.desc))) ∧
         (∀ c x, (¬ sound ∧ c = 0x13 ∧ x = 0) ∨ (sound ∧ minOf b.fails = some x ∧ c = 0x18) ∨
             (sound ∧ b.fails = [] ∧ minOf b.spadFails = some x ∧ c = 0x18) ∨
             (sound ∧ b.fails = [] ∧ b.spadFails = [] ∧ tileBad s o k h.cid = true ∧ c = 0x18 ∧ x = 0) →
           o.members.Nodup → o.counting.Nodup → (∀ u ∈ o.counting, (tfind s.threads u).isSome = true ∧ alive (s.thr u) = true) →
           ∃ t, run = .next t ∧ tfind t.mxops id = none ∧ t.cus = s.cus ∧
             (∀ q ∈ o.members, (t.grp q).faulted = true ∧ (t.grp q).done = false ∧ (t.grp q).mx = none ∧ (t.grp q).kdone = BitVec.ofNat 16 o.kdone) ∧
             ∀ u ∈ o.counting, (t.thr u).octTile = (s.thr u).octTile - 1 ∧
               (t.thr u).tiles = (s.thr u).tiles ++ [{ flags := o.flags, label := o.label, cause := some c, pc := o.pc, addr := d64 x }]))) ∧
     (∀ cid b x, (bankOf s cid b).waits = [x] → x.zero = false → bankHolder (bankOf s cid b).state = some (x.gid / 16) →
       (mxWrites s cid b = false → ∃ t, exec (.amBankRelease cid b) s = .next t ∧ (bankOf t cid b).state = .free ∧ (bankOf t cid b).waits = [] ∧
         (∀ k, k ≠ b → bankOf t cid k = bankOf s cid k) ∧ t.mem = s.mem) ∧
       (mxWrites s cid b = true → exec (.amBankRelease cid b) s = .next s))) ∧
  (∀ (o : MxOp) (k : Nat) (l : MxLoad) (i j : Nat) (x y : Lane) (z : Nat),
     (loadedLanes o k l false)[i]? = some x → (loadedLanes o k l true)[j]? = some y →
     promoteX o.fmt (edgeOf x x.words) (edgeOf y y.words) ((sumBlock o k l).passes.map fun p => passDrain p i j) z = promote o.fmt x y z ∧
     (sumBlock o k l).passes.head?.map (fun p => (p.rows[i]?, p.cols[j]?)) = some (some (edgeOf x x.words), some (edgeOf y y.words)))

/-- The squarer array computes products from squares (R234, R237): what a cell drains for a row's and a column's words is their inner
product, as long as that fits 31 bits. -/
def Obligations.DrainIsInnerProduct : Prop := ∀ (as bs : List Int), as.length = bs.length →
  ∀ dot : Int, dot = ((as.zip bs).map fun e => e.1 * e.2).sum → -(2 ^ 30 : Int) ≤ dot → dot < 2 ^ 30 → drained as bs = dot

/-- AMALLOC, AMFREE, AMZERO, AMRD, AMWR (R215 to R219): the lowest run of free banks, or all ones; banks of the workgroup freed or
zeroed; elements read and written in banks a thread may reach, +0.0 or dropped elsewhere, with sr.amstat set. -/
def Obligations.AccumulatorWords : Prop := ∀ (s : State) (g : BitVec 4) (d n a : BitVec 7),
  let w := gidOf (s.bundle.tids.headD 0) / 16
  let cid := (s.wg w).cid
  let bank := bankOf s cid
  let el := fun u => amAddr s u (rv s u a).toNat
  let reach := fun u => amAccess s u (el u).1 (el u).2.1 (el u).2.2.1
  let key := fun u => amKey (el u).2.1 (el u).2.2.1 (el u).2.2.2
  (let i : Instr := .amalloc g d n
   let run := fun b => b + n.toNat ≤ 32 ∧ ∀ k, k < n.toNat → (bank (b + k)).state = .free
   clear i s = true →
     (banksHeld s w + n.toNat ≤ (s.wg w).hdr.ambanks → ∀ b, run b → (∀ k, k < b → ¬ run k) → ∃ t, exec i s = .next t ∧
       (∀ k, bankOf t cid k = if b ≤ k ∧ k < b + n.toNat then { state := .held w } else bank k) ∧
       (∀ k r c, r < 8 → c < 128 → sget 0 (t.cu cid).am (amKey k r c) = if b ≤ k ∧ k < b + n.toNat then 0 else sget 0 (s.cu cid).am (amKey k r c)) ∧
       (d.toNat < 116 → ∀ u ∈ lanes i s, sget {} (t.thr u).regs d.toNat = { val := w32 b }) ∧ t.bundle.pc = s.bundle.pc + 4) ∧
     (banksHeld s w + n.toNat ≤ (s.wg w).hdr.ambanks → (∀ b, ¬ run b) → ∃ t, exec i s = .next t ∧ t.cus = s.cus ∧
       (d.toNat < 116 → ∀ u ∈ lanes i s, sget {} (t.thr u).regs d.toNat = { val := 0xFFFFFFFF#32 }) ∧ t.bundle.pc = s.bundle.pc + 4) ∧
     ((s.wg w).hdr.ambanks < banksHeld s w + n.toNat → ∀ u ∈ s.bundle.tids, failsWith i s u 0x02)) ∧
  (let bankWord := fun (i : Instr) (zero : Bool) => clear i s = true → ∀ low, minOf (lanes i s) = some low →
     let b0 := (rv s low d).toNat
     let mine := fun b => b0 ≤ b ∧ b < b0 + n.toNat ∧ b < 32 ∧ bankHolder (bank b).state = some w
     ((readReg s low d.toNat).poison = true → ∀ u ∈ lanes i s, failsWith i s u 0x12) ∧
     ((readReg s low d.toNat).poison = false → (∀ b, mine b → mxWrites s cid b = false) → ∃ t, exec i s = .next t ∧
       t.bundle.pc = s.bundle.pc + 4 ∧ t = { s with threads := t.threads, groups := t.groups, pipes := t.pipes, cus := t.cus } ∧
       (∀ b, (mine b → (bankOf t cid b).state = (if zero then .held w else .free)) ∧ (¬ mine b → bankOf t cid b = bank b)) ∧
       ∀ b r c, r < 8 → c < 128 → (mine b → zero = true → sget 0 (t.cu cid).am (amKey b r c) = 0) ∧
         (¬ mine b ∨ zero = false → sget 0 (t.cu cid).am (amKey b r c) = sget 0 (s.cu cid).am (amKey b r c)))
   bankWord (.amfree g d n) false ∧ bankWord (.amzero g d n) true) ∧
  (let i : Instr := .amrd g d a
   clear i s = true → (∀ c, (s.cu c).amBad = []) → kindFull s .amRead (lanes i s) = false →
     ((∀ u ∈ lanes i s, (readReg s u a.toNat).poison = false ∧ reach u ≠ none) → ∃ t, exec i s = .next t ∧
       Issued i s t .amRead (some (.r d)) (fun u x => x.stage = .returned ∧
         x.result = [{ val := if reach u = some true then sget 0 (s.cu (el u).1).am (key u) else 0 }] ∧
         x.resLabel = if reach u = some true then (bankOf s (el u).1 (el u).2.1).label else 0) ∧
       ∀ u ∈ lanes i s, (t.thr u).unalloc = ((s.thr u).unalloc || decide (reach u = some false))) ∧
     (∀ u ∈ lanes i s, reach u = none → failsWith i s u 0x0F) ∧
     (∀ u ∈ lanes i s, (readReg s u a.toNat).poison = true → failsWith i s u 0x12)) ∧
  (let i : Instr := .amwr g d a
   clear i s = true →
     ((∀ u ∈ lanes i s, (readReg s u a.toNat).poison = false ∧ (readReg s u d.toNat).poison = false ∧ reach u ≠ none) →
       ∃ t, exec i s = .next t ∧ t.bundle.pc = s.bundle.pc + 4 ∧ t = { s with threads := t.threads, groups := t.groups, pipes := t.pipes, cus := t.cus } ∧
         (∀ u ∈ lanes i s, reach u = some true → (∀ v ∈ lanes i s, reach v = some true → (el v).1 = (el u).1 → key v = key u → laneBefore v u = true ∨ v = u) →
           sget 0 (t.cu (el u).1).am (key u) = rv s u d) ∧
         (∀ c k, (∀ u ∈ lanes i s, reach u = some true → (el u).1 = c → key u ≠ k) → sget 0 (t.cu c).am k = sget 0 (s.cu c).am k) ∧
         ∀ u ∈ lanes i s, (t.thr u).unalloc = ((s.thr u).unalloc || decide (reach u = some false))) ∧
     (∀ u ∈ lanes i s, reach u = none → failsWith i s u 0x0F))

/-! ## Textures, rays, lists, fragments. -/

/-- TEX, TEXQ, TRACE and FLWALK at issue (R221 to R224, R231): each lane's request is in flight with its operand words, toward its
registers; a poisoned operand word traps with cause 0x12, but in TEXQ, which never faults; a full count stalls.

Absent tables never fault (R222, R224): a sample through a workgroup without texture table arrives as zeros with p7 false, a ray
without structure table as an end at an unreadable node. -/
def Obligations.TextureAndWalkWords : Prop :=
  (∀ (s : State) (g : BitVec 4) (d a : BitVec 7),
     let x := fun (u k : Nat) => (readReg s u (a.toNat + k)).val.toNat
     let bad := fun (u n : Nat) => (List.range n).any fun k => (readReg s u (a.toNat + k)).poison
     let word := fun (i : Instr) (k : AccKind) (dst : Opnd) (n : Nat) (chk : Nat → Access → Prop) => clear i s = true →
       (kindFull s k (lanes i s) = true → exec i s = .next (stallPipe (entered i s) s.turn)) ∧
       (kindFull s k (lanes i s) = false →
         ((∀ u ∈ lanes i s, bad u n = false) → ∃ t, exec i s = .next t ∧ Issued i s t k (some dst) fun u y => y.stage = .issued ∧ chk u y) ∧
         (∀ u ∈ lanes i s, bad u n = true → failsWith i s u 0x12))
     let tex := fun (i : Instr) (form n : Nat) => word i .tex (.quad d) n fun u y =>
       y.op = form ∧ y.aux.take 5 = [x u 0, x u 1, x u 2, x u 3, x u 4] ∧ (form = 3 → y.aux.drop 7 = [x u 4, x u 5, 0, x u 6, x u 7, 0])
     let texq := fun (i : Instr) (form : Nat) (dst : Opnd) => clear i s = true →
       (kindFull s .tex (lanes i s) = true → exec i s = .next (stallPipe (entered i s) s.turn)) ∧
       (kindFull s .tex (lanes i s) = false → ∃ t, exec i s = .next t ∧ Issued i s t .tex (some dst) fun u y => y.stage = .issued ∧ y.op = form ∧
         y.aux = [x u 0, x u 1, x u 2, x u 3, if bad u 4 then 1 else 0])
     tex (.tex g d a) 0 4 ∧ tex (.texL g d a) 1 5 ∧ tex (.texB g d a) 2 5 ∧ tex (.texG g d a) 3 8 ∧ tex (.texGather g d a) 4 4 ∧
     texq (.texqMinlod g d a) 5 (.r d) ∧ texq (.texqSize g d a) 6 (.quad d) ∧
     word (.trace g d a) .walk (.quad d) 8 (fun u y => y.op = 1 ∧ y.aux = [x u 0, x u 1, x u 2, x u 3, x u 4, x u 5, x u 6, x u 7]) ∧
     (let i : Instr := .flwalk g d a
      clear i s = true → kindFull s .walk (lanes i s) = false →
        ((∀ u ∈ lanes i s, a = 116#7 ∨ (readReg s u a.toNat).poison = false) → ∃ t, exec i s = .next t ∧
          Issued i s t .walk (some (.quad d)) fun u y => y.op = 0 ∧ y.stage = .issued ∧
            (a ≠ 116#7 → y.ia = x u 0 ∧ y.aux.head? = some (x u 1)) ∧ (a = 116#7 → y.aux.head? = some 0)) ∧
        (a ≠ 116#7 → ∀ u ∈ lanes i s, (readReg s u a.toNat).poison = true → failsWith i s u 0x12))) ∧
  (∀ (s : State) (id : Nat) (a : Access),
     tfind s.accs id = some a → a.stage = .issued → a.dest.Nodup → a.dest.length = 4 → (∀ f ∈ a.dest, f < 112) → a.pred = none →
     (tfind s.threads a.tid).isSome = true → (tfind s.groups (gidOf a.tid)).isSome = true →
     (a.kind = .tex → a.op < 5 → (s.wg (wgOf a.tid)).textab = 0 → ∃ t, exec (.loadValueArrival id) s = .next t ∧ tfind t.accs id = none ∧
       (∀ f ∈ a.dest, sget {} (t.thr a.tid).regs f = {} ∧ sbBit (t.thr a.tid) f = false) ∧ sget {} (t.thr a.tid).preds 7 = { val := false } ∧
       (t.thr a.tid).octLoad = (s.thr a.tid).octLoad - 1) ∧
     (a.kind = .walk → a.op = 1 → (s.wg (wgOf a.tid)).astab = 0 → ∃ t, exec (.loadValueArrival id) s = .next t ∧ tfind t.accs id = none ∧
       (∀ e ∈ a.dest.zip [0x7F800000#32, 0xFFFFFFFE#32, 0, 0], sget {} (t.thr a.tid).regs e.1 = { val := e.2 } ∧ sbBit (t.thr a.tid) e.1 = false) ∧
       (t.thr a.tid).octLoad = (s.thr a.tid).octLoad - 1))

/-- FLSET, FLINS and TRACE.append at issue (R225 to R227, R230): each lane whose key lies in a pass with lists has one insertion in
flight, counted as a store but for FLSET; the others are dropped; a poisoned key, or word of a quad or octet, traps.

One key's list (R383, R384): a node goes after every node that is nearer, or as near with no higher sequence, and before the rest;
merging stops at the budget, keeps the nearer nodes as they are, and returns as many indices as it joins. -/
def Obligations.ListWordsAndOrder : Prop :=
  (∀ (s : State) (g : BitVec 4) (k a : BitVec 7),
     let x := fun (u j : Nat) => (readReg s u (a.toNat + j)).val.toNat
     let word := fun (i : Instr) (op : Nat) (data : Option Opnd) (ws : Nat → List Nat) => clear i s = true →
       let full := op ≠ 1 ∧ kindFull s .insert (lanes i s) = true
       let sound := fun u => (readReg s u k.toNat).poison = false ∧ ∀ o, data = some o → anyPoison (readOpnd s u o) = false
       let at_ := fun u => listLane s k u
       (full → exec i s = .next (stallPipe (entered i s) s.turn)) ∧
       (¬ full → (∀ u ∈ lanes i s, sound u) → ∃ t, exec i s = .next t ∧ t.bundle.pc = s.bundle.pc + 4 ∧
         (∀ u ∈ lanes i s, ∀ v, at_ u = some v → ∃ n y, s.fresh ≤ n ∧ tfind t.accs n = some y ∧ y.kind = .insert ∧ y.tid = u ∧ y.op = op ∧
           y.ia = v ∧ y.aux = ws u ∧ y.label = outLabel i s (gidOf u) ∧ y.dest = []) ∧
         (∀ u ∈ lanes i s, (t.thr u).octStore = (s.thr u).octStore + if op ≠ 1 ∧ (at_ u).isSome then 1 else 0) ∧
         (∀ n, n < s.fresh → tfind t.accs n = tfind s.accs n) ∧ (∀ u, (t.thr u).regs = (s.thr u).regs) ∧
         t = { s with threads := t.threads, groups := t.groups, pipes := t.pipes, accs := t.accs, fresh := t.fresh }) ∧
       (¬ full → ∀ u ∈ lanes i s, ¬ sound u → failsWith i s u 0x12)
     word (.flset g k a) 1 none (fun u => [x u 0]) ∧ word (.flins g k a) 0 (some (.quad a)) (fun u => [x u 0, x u 1, x u 2, x u 3, seqOf s u]) ∧
     word (.traceAppend g k a) 2 (some (.oct a)) (fun u => [x u 0, x u 1, x u 2, x u 3, x u 4, x u 5, x u 6, x u 7, seqOf s u])) ∧
  ((∀ (n : LNode) (l : List LNode), ∃ a b, l = a ++ b ∧ placeNode n l = a ++ n :: b ∧
       (∀ x ∈ a, depthLt x.depth n.depth = true ∨ (depthLt n.depth x.depth = false ∧ x.seq ≤ n.seq)) ∧
       ∀ x, b.head? = some x → ¬ (depthLt x.depth n.depth = true ∨ (depthLt n.depth x.depth = false ∧ x.seq ≤ n.seq))) ∧
     ∀ (rule budget : Nat) (l : List LNode), 1 ≤ budget → l.length ≤ 16 →
       let r := mergeDown rule budget 16 l
       r.1.length = min budget l.length ∧ r.1.take (min budget l.length - 1) = l.take (min budget l.length - 1) ∧
       ((∀ x ∈ l, x.idx.isSome = true) → r.2.length = l.length - r.1.length))

/-- OCENTER, OCLEAVE and OCSKIP (R228, R229): the wait for the clause in the lanes that do not hold it; cause 0x10 where the key is not
the fragment's or the fragment is popped; the pop, after the release of OCLEAVE.

EXIT and DISCARD (R133, R229, R232, R376): the lanes end, with their holds, return stacks and clauses gone and their fragments ended;
a discarded fragment writes nothing; the other threads of the bundle go on. -/
def Obligations.ClauseAndThreadEndWords : Prop :=
  (∀ (s : State) (g : BitVec 4) (k : BitVec 7),
     let frag := fun u => fragOf s u
     let fits := fun u => ∃ f x, frag u = some (f, x) ∧ (keyIn? s u k).map keyOf = some (keyOf (fragKey x)) ∧ x.registered = true ∧ x.popped = false
     let sound := fun u => k = 116#7 ∨ (readReg s u k.toNat).poison = false
     let released := fun (i : Instr) => ∀ u ∈ lanes i s, registeredNow s u = true → storesDone s u = true ∧ narrowPins s (wgOf u) .core = []
     let pops := fun (i : Instr) => ∃ t, exec i s = .next t ∧ t.bundle.pc = s.bundle.pc + 4 ∧ (∀ u, (t.thr u).regs = (s.thr u).regs) ∧
       (∀ u ∈ lanes i s, ∀ f x, frag u = some (f, x) → ∃ y, tfind t.frags f = some y ∧ y = { x with popped := true, holding := false }) ∧
       (∀ f, (∀ u ∈ lanes i s, (s.thr u).frag ≠ some f) → tfind t.frags f = tfind s.frags f) ∧
       t = { s with threads := t.threads, groups := t.groups, pipes := t.pipes, frags := t.frags }
     (let i : Instr := .ocenter g k
      clear i s = true →
        ((∀ u ∈ lanes i s, sound u ∧ fits u) → ∃ t, exec i s = .next t ∧ t.bundle.pc = s.bundle.pc + 4 ∧
          (∀ u ∈ lanes i s, (t.thr u).holds = (s.thr u).holds ++ if holdsClause s u then [] else [.clause]) ∧
          (∀ u, (t.thr u).regs = (s.thr u).regs) ∧ t = { s with threads := t.threads, groups := t.groups, pipes := t.pipes }) ∧
        (∀ u ∈ lanes i s, ¬ sound u → failsWith i s u 0x12) ∧ (∀ u ∈ lanes i s, sound u → ¬ fits u → failsWith i s u 0x10)) ∧
     (let i : Instr := .ocleave g
      clear i s = true → (released i → pops i) ∧
        ((∃ u ∈ lanes i s, registeredNow s u = true ∧ storesDone s u = false) → exec i s = .next (stallPipe (entered i s) s.turn))) ∧
     (clear (.ocskip g) s = true → pops (.ocskip g))) ∧
  (∀ (s : State) (g : BitVec 4),
     let ends := fun (i : Instr) (drop : Bool) => clear i s = true →
       ((∃ u ∈ lanes i s, registeredNow s u = true ∧ storesDone s u = false) → exec i s = .next (stallPipe (entered i s) s.turn)) ∧
       ((∀ u ∈ lanes i s, registeredNow s u = true → storesDone s u = true ∧ narrowPins s (wgOf u) .core = []) →
       (∀ e ∈ s.threads, e.2.picker ≠ .parked) → ∃ t, exec i s = .next t ∧
         (∀ u ∈ lanes i s, (t.thr u).picker = .exited ∧ (t.thr u).holds = [] ∧ (t.thr u).rstack = [] ∧ (t.thr u).deferred = none) ∧
         (∀ e ∈ t.pipes, ∀ u ∈ lanes i s, u ∉ e.2.tids) ∧
         (∀ u ∈ s.bundle.tids, u ∉ lanes i s → (t.thr u).picker = (s.thr u).picker ∧ (t.thr u).regs = (s.thr u).regs ∧
           ∃ b, tfind t.pipes s.turn = some b ∧ u ∈ b.tids ∧ b.pc = s.bundle.pc + 4) ∧
         (∀ u ∈ lanes i s, ∀ f x, fragOf s u = some (f, x) → ∃ y, tfind t.frags f = some y ∧ y.ended = true ∧ y.holding = false ∧
           (drop = true → y.discarded = true ∧ y.outs = [])) ∧
         t.mem = s.mem)
     ends (.exit g) false ∧ ends (.discard g) true)

/-- PIXOUT and INTERP (R232): the colour a fragment has for a render target; the attribute of its triangle at its position. -/
def Obligations.FragmentWords : Prop := ∀ (s : State) (g : BitVec 4) (d n : BitVec 7) (m : BitVec 2) (l : BitVec 5),
  (let i : Instr := .pixout g d n
   clear i s = true →
     ((∀ u ∈ lanes i s, anyPoison (readOpnd s u (.quad d)) = false) → (∀ u ∈ lanes i s, ∀ v ∈ lanes i s, ∀ f, (s.thr u).frag = some f → (s.thr v).frag = some f → u = v) →
       ∃ t, exec i s = .next t ∧ t.bundle.pc = s.bundle.pc + 4 ∧
       (∀ u ∈ lanes i s, ∀ f x, fragOf s u = some (f, x) → ∃ y, tfind t.frags f = some y ∧
         tfind y.outs n.toNat = some ((List.range 4).map fun j => (readReg s u (d.toNat + j)).val) ∧
         (∀ k, k ≠ n.toNat → tfind y.outs k = tfind x.outs k) ∧ y.label = x.label ||| outLabel i s (gidOf u)) ∧
       (∀ u, (t.thr u).regs = (s.thr u).regs) ∧ t = { s with threads := t.threads, groups := t.groups, pipes := t.pipes, frags := t.frags }) ∧
     (∀ u ∈ lanes i s, anyPoison (readOpnd s u (.quad d)) = true → failsWith i s u 0x12)) ∧
  (let i : Instr := .interp g d m l
   clear i s = true → ∀ (val : Nat → Nat), (∀ u ∈ lanes i s, ∃ f x tr p e, fragOf s u = some (f, x) ∧ triOf s x = some tr ∧
       passOf s x.launch = some (e, p) ∧ l.toNat < (s.launch x.launch).nattr ∧
       (m = 0 → val u = fm (planeAt ((tr.attrs[l.toNat]?).getD []) x.px.toNat x.py.toNat) (rcp (planeAt tr.wplane x.px.toNat x.py.toNat))) ∧
       (m = 1 → val u = planeAt ((tr.lin[l.toNat]?).getD []) x.px.toNat x.py.toNat) ∧
       (m = 2 → val u = ((tr.flat[l.toNat]?).getD 0).toNat) ∧
       (m = 3 → val u = fm (planeAt ((tr.attrs[l.toNat]?).getD []) (centroidOf p x).1 (centroidOf p x).2)
         (rcp (planeAt tr.wplane (centroidOf p x).1 (centroidOf p x).2)))) →
     ∃ t, exec i s = .next t ∧ Wrote i s t (.r d) (fun u => [w32 (val u)]) (fun _ => false) none)

/-! ## The steps of the memory side and the picker. -/

/-- A line is fetched, and a store performed, at the home (R152, R158, R160, R163, R167, R278, R279, R288, R291): the loads of one word
that the line serves take its bytes and label with their thread's own stores over them, and the CU a leased copy; a prefetch leaves
the copy only; the bytes of a store, once for all lanes that write them, are in memory, the page's label raised, the write-completion
time on its way; a release of scope wg or core, and a store to a line that its CU or core has pinned, writes the pin instead; an
access that the memory side refuses is refused, one that meets a pin of others is retried. -/
def Obligations.HomePerformsAccesses : Prop := ∀ (s : State) (id : Nat) (a : Access), tfind s.accs id = some a → (s.accs.map (·.1)).Nodup →
  let cid := s.cidOf a.tid
  let line := lineOf a.space a.ia
  let r := rangeRec s (s.vfOf (wgOf a.tid)) a.range
  let side := fun wr l => memSide s (s.vfOf (wgOf a.tid)) (s.grp (gidOf a.tid)).dom a.space r a.ia wr l
  let pinned := pinnedElsewhere s (ownHolders cid) line = true ∧ ownPin s cid line = none
  let stays := fun (t : State) (l : List (Nat × Access)) => (∀ k, k ∉ l.map (·.1) → tfind t.accs k = tfind s.accs k) ∧ t.mem = s.mem ∧ t.threads = s.threads
  let staged := fun (t : State) (l : List (Nat × Access)) (x : Stage) => (∀ e ∈ l, tfind t.accs e.1 = some { e.2 with stage := x }) ∧ stays t l
  (fetchEnabled s id a = true → (∀ e ∈ fetchGroup s a, e.2.fwd = none) →
    let grp := fetchGroup s a
    let run := exec (.homeFetch id) s
    let loaded := fun (t : State) (v : LineView) => stays t grp ∧ (a.kind = .fetch → ∀ e ∈ grp, tfind t.accs e.1 = none) ∧
      (a.kind = .load → ∀ e ∈ grp,
        let f := forward s e.2.tid e.1 e.2.space e.2.ia (v.part (e.2.ia % 64) e.2.width)
        tfind t.accs e.1 = some { e.2 with stage := .returned, resLabel := v.label ||| f.2, result := cellsOfPart f.1 e.2.width e.2.signed })
    let bytes := readBytes (s.store a.space) (a.ia / 64 * 64) 64
    let label := storedLabel s a.space r a.ia
    (letThrough s a false 0 → soundMemory s → ∃ t, run = .next t ∧ loaded t { bytes := bytes, bad := [], label := label } ∧
      (skipsL1 a = false → ∃ c, tfind (t.cu cid).l1 line = some c ∧ c.bytes = bytes ∧ c.label = label ∧ c.bad = [] ∧
        (c.leaseEnd + if peerLine s line then 2 else 0) ≤ (leaseOf t line).le)) ∧
    (∀ h p, ownPin s cid line = some (h, p) → ∃ t, run = .next t ∧ loaded t { bytes := p.bytes, bad := p.bad, label := p.label ||| label }) ∧
    (pinned → ∃ t, run = .next t ∧ staged t grp .retry) ∧
    (∀ c, pinHolders s line = [] → side false 0 = .refused c →
      (a.kind = .load → ∃ t, run = .next t ∧ staged t grp (.refused c)) ∧
      (a.kind = .fetch → ∃ t, run = .next t ∧ stays t grp ∧ ∀ e ∈ grp, tfind t.accs e.1 = none))) ∧
  (writeEnabled s id a = true →
    let grp := mergeGroup s id a
    let label := orAll (grp.map (·.2.label))
    let run := exec (.homeWrite id) s
    let bytes := leBytes a.data a.width
    let storedIn := fun (l : List Byte) => l.take (a.ia % 64) ++ bytes ++ l.drop (a.ia % 64 + bytes.length)
    (letThrough s a true label → a.engine = none ∨ (s.wg (wgOf a.tid)).ended = true → ∃ t, run = .next t ∧
      t.store a.space = writeBytes (s.store a.space) a.ia bytes ∧
      (∀ e ∈ grp, tfind t.accs e.1 = some { e.2 with stage := .returned, wct := writtenAt s line }) ∧
      (∀ k, k ∉ grp.map (·.1) → tfind t.accs k = tfind s.accs k) ∧
      (a.space = .mem → (t.page a.ia).label = (s.page a.ia).label ||| label ∧ (t.page a.ia).dirty = true) ∧ t.threads = s.threads) ∧
    (∀ h, letThrough s a true label → grp = [(id, a)] → a.engine = some h → (s.wg (wgOf a.tid)).ended = false → (pinsOf s h).length < 64 →
      a.space = lineSpace line → a.ia / 64 * 64 = lineBase line →
      ∃ t p, run = .next t ∧ pinAt t h line = some p ∧ p.bytes = storedIn (readBytes (s.store a.space) (a.ia / 64 * 64) 64) ∧ p.label = label ∧
        p.wg = wgOf a.tid ∧ p.pc = a.pc ∧ tfind t.accs id = none ∧ t.mem = s.mem) ∧
    (∀ h p, ownPin s cid line = some (h, p) → side true label = .ok s → grp = [(id, a)] →
      ∃ t q, run = .next t ∧ pinAt t h line = some q ∧ q.bytes = storedIn p.bytes ∧ q.label = p.label ||| label ∧ tfind t.accs id = none ∧ t.mem = s.mem) ∧
    (∀ c, pinHolders s line = [] → side true label = .refused c → ∃ t, run = .next t ∧ staged t grp (.refused c)) ∧
    (pinned → ∃ t, run = .next t ∧ staged t [(id, a)] .retry))

/-- The later steps of stores, releases, pins and refusals (R156, R160, R161, R163, R288): a completion counts the store down and raises
sr.wct; a held release leaves when what it waits for is done; a pin is performed by force after 64 000 ticks of an outside wait;
a retry is issued again; a refused access completes with zeros, or is dropped, and leaves the first fault record.

An engine serves a request of a line, the requests of one cycle in their order, and one of another core after eight of its own (R163,
R169 to R172): an atomic reads the old value, which ATOMR returns to its lane, and leaves the operation's result in memory, or in its
CU's or core's pin where its order says so, in one step. -/
def Obligations.AccessStepsComplete : Prop :=
  (∀ (s : State) (id : Nat) (a : Access), tfind s.accs id = some a →
     (tfind s.threads a.tid).isSome = true →
     (a.kind = .store ∨ a.kind = .atom ∨ a.kind = .insert → a.stage = .returned → ∃ t, exec (.writeCompletionReturn id) s = .next t ∧ tfind t.accs id = none ∧
       (t.thr a.tid).octStore = (s.thr a.tid).octStore - (if a.kind = .insert ∧ a.op = 1 then 0 else 1) ∧ (t.thr a.tid).wct = (if (s.thr a.tid).wct < a.wct then a.wct else (s.thr a.tid).wct) ∧
       (t.thr a.tid).regs = (s.thr a.tid).regs ∧ (∀ u, u ≠ a.tid → tfind t.threads u = tfind s.threads u) ∧
       t = { s with accs := t.accs, threads := t.threads, cus := t.cus, cores := t.cores }) ∧
     (a.stage = .held → a.kind ≠ .special →
       ((∀ k ∈ a.after, tfind s.accs k = none) → narrowPins s (wgOf a.tid) a.order.scope = [] →
         ((a.order.scope = .dev ∨ a.order.scope = .part ∨ a.order.scope = .sys → (s.thr a.tid).wct < s.now) →
           exec (.heldReleaseStoreSend id) s = .next { s with accs := tmod s.accs id fun a => { a with stage := .issued, sentAt := s.now.toNat } }) ∧
         (a.order.scope = .dev ∨ a.order.scope = .part ∨ a.order.scope = .sys → s.now ≤ (s.thr a.tid).wct → exec (.heldReleaseStoreSend id) s = .next s)) ∧
       ((∃ k ∈ a.after, tfind s.accs k ≠ none) → exec (.heldReleaseStoreSend id) s = .next s)) ∧
     (∀ h line p t0, pinAt s h line = some p → p.waitSince = some t0 → (s.launch (s.wg p.wg).launch).replay = false →
       (64000 ≤ (s.now - t0).toNat → ∃ t, exec (.pinForcedRelease h line) s = .next t ∧
         t.store (lineSpace line) = writeBytes (s.store (lineSpace line)) (lineBase line) p.bytes ∧
         pinAt t h line = none ∧ ((∃ e ∈ (t.ctx (s.vfOf p.wg)).causes, e.code = 1 ∧ e.pc = p.pc) ∨ (t.ctx (s.vfOf p.wg)).causeOvf = true)) ∧
       ((s.now - t0).toNat < 64000 → exec (.pinForcedRelease h line) s = .next s)) ∧
     (a.stage = .retry → ∃ t, exec (.refusedAccessRetry id) s = .next t ∧ tfind t.accs id = some { a with stage := .issued, sentAt := s.now.toNat } ∧
       (∀ k, k ≠ id → tfind t.accs k = tfind s.accs k) ∧ t = { s with accs := t.accs }) ∧
     (∀ c, a.stage = .refused c → a.retained = false → (s.wg (wgOf a.tid)).twin = none → alive (s.thr a.tid) = true →
       let kept := (s.thr a.tid).deferred.getD { cause := c, pc := a.pc, ea := a.ea }
       (a.kind = .store → ∃ t, exec (.deferredRefusal id) s = .next t ∧ tfind t.accs id = none ∧ (t.thr a.tid).deferred = some kept ∧
         (t.thr a.tid).octStore = (s.thr a.tid).octStore - 1 ∧ t = { s with accs := t.accs, threads := t.threads }) ∧
       (a.kind = .load → a.order.kind = .relaxed → a.fwd = none → a.dest.Nodup → (∀ f ∈ a.dest, f < 112) → ∃ t, exec (.deferredRefusal id) s = .next t ∧
         tfind t.accs id = none ∧ (t.thr a.tid).deferred = some kept ∧ (∀ f ∈ a.dest, sget {} (t.thr a.tid).regs f = {} ∧ sbBit (t.thr a.tid) f = false) ∧
         (∀ f, f ∉ a.dest → sget {} (t.thr a.tid).regs f = sget {} (s.thr a.tid).regs f) ∧ t.mem = s.mem))) ∧
  (∀ (s : State) (e id : Nat) (a : Access), tfind s.accs id = some a → (s.accs.map (·.1)).Nodup →
     (mayServe s e id = false → exec (.atomicEngineService e id) s = .next s) ∧
     (mayServe s e id = true →
       (a.stage = .issued ∧ a.engine = some e ∧
         (∀ k b, (k, b) ∈ s.accs → (b.kind = .store ∨ b.kind = .atom ∨ b.kind = .atomr) → b.stage = .issued → b.merged = false →
           b.engine = some e → lineOf b.space b.ia = lineOf a.space a.ia → b.sentAt = a.sentAt → keyBefore (requestKey s k b) (requestKey s id a) = false) ∧
         (e < 32 → 8 ≤ (s.core e).ownRun → s.cidOf a.tid / 8 = e → ∀ k b, (k, b) ∈ servable s e → s.cidOf b.tid / 8 = e)) ∧
       let line := lineOf a.space a.ia
       let out := fun (old : Nat) => leBytes (atomOp a.op a.width a.signed a.fp old a.data a.cmp) a.width
       let back := fun (t : State) (old : Nat) (wct : DWord) => ∃ b, tfind t.accs id = some b ∧ b.stage = .returned ∧ b.wct = wct ∧
         b.result = (if a.kind = .atomr then cellsOf old false (a.width / 4) else [])
       let old := leNat (readBytes (s.store a.space) a.ia a.width)
       a.fwd = none → letThrough s a true a.label → letThrough s a false 0 → soundMemory s →
         ((pins a.order = false ∨ (s.wg (wgOf a.tid)).ended = true → ∃ t, exec (.atomicEngineService e id) s = .next t ∧
           t.store a.space = writeBytes (s.store a.space) a.ia (out old) ∧ back t old (writtenAt s line) ∧
           (∀ k, k ≠ id → tfind t.accs k = tfind s.accs k) ∧ t.threads = s.threads) ∧
         (pins a.order = true → (s.wg (wgOf a.tid)).ended = false → (pinsOf s e).length < 64 → a.space = lineSpace line → a.ia / 64 * 64 = lineBase line →
           ∃ t p, exec (.atomicEngineService e id) s = .next t ∧ pinAt t e line = some p ∧ t.mem = s.mem ∧
             (let l := readBytes (s.store a.space) (a.ia / 64 * 64) 64
              p.bytes = l.take (a.ia % 64) ++ out old ++ l.drop (a.ia % 64 + a.width)) ∧
             (a.kind = .atom → tfind t.accs id = none) ∧ (a.kind = .atomr → back t old 0)))))

/-- BUNDLE_PICK and PARKED_GROUP_EXECUTE (R110, R265 to R267, R270): with no parked group whole, a free pipe takes a bundle whose lead is
the first ready thread of the highest priority, filled with threads at the same word of the same kernel and role, at most 64 and at
most four of a lane slot; else the parked group whose turn it is becomes one bundle. -/
def Obligations.PickerFormsBundles : Prop := ∀ (s : State),
  (∀ c p, p < 4 → tfind s.pipes (c * 4 + p) = none → parkedChoice s c = none → readyOf s c ≠ [] → (s.threads.map (·.1)).Nodup →
    ∃ t b lead rest, exec (.bundlePick c p) s = .next t ∧ tfind t.pipes (c * 4 + p) = some b ∧ b.tids = lead :: rest ∧ b.tids.Nodup ∧
      b.tids.length ≤ 64 ∧ (∀ k, k < 16 → (b.tids.filter fun u => laneOf u % 16 == k).length ≤ 4) ∧ b.stalled = false ∧ b.fence = none ∧
      lead ∈ readyOf s c ∧ (∀ v ∈ readyOf s c, prioOf s v ≤ prioOf s lead ∧ (prioOf s v = prioOf s lead → readyBefore s v lead = false)) ∧
      (∀ u ∈ b.tids, u ∈ readyOf s c ∧ (s.thr u).pc = b.pc ∧ (s.thr u).pos = b.pos ∧ (s.thr u).advs = b.advs ∧
        (s.wg (wgOf u)).launch = (s.wg (wgOf lead)).launch ∧ (s.grp (gidOf u)).role = (s.grp (gidOf lead)).role) ∧
      (∀ u ∈ b.tids, (t.thr u).picker = .running ∧ (t.thr u).regs = (s.thr u).regs ∧ (t.thr u).preds = (s.thr u).preds ∧
        (t.thr u).written = if b.pos = 0 then 0 else (s.thr u).written) ∧
      (∀ u, u ∉ b.tids → tfind t.threads u = tfind s.threads u) ∧ (∀ q, q ≠ c * 4 + p → tfind t.pipes q = tfind s.pipes q) ∧
      t = { s with threads := t.threads, pipes := t.pipes, cycle := t.cycle }) ∧
  (∀ c p, p < 4 → tfind s.pipes (c * 4 + p) = none → parkedChoice s c = none → readyOf s c = [] → exec (.bundlePick c p) s = .next s) ∧
  (∀ c p g, p < 4 → tfind s.pipes (c * 4 + p) = none → parkedChoice s c = some g → exec (.bundlePick c p) s = exec (.parkedGroupExecute g p) s) ∧
  (∀ g p, groupRuns s g = true → pipeFree s g p = true → parkedChoice s (s.wg (g / 16)).cid = some g →
    ∃ t b, exec (.parkedGroupExecute g p) s = .next t ∧ tfind t.pipes ((s.wg (g / 16)).cid * 4 + p) = some b ∧ b.tids = liveOf s g ∧
      (∀ u ∈ b.tids, b.pc = (s.thr u).pc ∧ (t.thr u).picker = .running ∧ (t.thr u).regs = (s.thr u).regs) ∧
      (∀ u, u ∉ b.tids → tfind t.threads u = tfind s.threads u) ∧ t = { s with threads := t.threads, groups := t.groups, pipes := t.pipes, cycle := t.cycle })

/-! ## Queues, launches, render passes. -/

/-- The event vector, doorbells and queues (R333 to R338, R348, R441, R457): writes set and clear event bits; a doorbell or poll reads the
producer index, disables the queue on a bad count, else the heads are passed over; the next head is one whose wait events are
set, of the highest priority, first in the cyclic order; while enabled a descriptor is fixed but for en; an access that a partition
asleep must be woken for waits, and every later access of its port behind it. -/
def Obligations.QueuesAndEvents : Prop := ∀ (s : State) (vf q word : Nat) (data : DWord),
  let x := s.queue vf q
  let va := bits x.w1.toNat 4 44 * 16
  let ready := fun (a : HostAcc) => portReady s s.pkg.waiting a = true
  let waits := fun (i : Instr) (a : HostAcc) => ¬ ready a → ∃ t, exec i s = .next t ∧ t.pkg.waiting = s.pkg.waiting ++ [a] ∧
    (∀ p, wakes s a = some p → (t.part p).waking = true) ∧ t = { s with parts := t.parts, pkg := { s.pkg with waiting := t.pkg.waiting } }
  let reads := fun (i : Instr) => q < 16 → vfBound s vf = true → queueOn x = true → devTouch s vf va 8 = .ok s → devReadable s vf va 8 = true →
    let p := d64 (leNat (vaBytes s vf va 8))
    ((p - x.con).toNat ≤ queueSlots x → exec i s = .next (eventPass (s.modQueue vf q fun y => { y with prod := p }) vf)) ∧
    (queueSlots x < (p - x.con).toNat → ∃ t, exec i s = .next t ∧ bit (t.queue vf q).w1.toNat 63 = false ∧ (t.queue vf q).head = none ∧
      t = { s with ctxs := t.ctxs, launches := t.launches })
  (∀ a, ready a ↔ (∀ b ∈ s.pkg.waiting, b.port ≠ a.port) ∧ ∀ p, wakes s a = some p → (s.part p).power = 0 ∧ s.pkg.hotReset = false) ∧
  (word < 4 → ready (.eventClear vf word data) → ∃ t, exec (.eventClearWrite vf word data) s = .next t ∧ (t.ctx vf).events = (s.ctx vf).events &&& ~~~(eventWord word data) ∧
    (t.ctx vf).queues = (s.ctx vf).queues ∧ (∀ v, v ≠ vf → tfind t.ctxs v = tfind s.ctxs v) ∧ t = { s with ctxs := t.ctxs }) ∧
  (word < 4 → ready (.eventSet vf word data) → idleQueues s vf → ∃ t, exec (.eventSetWrite vf word data) s = .next t ∧
    (t.ctx vf).events = (s.ctx vf).events ||| eventWord word data ∧ (∀ v, v ≠ vf → tfind t.ctxs v = tfind s.ctxs v) ∧ t = { s with ctxs := t.ctxs }) ∧
  (word < 4 → waits (.eventSetWrite vf word data) (.eventSet vf word data) ∧ waits (.eventClearWrite vf word data) (.eventClear vf word data)) ∧
  waits (.doorbellWrite vf data) (.doorbell vf data) ∧ waits (.queueDescriptorWrite vf q word data) (.queueWrite vf q word data) ∧
  waits (.causeSummaryWrite vf data) (.causes vf data) ∧
  (awake s vf = true → reads (.queuePoll vf q)) ∧ (ready (.doorbell vf data) → q = bits data.toNat 0 4 → reads (.doorbellWrite vf data)) ∧
  (∀ w, ready (.queueWrite vf q w data) ↔ ready (.queueWrite vf q word data)) ∧
  (q < 16 → ready (.queueWrite vf q word data) → bit x.w1.toNat 63 = false → ∃ t, exec (.queueDescriptorWrite vf q 0 data) s = .next t ∧
    t.queue vf q = { x with w0 := data &&& 0x0000FFFFFFFFFF00#64 } ∧ (∀ k, k ≠ q → t.queue vf k = s.queue vf k) ∧ t = { s with ctxs := t.ctxs }) ∧
  (q < 16 → ready (.queueWrite vf q word data) → bit x.w1.toNat 63 = true → exec (.queueDescriptorWrite vf q 0 data) s = .next s ∧
    (data.getLsbD 63 = true → exec (.queueDescriptorWrite vf q 1 data) s = .next s) ∧
    (data.getLsbD 63 = false → ∃ t, exec (.queueDescriptorWrite vf q 1 data) s = .next t ∧ (t.queue vf q).w1 = x.w1 &&& 0x7FFFFFFFFFFFFFFF#64 ∧
      (t.queue vf q).w0 = x.w0 ∧ (t.queue vf q).con = x.con)) ∧
  (q < 16 → ready (.queueWrite vf q word data) → bit x.w1.toNat 63 = false → data.getLsbD 63 = true →
    let w1 := data &&& 0x80F7FFFFFFFFFFF0#64
    let s1 := s.modQueue vf q fun y => { y with w1 := w1 }
    let at_ := bits w1.toNat 4 44 * 16 + 8
    devTouch s1 vf at_ 8 = .ok s1 → ∃ t, exec (.queueDescriptorWrite vf q 1 data) s = .next t ∧
      (let c := if devReadable s1 vf at_ 8 then d64 (leNat (vaBytes s1 vf at_ 8)) else 0
       t.queue vf q = { x with w1 := w1, con := c, prod := c }) ∧ (∀ k, k ≠ q → t.queue vf k = s.queue vf k) ∧ t = { s with ctxs := t.ctxs }) ∧
  (data.getLsbD 63 = true → ready (.causes vf data) → ∃ t, exec (.causeSummaryWrite vf data) s = .next t ∧ (t.ctx vf).causes = [] ∧ (t.ctx vf).causeOvf = false ∧
    (t.ctx vf).events = (s.ctx vf).events ∧ t = { s with ctxs := t.ctxs }) ∧ (data.getLsbD 63 = false → ready (.causes vf data) → exec (.causeSummaryWrite vf data) s = .next s) ∧
  (∀ k l, nextCandidate s vf = some (k, l) → (s.queue vf k).head = some l ∧ (s.launch l).wait &&& ~~~(s.ctx vf).events = 0 ∧
    ∀ j m, (j, m) ∈ candidates s vf → assisted s vf 2 = false → (s.launch m).prio < (s.launch l).prio ∨
      ((s.launch m).prio = (s.launch l).prio ∧ turnOf s vf k (s.launch l).prio ≤ turnOf s vf j (s.launch l).prio))

/-- Placing and ending work (R42, R256, R257, R262, R263, R306, R339, R341): the next workgroup of an unpaired launch stands on its CU, its threads at
their roles' entries with zeroed state, g0 the argument pointer; a launch that has not fitted for 20 000 ticks reserves; a workgroup
whose threads and outbound work have ended retires, and the last ends the launch once its writes are complete, with its status word
and set events. -/
def Obligations.WorkgroupsAndLaunches : Prop := ∀ (s : State),
  (∀ l c a, let la := s.launch l
    placing s l = true → keptByOther s l (c / 8) = false → comesFirst s l = false → coLevel la = none → la.paired = false →
    la.det = false → la.next + 1 < la.total → c ∈ partCus s (s.partOf la.vf) → fitsCu s la.vf c la.header = true → domainOk s l la.next c = true →
    inboundRings la.header = [] → (∀ r ∈ la.header.roles, r.threads ≤ 64) →
    ∃ t g, exec (.workgroupPlacement l [c] [a]) s = .next t ∧ tfind t.wgs s.fresh = some g ∧ g.launch = l ∧ g.index = la.next ∧ g.cid = c ∧
      g.mode = (if la.ckpt then .ckpt else .plain) ∧
      g.hdr = la.header ∧ g.ended = false ∧ g.halted = false ∧ g.mem.spad = [] ∧ g.gen = (s.cu c).genCount + 1 ∧ t.launch l = { la with next := la.next + 1, waitSince := none, reserved := false } ∧
      (∀ gi k r i, (groupRoles la.header)[gi]? = some (k, r) → i < r.threads →
        tfind t.threads ((s.fresh * 16 + gi) * 64 + i) = some { pc := r.entry, readyAt := s.cycle } ∧
        (let x := t.grp (s.fresh * 16 + gi)
         sget {} x.g 0 = { val := la.args } ∧ x.vregs = r.vregs ∧ x.oregs = r.oregs ∧ x.role = k ∧ x.tvec = la.header.tvec ∧ x.ctx = 0 ∧ x.lreg = [] ∧ x.lg = [])) ∧
      (∀ w, w ≠ s.fresh → tfind t.wgs w = tfind s.wgs w) ∧ t.mem = s.mem ∧ t.ctxs = s.ctxs) ∧
  (∀ l cs as, placing s l = false ∨ comesFirst s l = true ∨ cs.length ≠ batchSize (s.launch l) ∨ (∃ c ∈ cs, c ∉ freeCus s l) →
    exec (.workgroupPlacement l cs as) s = .next s) ∧
  (∀ l t0, (s.launch l).waitSince = some t0 → waitsToPlace s l = true → workFits s l = false →
    (20000 ≤ (s.now - t0).toNat → ∃ t, exec (.placementReservation l) s = .next t ∧ t.launch l = { s.launch l with reserved := true } ∧
      (∀ k, k ≠ l → t.launch k = s.launch k) ∧ t = { s with launches := t.launches }) ∧
    ((s.now - t0).toNat < 20000 → exec (.placementReservation l) s = .next s)) ∧
  (∀ w, let g := s.wg w
    let l := g.launch
    (tfind s.wgs w).isSome = true → g.ended = false → g.halted = false → g.mode = .plain → g.tile = none → liveWg s w = [] → outboundDone s w = true →
    (∀ h ∈ [32 + g.cid, g.cid / 8], ∀ p ∈ pinsOf s h, p.heldBy w = false) → inboundRings g.hdr = [] → (∀ e ∈ g.mem.rings, e.2.inbound = []) →
    (tfind s.launches l).isSome = true → (s.launch l).next ≠ (s.launch l).total →
    ∃ t, exec (.workgroupEnd w) s = .next t ∧ (t.wg w).ended = true ∧ (t.wg w).mem = {} ∧ (t.launch l).doneWgs = (s.launch l).doneWgs + 1 ∧
      (∀ e ∈ (t.cu g.cid).banks, bankHolder e.2.state ≠ some w) ∧ (∀ k, k ≠ w → tfind t.wgs k = tfind s.wgs k) ∧ t.mem = s.mem ∧ t.threads = s.threads ∧
      t = { s with wgs := t.wgs, cus := t.cus, launches := t.launches }) ∧
  (∀ w k r, let g := s.wg w
    let l := g.launch
    let la := s.launch l
    let ia := iaOf r la.status
    (tfind s.wgs w).isSome = true → g.ended = true → la.phase = .admitted → allEnded s l = true → drawDone s l = true → nextLog s (wgsOfLaunch s l) = none →
    la.replay = false → la.endDraw = false → la.status ≠ 0 → la.status.toNat < 2 ^ 48 → rangeOf s la.vf la.status = some (k, r) → spaceOf r = .mem → permits { wr := true } r = true →
    pinHolders s (ia / 64) = [] → memSide s la.vf (s.ctx la.vf).dom .mem r ia true la.label = .ok s → ownAccesses s → idleQueues s la.vf → launchDrained s l = true →
    ∃ t, exec (.workgroupEnd w) s = .next t ∧ t.mem = writeBytes s.mem ia (leBytes (la.code * 2 ^ 56 + la.doneWgs % 2 ^ 48) 8) ∧
      (t.launch l).phase = .ended ∧ (t.ctx la.vf).events = (s.ctx la.vf).events ||| la.set ∧ t.threads = s.threads ∧ t.wgs = s.wgs)

/-- Fragment lists, the clause, binning (R228, R229, R368, R369, R378, R383): an insertion that comes first at its key is performed in one
step; the fragment that heads its key takes the clause; a draw whose workgroups have ended is binned, every fragment of its
triangles numbered. -/
def Obligations.ListClauseAndBinSteps : Prop := ∀ (s : State),
  (∀ id a, tfind s.accs id = some a → a.kind = .insert → a.stage = .issued → firstAtKey s id a = true →
     let run := exec (.listInsertStep id) s
     let cid := s.cidOf a.tid
     let done := fun (u : State) (w : DWord) => tfind u.accs id = some a → ∃ t, run = .next t ∧ tfind t.accs id = some { a with stage := .returned, wct := w } ∧
       (∀ k, k ≠ id → tfind t.accs k = tfind u.accs k) ∧ t = { u with accs := t.accs }
     let steps := fun (o : Dev ListOut) (s1 : State) => (∀ r, o = .ok r → done r.st (if r.wct < r.st.now then r.st.now else r.wct)) ∧
       (∀ e, o = .error e → run = .next (devWaits s1 e))
     (listPass s a.tid = none → done s s.now) ∧
     (∀ p x, listPass s a.tid = some (p, x) → keyPlace x a.ia = none → done s s.now) ∧
     (∀ p x tile i, listPass s a.tid = some (p, x) → keyPlace x a.ia = some (tile, i) →
       (∀ e, startTile s p tile = .error e → run = .next (devWaits s e)) ∧
       (∀ s1, startTile s p tile = .ok s1 →
         (a.op = 1 → steps (setStep s1 cid p tile i (a.aux.headD 0) a.label) s) ∧
         (a.op = 0 → ∀ z0 z1 z2 z3 z4, a.aux = [z0, z1, z2, z3, z4] →
           steps (insertStep s1 cid p tile i { idx := none, depth := z0, p0 := z1, p1 := z2, flags := z3 % 256, seq := z4 } a.label) s) ∧
         (a.op = 2 → match traceRay s1 id a.aux with
           | .wait s2 => run = .next s2
           | .bad s2 _ | .ok s2 _ none => done s2 s2.now
           | .ok s2 l (some h) => steps (insertStep s2 cid p tile i (appendNode h ((a.aux[8]?).getD 0)) (a.label ||| l)) s2)))) ∧
  (∀ id a, tfind s.accs id = some a → a.kind = .insert → a.stage = .issued → firstAtKey s id a = false → exec (.listInsertStep id) s = .next s) ∧
  (∀ u n f, fragOf s u = some (n, f) → (tfind s.threads u).isSome = true → (s.thr u).picker = .held → (s.thr u).holds = [.clause] →
    (headsKey s n f = true → ∃ t, exec (.ocenterEntry u) s = .next t ∧ freed s t u .clause ∧ tfind t.frags n = some { f with holding := true } ∧
      (∀ k, k ≠ n → tfind t.frags k = tfind s.frags k) ∧ (t.cu (s.cidOf u)).l1 = [] ∧ (∀ v, v ≠ u → tfind t.threads v = tfind s.threads v) ∧
      t = { s with threads := t.threads, frags := t.frags, cus := t.cus, cores := t.cores }) ∧
    (headsKey s n f = false → exec (.ocenterEntry u) s = .next s)) ∧
  (∀ l id p, let la := s.launch l
    let due := la.phase = .admitted ∧ la.binned = false ∧ allEnded s l = true
    passOf s l = some (id, p) → (¬ due → exec (.rasterBin l) s = .next s) ∧
    (due → la.ntri = 0 ∨ devTouch s la.vf (recN la.draw 0x10 6) (3 * la.ntri * recN la.psrec 0x04 2) = .ok s →
    let out := (upto la.ntri).filterMap (triAt s la l p)
    ∃ t, exec (.rasterBin l) s = .next (tryFinish t l) ∧ tfind t.tris l = some (out.map (·.1)) ∧ t.launch l = { la with binned := true } ∧
      (∀ f ∈ (out.map (·.2)).flatten, ∃ n, s.fresh ≤ n ∧ tfind t.frags n = some f) ∧ (∀ n, n < s.fresh → tfind t.frags n = tfind s.frags n) ∧
      t = { s with tris := t.tris, launches := t.launches, frags := t.frags, fresh := t.fresh }))

/-- Fragments run, are written, resolved and stored (R371, R375, R376, R378, R391, R392): a fragment thread starts with its key, position, depth,
sequence and coverage in v0 to v5; an ended fragment is written in its turn and is gone; a resolve workgroup starts with its
tile's key; a tile that is done is stored, and with the last the pass ends. -/
def Obligations.FragmentAndTileSteps : Prop := ∀ (s : State) (l id tile : Nat) (p : Pass), passOf s l = some (id, p) →
  let la := s.launch l
  let x := p.tile tile
  (tfind p.tiles tile).isSome = true →
  (∀ q s1 s2 kept, la.binned = true → shadingOn s la (decide (0 < x.unit)) = true → fragTurn s p l tile = true → comesFirst s l = false → keptByOther s l (x.cid / 8) = false →
    let r := (la.fragHdr.roles.head?).getD {}
    let fs := nextFrags s p l tile (min q (r.groups * (r.threads / 4)))
    (fs = [] → exec (.fragmentLaunch l tile q) s = .next s) ∧
    (fs ≠ [] → startTile s id tile = .ok s1 → earlyTests s1 id la fs = .ok (s2, kept) → kept ≠ [] → fitsCu s2 la.vf x.cid la.fragHdr = true →
      (la.clause = true → clauseCount s2 la.vf x.cid + kept.length ≤ 4096) →
      ∃ t, exec (.fragmentLaunch l tile q) s = .next t ∧ (t.wg s2.fresh).cid = x.cid ∧ (t.wg s2.fresh).tile = some tile ∧
        (∀ e ∈ kept, ∃ y, tfind t.frags e.1 = some y ∧ y.tid ≠ none ∧ y.registered = la.clause ∧ y.cu = x.cid) ∧
        (∀ e ∈ fs, (∀ k ∈ kept, k.1 ≠ e.1) → tfind t.frags e.1 = none))) ∧
  (∀ n f r q, x.loaded = true → la.binned = true → shadingOn s la (decide (0 < x.unit)) = true → fragTurn s p l tile = true → comesFirst s l = false → keptByOther s l (x.cid / 8) = false →
    la.late = true → la.ckpt = false → la.paired = false → la.fragHdr.roles = [r] → r.threads ≤ 64 → inboundRings la.fragHdr = [] →
    nextFrags s p l tile (min q (r.groups * (r.threads / 4))) = [(n, f)] → tfind s.frags n = some f → fitsCu s la.vf x.cid la.fragHdr = true →
    (la.clause = true → clauseCount s la.vf x.cid < 4096) →
    let u := s.fresh * 1024 + f.y % 2 * 2 + f.x % 2
    ∃ t, exec (.fragmentLaunch l tile q) s = .next t ∧ tfind t.frags n = some { f with tid := some u, registered := la.clause, cu := x.cid } ∧
      (t.thr u).pc = r.entry ∧ (t.thr u).frag = some n ∧
      ((List.range 6).map fun k => sget {} (t.thr u).regs k) =
        ([w32 (fragKey f), f.px, f.py, f.depth, w32 f.seq, w32 (f.cov + if f.front then 256 else 0)].map fun v => ({ val := v } : Cell)) ∧
      (t.wg s.fresh).cid = x.cid ∧ (t.wg s.fresh).tile = some tile ∧ (∀ k, k ≠ n → tfind t.frags k = tfind s.frags k) ∧ t.mem = s.mem) ∧
  (∀ n f s', tfind s.frags n = some f → f.launch = l → f.ended = true → committed s f = true → outputTurn s f = true →
    (if f.discarded then s' = s else fragOutput s id la f = .ok s') → exec (.fragmentOutput l n) s = .next (tryFinish { s' with frags := tdel s'.frags n } l)) ∧
  (∀ n f e, tfind s.frags n = some f → f.launch = l → f.ended = true → committed s f = true → outputTurn s f = true → f.discarded = false →
    fragOutput s id la f = .error e → exec (.fragmentOutput l n) s = .next (devWaits s e)) ∧
  (∀ n f, tfind s.frags n = some f → f.launch = l → outputTurn s f = false → exec (.fragmentOutput l n) s = .next s) ∧
  (∀ cid, let h := p.resolveHdr
    x.loaded = true → la.endDraw = true → p.resolves = true → shadingOn s la false = true → tileDone s p tile = true → x.resolve = none → comesFirst s l = false → keptByOther s l (cid / 8) = false →
    (if p.tileMode then cid = x.cid else cid ∈ partCus s (s.partOf la.vf)) → fitsCu s la.vf cid h = true → inboundRings h = [] →
    (∀ r ∈ h.roles, r.threads ≤ 64) → ∃ t, exec (.resolveLaunch l tile cid) s = .next t ∧ (t.wg s.fresh).cid = cid ∧ (t.wg s.fresh).resolve = true ∧ (t.wg s.fresh).tile = some tile ∧
      (∀ gi k r i, (groupRoles h)[gi]? = some (k, r) → i < r.threads → let u := (s.fresh * 16 + gi) * 64 + i
        (t.thr u).pc = r.entry ∧ sget {} (t.thr u).regs 0 = { val := w32 (tile % p.tilesX * 32 + tile / p.tilesX * 32 * 2 ^ 14) }) ∧
      (∃ y, t.pass? id = some y ∧ (y.tile tile).resolve = some s.fresh) ∧ t.mem = s.mem) ∧
  (la.endDraw = true → la.binned = true → x.stored = false → tileDone s p tile = true → (p.resolves = true → ∃ w, x.resolve = some w ∧ (s.wg w).ended = true) →
    ∀ s1 y, startTile s id tile = .ok s1 → s1.pass? id = some y →
      (p.tileMode = false → ∃ t z, exec (.tileStore l tile) s = .next (tryFinish t l) ∧ t.pass? id = some z ∧ (z.tile tile).stored = true ∧
        (z.ended = true ↔ y.ended = true ∨ (z.closed = true ∧ ∀ e ∈ z.tiles, e.2.stored = true)) ∧ t = { s1 with passes := t.passes }) ∧
      (p.tileMode = true → (∀ e, storeTile s1 id y tile = .error e → exec (.tileStore l tile) s = .next (devWaits s e)) ∧
        ∀ s', storeTile s1 id y tile = .ok s' → ∃ t, exec (.tileStore l tile) s = .next (tryFinish t l) ∧ t.mem = s'.mem ∧ t = { s' with passes := t.passes }))

/-! ## Partitions, pre-emption, recovery. -/

/-- Slices, traps for pre-emption, saves and restores (R402, R406, R407, R409 to R411): the only runnable context begins a new slice, else its
signalled threads, of every CU it is on, are to trap; a thread traps at a sentence start, where its group still has a handler; a CU saves whole, or reduced where every
thread has yielded, its copy commands stopped at a unit, its undecided gates at the start of their source; the next runnable context becomes resident; the watchdog resets the partition. -/
def Obligations.PreemptionSteps : Prop := ∀ (s : State),
  (∀ vf, let c := s.ctx vf
    let ended := fun (i : Instr) =>
      (runnables s (s.partOf vf) = [vf] → ∃ t, exec i s = .next t ∧ t.ctx vf = { c with sliceStart := s.now } ∧ t = { s with ctxs := t.ctxs }) ∧
      (runnables s (s.partOf vf) ≠ [vf] → (∀ e ∈ ctxWgs s vf, e.2.mode = .plain) → ∃ t, exec i s = .next t ∧ t.ctx vf = { c with preempting := some s.now } ∧
        (∀ k ∈ ctxCus s vf, (t.cu k).save = { delivering := true, start := s.now }) ∧
        (∀ u x, tfind s.threads u = some x → tfind t.threads u = some { x with signalled := x.signalled || signals s vf u x }) ∧
        t = { s with ctxs := t.ctxs, threads := t.threads, cus := t.cus })
    (inSlice c = true → max 1 (bits c.binding.toNat 32 16) * 1000 ≤ (s.now - c.sliceStart).toNat → ended (.sliceEnd vf)) ∧
    (inSlice c = true → (s.now - c.sliceStart).toNat < max 1 (bits c.binding.toNat 32 16) * 1000 → exec (.sliceEnd vf) s = .next s) ∧
    (∀ data, portReady s s.pkg.waiting (.preempt vf data) = true → (inSlice c = true → data.getLsbD 0 = true → ended (.preemptWrite vf data)) ∧
      (inSlice c = false ∨ data.getLsbD 0 = false → exec (.preemptWrite vf data) s = .next s))) ∧
  (∀ u, let x := s.thr u
    hasHandler s u → (tfind s.threads u).isSome = true → (∀ e ∈ s.pipes, u ∉ e.2.tids) → x.signalled = true → x.saved = false → x.pos = 0 → (x.picker = .ready ∨ x.picker = .held) →
    delivering s (s.cidOf u) = true → budgetOver s (wgOf u) = false →
    ∃ t, exec (.coopPreemptTrap u) s = .next t ∧ TrapTaken s t [u] { cause := 0x17, pc := x.pc, rpc := x.pc, pos := 0, kind := 2 } ∧ (t.thr u).frame.holds = x.holds) ∧
  (∀ u, let x := s.thr u
    (tfind s.threads u).isSome = true → x.signalled = true → x.saved = false → x.frame.inh = false → alive x = true → x.pos = 0 → (x.picker = .ready ∨ x.picker = .held) →
    delivering s (s.cidOf u) = true → budgetOver s (wgOf u) = false → (s.grp (gidOf u)).tvec = 0 →
    ∃ t, exec (.coopPreemptTrap u) s = .next t ∧ t.thr u = { x with signalled := false } ∧ t = { s with threads := t.threads }) ∧
  (∀ c, delivering s c = true → unitsOpen s c = false → accessesDone s c = true → (s.cu c).pins = [] → (s.core (c / 8)).pins = [] → c < 256 → (s.wgs.map (·.1)).Nodup →
    let us := savedThreads s c
    let stops := fun (t : State) => (s.cmds.map (·.1)).Nodup → ∀ n x, tfind s.cmds n = some x → (savedWgs s c).any (fun e => decide (e.1 = x.wg)) = true →
      tfind t.cmds n = some (if x.gate = true ∧ x.decided = false then { x with data := [], status := 0, dataLabel := x.cmdLabel, asked := false, accepted := none, drawn := none }
        else if cKind x.q = 3 then x else { x with cur := none, buf := [] })
    (forced s c = true → (allYielded s c = false ∨ us = []) → ∃ t, exec (.preemptBudgetExpiry c) s = .next t ∧ (t.cu c).save.saved = true ∧ (t.cu c).l1 = [] ∧
      (t.cu c).am = (s.cu c).am ∧ (∀ u, (t.thr u).regs = (s.thr u).regs ∧ (t.thr u).preds = (s.thr u).preds) ∧ (∀ w, (t.wg w).mem = (s.wg w).mem) ∧
      (∀ e ∈ t.pipes, ∀ u ∈ us, u ∉ e.2.tids) ∧ (∀ u ∈ us, ∀ b, bundleOf s u = some b → (t.thr u).pc = b.pc ∧ (t.thr u).pos = b.pos ∧ (t.thr u).advs = b.advs) ∧ stops t ∧ t.mem = s.mem) ∧
    (allYielded s c = true → us ≠ [] → ∃ t, exec (.reducedSave c) s = .next t ∧ (t.cu c).save.saved = true ∧ (t.cu c).am = [] ∧ (t.cu c).banks = (s.cu c).banks ∧
      (∀ u ∈ us, (t.thr u).regs = [] ∧ (t.thr u).pc = (s.thr u).pc) ∧ (∀ e ∈ savedWgs s c, (t.wg e.1).mem.spad = [] ∧ (t.wg e.1).mem.blockLabel = e.2.mem.blockLabel) ∧
      (∀ g, t.grp g = s.grp g) ∧ stops t ∧ t.mem = s.mem)) ∧
  (∀ p v, residentOf s p = none → nextContext s p none = some v → ∃ t, exec (.contextRestore p) s = .next t ∧ (t.ctx v).resident = true ∧ (t.ctx v).savedCtx = false ∧
    (t.ctx v).sliceStart = s.now ∧ (t.part p).last = v ∧ v ∈ runnables s p ∧
    (∀ k u, ((s.ctx v).cuSave.map (·.1)).Nodup → tfind (s.ctx v).cuSave k = some u → (t.cu k).am = u.am ∧ (t.cu k).banks = u.banks ∧ (t.cu k).credits = u.credits) ∧
    t.mem = s.mem) ∧
  (∀ p r v, residentOf s p = some r → mayLeave s p r = true → nextContext s p (some r) = some v → ∃ t, exec (.contextRestore p) s = .next t ∧
    (t.ctx r).resident = false ∧ (t.ctx r).savedCtx = runnable s r ∧ (t.ctx v).resident = true ∧ (t.ctx v).savedCtx = false ∧ (t.ctx v).sliceStart = s.now ∧ (t.part p).last = v ∧ t.mem = s.mem) ∧
  (∀ p r, residentOf s p = some r → mayLeave s p r = true → nextContext s p (some r) = none → (s.ctx r).preempting.isSome = true →
    ∃ t, exec (.contextRestore p) s = .next t ∧ (t.ctx r).resident = true ∧ (t.ctx r).preempting = none ∧ (t.ctx r).sliceStart = s.now ∧ t.mem = s.mem) ∧
  (∀ vf t0, (s.ctx vf).preempting = some t0 → let w := bits (s.ctx vf).binding.toNat 16 16
    (w ≠ 0 → w * 1000 ≤ (s.now - t0).toNat → exec (.preemptWatchdog vf) s = .next (resetPart s (s.partOf vf))) ∧
    ((w = 0 ∨ (s.now - t0).toNat < w * 1000) → exec (.preemptWatchdog vf) s = .next s))

/-- Checkpoints and pairs (R418, R419, R421, R422): a commit copies the workgroup and sends its entries on; a rollback puts threads and
scratchpad back to the last commit, memory as it is, no label lowered; a pair that agrees commits, the anaphor's entries without
effect, and one that does not rolls back; 64 000 ticks end its interval. -/
def Obligations.CommitAndRollbackSteps : Prop := ∀ (s : State) (w : Nat),
  let g := s.wg w
  let stores := fun (l : List Retained) => (l.map (·.acc)).Nodup ∧ ∀ r ∈ l, ∃ a, tfind s.accs r.acc = some a ∧ a.kind = .store ∧ isRel a.order = false
  let committed_ := fun (t : State) (v : Nat) => (t.wg v).retained = [] ∧ (t.wg v).endAt = none ∧ (t.wg v).rollbacks = 0 ∧ (t.wg v).mem = (s.wg v).mem ∧
    ∃ h, (t.wg v).shadow = some h ∧ h.mem = (s.wg v).mem ∧
      ∀ u x, wgOf u = v → tfind s.threads u = some x → ∃ y, tfind h.threads u = some y ∧ y.regs = x.regs ∧ y.preds = x.preds ∧ y.rstack = x.rstack
  (g.mode = .ckpt → endReady s w = true → stores g.retained → ∃ t, exec (.checkpointCommit w) s = .next t ∧ committed_ t w ∧ t.mem = s.mem ∧
    (∀ r ∈ g.retained, ∃ a, tfind s.accs r.acc = some a ∧ tfind t.accs r.acc = some { a with data := r.data, sentAt := s.now.toNat, stage := .issued }) ∧
    (∀ u, (t.thr u).regs = (s.thr u).regs ∧ (t.thr u).octStore = (s.thr u).octStore)) ∧
  (g.mode = .ckpt → endReady s w = false → exec (.checkpointCommit w) s = .next s) ∧
  (∀ h, g.retry = true → g.halted = false → flushing s w = false → g.mode = .ckpt → g.twin = none → g.shadow = some h → ∃ t, exec (.rollback w) s = .next t ∧
    (t.wg w).retry = false ∧ (t.wg w).retained = [] ∧ (t.wg w).endAt = none ∧ (t.wg w).rollbacks = g.rollbacks + 1 ∧ (copyWords s w = none → (t.wg w).mem.spad = h.mem.spad) ∧
    (∀ u x y, wgOf u = w → tfind s.threads u = some x → tfind h.threads u = some y →
      (t.thr u).regs = y.regs ∧ (t.thr u).preds = y.preds ∧ (t.thr u).pc = y.pc ∧ (t.thr u).picker = y.picker ∧ (t.thr u).wct = x.wct) ∧
    (∀ q x y, q / 16 = w → tfind s.groups q = some x → tfind h.groups q = some y → (t.grp q).g = y.g ∧ (t.grp q).ctx = y.ctx ||| x.ctx) ∧
    (∀ e ∈ t.pipes, ∀ u ∈ liveWg s w, u ∉ e.2.tids) ∧ t.mem = s.mem) ∧
  (∀ b, g.twin = some b → b ≠ w → (tfind s.wgs b).isSome = true → g.mode = .ante → g.halted = false → (s.wg b).halted = false → endReady s w = true → anaReady s w b = true →
    (pairAgrees s w b = true → stores (g.retained ++ (s.wg b).retained) → (∀ r ∈ (s.wg b).retained, ∀ a, tfind s.accs r.acc = some a → wgOf a.tid = b ∧ (tfind s.threads a.tid).isSome = true) →
      ∃ t, exec (.pairCompare w) s = .next t ∧ committed_ t w ∧ committed_ t b ∧
        (∀ r ∈ g.retained, ∃ a, tfind s.accs r.acc = some a ∧ tfind t.accs r.acc = some { a with data := r.data, sentAt := s.now.toNat, stage := .issued }) ∧
        (∀ r ∈ (s.wg b).retained, tfind t.accs r.acc = none) ∧ t.mem = s.mem) ∧
    (pairAgrees s w b = false → exec (.pairCompare w) s = .next (rollBack (countVf s (s.vfOf w) 3 48 16) w))) ∧
  (g.mode = .ante → g.endAt = none → g.halted = false → g.ended = false → g.final = false → flushing s w = false →
    (64000 ≤ s.now.toNat - g.since → ∃ t, exec (.pairIntervalLimit w) s = .next t ∧ t.wg w = { g with endAt := some { limit := true } } ∧
      (∀ v, v ≠ w → tfind t.wgs v = tfind s.wgs v) ∧ t = { s with wgs := t.wgs }) ∧
    (s.now.toNat - g.since < 64000 → exec (.pairIntervalLimit w) s = .next s))

/-- Partition reset (R427, R428): by an error or by command; the work of the partition's contexts is gone, its CUs are empty, lost lines
carry markers; memory stands; a partition that is not enabled is not reset.

Partition records, bindings and slot tables (R399 to R404, R445): a record is written while its en is clear and no other record owns
its cores and ports; while en is set only its clearing is taken, which tears the partition down; a binding keeps its place while
en is set or the context is held; a table that leaves an owner without a slot is refused, and so is a change of a bank of an enabled
partition, whose pools its record has fixed. -/
def Obligations.PartitionCommandsAndResets : Prop :=
  (∀ (s : State) (p port : Nat),
     (bit (s.part p).w1.toNat 63 = true → exec (.partitionReset p) s = .next (resetPart s p)) ∧
     (bit (s.part p).w1.toNat 63 = false → exec (.partitionReset p) s = .next s) ∧
     (canCommand s port → bit (s.part p).w1.toNat 63 = true → ∃ t, exec (.resetPartition port p) s = .next t ∧ Responded t port 0 0 ∧ answered (resetPart s p) t) ∧
     (openLaunches s (partVfs s p) = [] → (∀ v ∈ partVfs s p, idleQueues s v) → (partVfs s p).Nodup → (s.accs.map (·.1)).Nodup →
       let t := resetPart s p
       let gone := fun w => (partVfs s p).contains (s.vfOf w)
       t.mem = s.mem ∧ (∀ w, tfind t.wgs w = if gone w then none else tfind s.wgs w) ∧ (∀ u, tfind t.threads u = if gone (wgOf u) then none else tfind s.threads u) ∧
       (∀ n a, tfind s.accs n = some a → tfind t.accs n = if gone (wgOf a.tid) then none else some a) ∧
       (∀ c ∈ partCus s p, (t.cu c).pins = [] ∧ (t.cu c).l1 = [] ∧ (t.cu c).am = [] ∧ (t.cu c).banks = [] ∧ (t.cu c).genCount = (s.cu c).genCount) ∧
       (∀ e ∈ t.pipes, e.1 / 4 ∉ partCus s p) ∧ (∀ v ∈ partVfs s p, (t.ctx v).resident = false ∧ (t.ctx v).savedCtx = false ∧ (t.ctx v).preempting = none) ∧
       (∀ x, sget Grain.good t.sectors x = if x ∈ lostLines s p then .marker else sget .good s.sectors x))) ∧
  (∀ (s : State) (port : Nat), canCommand s port →
     let refuses := fun (i : Instr) => ∃ t st, exec i s = .next t ∧ Responded t port st 0 ∧ answered s t
     (∀ p w0 w1 windows, let q := s.part p
       let i : Instr := .writePartitionRecord port p (w0, w1) windows
       (32 ≤ p → refuses i) ∧
       (p < 32 → q.w1.getLsbD 63 = false → ownedElsewhere s p w0 = true → refuses i) ∧
       (p < 32 → q.w1.getLsbD 63 = false → ownedElsewhere s p w0 = false → ∃ t, exec i s = .next t ∧ Responded t port 0 0 ∧ (t.part p).w0 = w0 ∧ (t.part p).windows = windows ∧
         (t.part p).w1.toNat % 2 ^ 63 = w1.toNat % 64 ∧ (t.part p).mode = q.mode ∧ ((t.part p).w1.getLsbD 63 = true → w1.getLsbD 63 = true) ∧
         (w1.getLsbD 63 = true → w1.toNat % 64 = 0 → (t.part p).w1.getLsbD 63 = true ∧ (t.part p).routes = true ∧ (t.part p).power = 0) ∧
         (∀ k, k ≠ p → t.part k = s.part k)) ∧
       (p < 32 → q.w1.getLsbD 63 = true → (w1.getLsbD 63 = true ∨ partHeld s p = true) → refuses i) ∧
       (p < 32 → q.w1.getLsbD 63 = true → w1.getLsbD 63 = false → partHeld s p = false → ∃ t, exec i s = .next t ∧ Responded t port 0 0 ∧
         (t.part p).w1.getLsbD 63 = false ∧ (t.part p).keys = false ∧ (t.part p).routes = false ∧
         ∀ j y, tfind s.pages j = some y → tfind t.pages j = some (if y.b ∧ y.part = p then { y with mov := true, free := true } else y))) ∧
     (∀ vf data, let c := s.ctx vf
       (384 ≤ vf → refuses (.bindVf port vf data)) ∧
       (vf < 384 → ∃ t, exec (.bindVf port vf data) s = .next t ∧ Responded t port 0 0 ∧ (∀ v, v ≠ vf → tfind t.ctxs v = tfind s.ctxs v) ∧
         (let b := (t.ctx vf).binding
          t.ctx vf = { c with binding := b } ∧ b &&& 0x0000FFFFFFFF0000#64 = data &&& 0x0000FFFFFFFF0000#64 ∧
          (c.resident = false → c.savedCtx = false → c.binding.getLsbD 63 = false → b &&& 0x9F00000000000000#64 = data &&& 0x9F00000000000000#64) ∧
          (c.resident = true ∨ c.savedCtx = true → b &&& 0x9F00000000000000#64 = c.binding &&& 0x9F00000000000000#64) ∧
          (c.resident = false → c.savedCtx = false → c.binding.getLsbD 63 = true → b &&& 0x1F00000000000000#64 = c.binding &&& 0x1F00000000000000#64 ∧ b.getLsbD 63 = data.getLsbD 63)))) ∧
     (∀ kind ch idx data, let c := s.channel ch
       let i : Instr := .writeBankOwnerTable port kind ch idx data
       (channelEntry kind ch idx = false → refuses i) ∧
       (kind = 0 → ch < 192 → idx < 16 → poolsFixed s 0 ch idx data = false → ownersServed { c with owners := sset 0 c.owners idx (data &&& 0x3F#8) } = true → ∃ t, exec i s = .next t ∧ Responded t port 0 0 ∧
         sget 0#8 (t.channel ch).owners idx = data &&& 0x3F#8 ∧ (t.channel ch).slots = c.slots) ∧
       (kind = 0 → ch < 192 → idx < 16 → ownersServed { c with owners := sset 0 c.owners idx (data &&& 0x3F#8) } = false → refuses i) ∧
       (kind = 0 → ch < 192 → idx < 16 → (∃ b : BitVec 8, (b = sget 0 c.owners idx ∨ b = data) ∧ b.getLsbD 5 = true ∧ (s.part (b.toNat % 32)).w1.getLsbD 63 = true) → refuses i) ∧
       (kind = 1 → ch < 192 → idx < 64 → ownersServed { c with nextSlots := sset 0 c.nextSlots idx (data &&& 0x9F#8) } = true → ∃ t, exec i s = .next t ∧ Responded t port 0 0 ∧
         sget 0#8 (t.channel ch).nextSlots idx = data &&& 0x9F#8 ∧ (t.channel ch).slots = c.slots) ∧
       (kind = 2 → ch < 192 → ∃ t, exec i s = .next t ∧ Responded t port 0 0 ∧ (t.channel ch).nextLend = (data.getLsbD 0 && s.pkg.lendOk) ∧ (t.channel ch).lend = c.lend)))

/-- Pages (R353, R356 to R358, R360, R361, R429): a migrated page keeps its bytes, label and domain in a new frame, and its old frame goes to
the scrubber; a freed page is unbacked and reads as zeros; a scrubbed frame goes back to its pool with its ticket; counts halve;
the commands of the mailbox do the same.

A slot of a channel (R403, R404): the owner's oldest request is served, where it has one; else, where lent, another partition's; the
position goes on, and past 63 the new table and lend bit take effect. -/
def Obligations.PagesAndBandwidthSlots : Prop :=
  (∀ (s : State) (k port : Nat),
     let p := s.page (65536 * k)
     let quiet_ := ∀ i, i < 1024 → pinHolders s (1024 * k + i) = []
     (let moved := fun (t : State) (tier : BitVec 2) (dev : Option (BitVec 6)) (f : Nat) =>
        t.page (65536 * k) = { p with tier := tier, dev := dev, frame := BitVec.ofNat 32 f, mov := false, goal := none, retired := false } ∧ t.mem = s.mem ∧
        (p.retired = false → ∃ x ∈ t.pkg.scrubs, x.frame = p.frame ∧ x.dev = p.dev ∧ x.tier = p.tier ∧ x.part = p.part) ∧ ∀ j, j ≠ k → tfind t.pages j = tfind s.pages j
      let movedLarge := fun (t : State) (tier : BitVec 2) (dev : Option (BitVec 6)) (f : Nat) => t.mem = s.mem ∧
        (∀ i, i < 32 → (t.page (65536 * (k / 32 * 32 + i))).frame = BitVec.ofNat 32 (f + i) ∧ (t.page (65536 * (k / 32 * 32 + i))).tier = tier ∧
          (t.page (65536 * (k / 32 * 32 + i))).dev = dev) ∧ ∀ j, j / 32 ≠ k / 32 → tfind t.pages j = tfind s.pages j
      p.b = true → ∀ tier dev s' f,
        (quiet_ → p.lg = false → takeFrame s p.part tier.toNat dev = some (s', f) →
          (p.goal = some (tier, dev) → ∃ t, exec (.pageMigration k) s = .next t ∧ moved t tier dev f) ∧
          (∀ d, d < 64 → partSpans s p.part d = true → dev = devOf (BitVec.ofNat 6 d) → canCommand s port →
            ∃ t, exec (.migrate port k tier d) s = .next t ∧ Responded t port 0 0 ∧ moved t tier dev f)) ∧
        ((∀ i, i < 32768 → pinHolders s (k / 32 * 32768 + i) = []) → p.lg = true → takeLarge s p.part tier.toNat dev = some (s', f) →
          (p.goal = some (tier, dev) → ∃ t, exec (.pageMigration k) s = .next t ∧ movedLarge t tier dev f) ∧
          (∀ d, d < 64 → partSpans s p.part d = true → dev = devOf (BitVec.ofNat 6 d) → canCommand s port →
            ∃ t, exec (.migrate port k tier d) s = .next t ∧ Responded t port 0 0 ∧ movedLarge t tier dev f))) ∧
     (∀ tier d, (p.b = false ∨ 64 ≤ d ∨ partSpans s p.part d = false) → canCommand s port → ∃ t st, exec (.migrate port k tier d) s = .next t ∧ Responded t port st 0 ∧ answered s t) ∧
     (let freed_ := fun (t : State) => t.page (65536 * k) = { nr := p.nr, nw := p.nw } ∧
        (∀ a, sget 0 t.mem a = if a / 65536 = k then 0 else sget 0 s.mem a) ∧ (p.retired = false → ∃ x ∈ t.pkg.scrubs, x.frame = p.frame ∧ x.dev = p.dev ∧ x.ticket = sget 0 s.pkg.tickets (devNum p.dev) + 1) ∧
        (∀ j, j ≠ k → tfind t.pages j = tfind s.pages j) ∧ ∀ c e, e ∈ (t.cu c).l1 → e.1 / 1024 ≠ k
      quiet_ → p.b = true → p.lg = false →
        (p.free = true → ∃ t, exec (.pageFree k) s = .next t ∧ freed_ t) ∧ (canCommand s port → ∃ t, exec (.unmap port k) s = .next t ∧ Responded t port 0 0 ∧ freed_ t)) ∧
     ((∀ i, i < 32768 → pinHolders s (k / 32 * 32768 + i) = []) → p.lg = true → (∀ i, i < 32 → (s.page (65536 * (k / 32 * 32 + i))).b = true) →
       let freedLarge := fun (t : State) => ∀ i, i < 32 → let j := k / 32 * 32 + i
         t.page (65536 * j) = { nr := (s.page (65536 * j)).nr, nw := (s.page (65536 * j)).nw } ∧ ∀ a, a / 65536 = j → sget 0 t.mem a = 0
       (p.free = true → ∃ t, exec (.pageFree k) s = .next t ∧ freedLarge t) ∧ (canCommand s port → ∃ t, exec (.unmap port k) s = .next t ∧ Responded t port 0 0 ∧ freedLarge t)) ∧
     (p.free = false → exec (.pageFree k) s = .next s) ∧
     (∀ d x, s.pkg.scrubs.find? (fun x => decide (devNum x.dev = d)) = some x → ∃ t, exec (.scrubFrame d) s = .next t ∧ t.pkg.scrubs = s.pkg.scrubs.erase x ∧
       sget 0 t.pkg.scrubbed d = x.ticket ∧ (∀ d', d' ≠ d → tfind t.pkg.scrubbed d' = tfind s.pkg.scrubbed d') ∧
       (t.pool (homePool x).1).back = (s.pool (homePool x).1).back ++ [(homePool x).2] ∧ t.mem = s.mem ∧ t = { s with pkg := t.pkg }) ∧
     (∀ q t0, (s.part q).nextHalve = some t0 → t0 ≤ s.now → 0 < halvePeriod (s.part q) → ∃ t, exec (.migrationHalving q) s = .next t ∧
       (∀ j y, tfind s.pages j = some y → tfind t.pages j = some (if inWindows s q (65536 * j) then { y with lacc := y.lacc / 2, racc := y.racc / 2, cnt := y.cnt / 2 } else y)) ∧
       t.part q = { s.part q with nextHalve := some (t0 + d64 (bits (s.part q).migrate.toNat 0 32 * 1024)) } ∧ t = { s with pages := t.pages, parts := t.parts }) ∧
     (∀ q data, q < 32 → (∀ e ∈ s.pages, e.2.cnt = 0) → ∃ t, exec (.migrationControlWrite q data) s = .next t ∧
       t.part q = { s.part q with migrate := data &&& 0x1FFFFFFFFFF#64
                                  nextHalve := if data.toNat % 2 ^ 32 = 0 then none else some (s.now + d64 (data.toNat % 2 ^ 32 * 1024)) } ∧ t = { s with parts := t.parts }) ∧
     (∀ nr nw, canCommand s port → p.lg = false → ∃ t, exec (.setNrNw port k nr nw) s = .next t ∧ Responded t port 0 0 ∧ t.page (65536 * k) = { p with nr := nr, nw := nw } ∧
       ∀ j, j ≠ k → tfind t.pages j = tfind s.pages j) ∧
     (∀ va, canCommand s port → p.lg = false → quiet_ → ∃ t, exec (.harvestDirtyBits port k 1 va) s = .next t ∧ Responded t port 0 0 ∧
       t.hostMem = writeBytes s.hostMem va.toNat [if p.dirty then 1 else 0] ∧ (t.page (65536 * k)).dirty = false ∧ t.mem = s.mem)) ∧
  (∀ (s : State) (ch : Nat), ch < 192 →
     let c := s.channel ch
     let e := sget 0#8 c.slots c.pos
     let o := e.toNat % 32
     ∃ t, exec (.slotPositionService ch) s = .next t ∧ t = { s with channels := t.channels, accs := t.accs } ∧
       (∀ k, k ≠ ch → tfind t.channels k = tfind s.channels k) ∧
       (c.pos < 63 → (t.channel ch).pos = c.pos + 1 ∧ (t.channel ch).slots = c.slots ∧ (t.channel ch).lend = c.lend) ∧
       (c.pos = 63 → (t.channel ch).pos = 0 ∧ (t.channel ch).slots = c.nextSlots ∧ (t.channel ch).lend = c.nextLend) ∧
       (∀ n rest, e.getLsbD 7 = true → pendingIn s ch o = n :: rest → (t.channel ch).servedNow = some (o, n)) ∧
       (c.lend = false → (e.getLsbD 7 = false ∨ pendingIn s ch o = []) → (t.channel ch).servedNow = none ∧ t.accs = s.accs) ∧
       (c.lend = true → (e.getLsbD 7 = false ∨ pendingIn s ch o = []) → ∀ p, p < 32 → (∀ q, q < 32 → q ≠ p → pendingIn s ch q = []) → ∀ n rest, pendingIn s ch p = n :: rest →
         (t.channel ch).servedNow = some (p, n) ∧ (t.channel ch).lastLent = p))

/-! ## The host. -/

/-- The BAR2 window (R290, R351, R443, R457): a read is answered with the bytes of its line parts where the window is open, the range lets it
and the label names nobody but the host's principal; with an unsupported request where it is closed; else aborted, with an event. A
write is performed part by part with the host's label. An access waits where an earlier one of its port does, where its partition is
not awake, and where a write cannot be made yet. -/
def Obligations.HostWindowAccesses : Prop := ∀ (s : State) (vf off n : Nat) (data : BitVec 512), 0 < n → n ≤ 64 → off + n ≤ 2 ^ 38 →
  let c := s.ctx vf
  let va := bits c.bar2.toNat 38 10 * 2 ^ 38 + off
  let host : Label := 1#16 <<< bits c.bar2.toNat 48 4
  let answers := fun (t : State) (a : HostAnswer) => t.pkg.hostReads = s.pkg.hostReads ++ [(vf, off, a)]
  let port := sget 0 s.pkg.hostWct (portOf vf)
  let waits := fun (s : State) (i : Instr) (a : HostAcc) => exec i s = .next (waitForExit s a) ∧
    (waitForExit s a).pkg.waiting = s.pkg.waiting ++ [a] ∧ (waitForExit s a).mem = s.mem ∧ ((waitForExit s a).part (s.partOf vf)).waking = true
  (portReady s s.pkg.waiting (.bar2Read vf off n) = true →
    (c.bar2.getLsbD 63 = false → ∃ t, exec (.bar2Read vf off n) s = .next t ∧ answers t .unsupported ∧ t = { s with pkg := t.pkg }) ∧
    (c.bar2.getLsbD 63 = true → ∀ k, spanCause s vf (d64 va) n { rd := true } = some k → ∃ t, exec (.bar2Read vf off n) s = .next t ∧ answers t .completerAbort ∧ t.mem = s.mem) ∧
    (c.bar2.getLsbD 63 = true → spanCause s vf (d64 va) n { rd := true } = none →
      (∀ s1 s2 bs l, devTouch s vf va n = .ok s1 → hostGet s1 vf (lineParts va n) = .ok (s2, none, bs, l) →
        (l &&& ~~~host = 0 → exec (.bar2Read vf off n) s = .next { s2 with pkg := { s2.pkg with hostReads := s2.pkg.hostReads ++ [(vf, off, .data (leNat bs))] } }) ∧
        (l &&& ~~~host ≠ 0 → ∃ t, exec (.bar2Read vf off n) s = .next t ∧ t.pkg.hostReads = s2.pkg.hostReads ++ [(vf, off, .completerAbort)] ∧ t.mem = s2.mem)) ∧
      (∀ k r, devTouch s vf va n = .ok s → rangeOf s vf (d64 va) = some (k, r) → let ia := iaOf r (d64 va)
        spaceOf r = .mem → va % 64 + n ≤ 64 → pinHolders s (ia / 64) = [] → memSide s vf c.dom .mem r ia false 0 = .ok s → (s.page ia).label &&& ~~~host = 0 →
        (∀ i, i < n → byteBad s (ia + i) = false) →
        ∃ t, exec (.bar2Read vf off n) s = .next t ∧ answers t (.data (leNat (memRead s noLaunch .mem ia n))) ∧ t.mem = s.mem ∧ t.threads = s.threads) ∧
      (∀ s1 s2 k, devTouch s vf va n = .ok s1 → hostGet s1 vf (lineParts va n) = .ok (s2, some k, [], 0) →
        ∃ t, exec (.bar2Read vf off n) s = .next t ∧ t.pkg.hostReads = s2.pkg.hostReads ++ [(vf, off, .completerAbort)] ∧ t.mem = s2.mem) ∧
      (∀ e, ((devTouch s vf va n).bind fun s1 => hostGet s1 vf (lineParts va n)) = .error e →
        exec (.bar2Read vf off n) s = .next (waitForExit (devWaits s e) (.bar2Read vf off n))))) ∧
  (portReady s s.pkg.waiting (.bar2Write vf off n data) = true →
    (c.bar2.getLsbD 63 = false → exec (.bar2Write vf off n data) s = .next s) ∧
    (c.bar2.getLsbD 63 = true → port ≠ 0 → s.now ≤ port → waits s (.bar2Write vf off n data) (.bar2Write vf off n data)) ∧
    (c.bar2.getLsbD 63 = true → port = 0 ∨ port < s.now →
      (∀ k, spanCause s vf (d64 va) n { wr := true } = some k → ∃ t, exec (.bar2Write vf off n data) s = .next t ∧ t.mem = s.mem ∧ t.pkg.waiting = s.pkg.waiting) ∧
      (spanCause s vf (d64 va) n { wr := true } = none →
        (∀ s', hostPuts s vf va n data.toNat = .ok s' → exec (.bar2Write vf off n data) s = .next s') ∧
        (∀ e, hostPuts s vf va n data.toNat = .error e → exec (.bar2Write vf off n data) s = .next (waitForExit (devWaits s e) (.bar2Write vf off n data))) ∧
        (∀ k r, rangeOf s vf (d64 va) = some (k, r) → let ia := iaOf r (d64 va)
          spaceOf r = .mem → va % 64 + n ≤ 64 → ia % 64 + n ≤ 64 → pinHolders s (ia / 64) = [] → memSide s vf c.dom .mem r ia true host = .ok s → ownAccesses s →
          ∃ t, exec (.bar2Write vf off n data) s = .next t ∧ t.mem = writeBytes s.mem ia (leBytes data.toNat n) ∧ (t.page ia).label = (s.page ia).label ||| host ∧
            sget 0 t.pkg.hostWct (portOf vf) = (if port < writtenAt s (ia / 64) then writtenAt s (ia / 64) else port) ∧ t.threads = s.threads)))) ∧
  (portReady s s.pkg.waiting (.bar2Read vf off n) = false → waits s (.bar2Read vf off n) (.bar2Read vf off n)) ∧
  (portReady s s.pkg.waiting (.bar2Write vf off n data) = false → waits s (.bar2Write vf off n data) (.bar2Write vf off n data))

/-- The register blocks, counters and fault-event rings (R350, R426, R432, R441, R444, R446 to R449, R456): what each write leaves in its register, and no
effect on a range while a workgroup is placed; an event goes to the ring's next slot with its producer index, waits where the
ring is full, or is dropped; waiting events go on when there is room; a reply answers the event with its sequence number. -/
def Obligations.HostRegistersAndEvents : Prop := ∀ (s : State) (vf port : Nat) (data : DWord),
  let ready := fun (a : HostAcc) => portReady s s.pkg.waiting a = true
  (∀ w, w < 4 → ready (.counters vf w) → ∃ t, exec (.counterBlockWrite vf w) s = .next t ∧ (∀ k, (sget 0 (t.ctx vf).counters k : DWord) = if k = w then 0 else sget 0 (s.ctx vf).counters k) ∧
    (t.ctx vf).ranges = (s.ctx vf).ranges ∧ t = { s with ctxs := t.ctxs }) ∧
  (∀ w, ∃ t, exec (.pfCounterWrite w) s = .next t ∧ (∀ k, (sget 0 t.pkg.pfCounters k : DWord) = if k = w then 0 else sget 0 s.pkg.pfCounters k) ∧ t = { s with pkg := t.pkg }) ∧
  (∀ w, portReady s s.pkg.waiting (.counters vf w) = false → exec (.counterBlockWrite vf w) s = .next (waitForExit s (.counters vf w))) ∧
  (∀ o, vf < 384 → o % 8 = 0 → portReady s s.pkg.waiting (.register vf o data) = false → exec (.registerWrite vf o data) s = .next (waitForExit s (.register vf o data))) ∧
  (vf < 384 → (∀ o, ready (.register vf o data)) →
    (∀ k, k < 8 → (anyPlaced s vf = false → (∃ t, exec (.registerWrite vf (0x200 + 32 * k) data) s = .next t ∧ rangeWord ((tfind (t.ctx vf).ranges k).getD []) 0 = (data &&& 0x0000FFFFFFFF0000#64).toNat ∧
          (∀ j, j ≠ k → tfind (t.ctx vf).ranges j = tfind (s.ctx vf).ranges j) ∧ t = { s with ctxs := t.ctxs }) ∧
        (¬ (data.getLsbD 61 = true ∧ data.getLsbD 60 = true) → bits data.toNat 58 2 ≠ 3 → bits data.toNat 56 2 ≠ 3 → ∃ t, exec (.registerWrite vf (0x218 + 32 * k) data) s = .next t ∧
          rangeWord ((tfind (t.ctx vf).ranges k).getD []) 3 = (data &&& 0xFFF800000000FFFF#64).toNat ∧ t = { s with ctxs := t.ctxs })) ∧
      (anyPlaced s vf = true ∨ (data.getLsbD 61 = true ∧ data.getLsbD 60 = true) → exec (.registerWrite vf (0x218 + 32 * k) data) s = .next s)) ∧
    (∃ t, exec (.registerWrite vf 0x700 data) s = .next t ∧ (t.ctx vf).bar2 = data &&& 0x800FFFC000000000#64 ∧ t = { s with ctxs := t.ctxs }) ∧
    (∃ t, exec (.registerWrite vf 0x110 data) s = .next t ∧ (t.ctx vf).ring.w0 = data &&& 0xFFFFFFFFFFFFFFC0#64 ∧ t = { s with ctxs := t.ctxs }) ∧
    (∃ t, exec (.registerWrite vf 0x118 data) s = .next t ∧ (t.ctx vf).ring.w1 = data &&& 0x800000000000000F#64 ∧ t = { s with ctxs := t.ctxs }) ∧
    (anyPlaced s vf = false → ∃ t, exec (.registerWrite vf 0x320 data) s = .next t ∧ (t.ctx vf).inject0 = data ∧ t = { s with ctxs := t.ctxs })) ∧
  (port < 2 → ∀ k, k < 32 → (bit (s.part k).w1.toNat 63 = false → ∃ t, exec (.registerWrite (384 + port) (0x2100 + 8 * k) data) s = .next t ∧ (t.part k).mode = data &&& 0x1F#64 ∧
      t = { s with parts := t.parts }) ∧ (bit (s.part k).w1.toNat 63 = true → exec (.registerWrite (384 + port) (0x2100 + 8 * k) data) s = .next s) ∧
    (k < 8 → ∃ t m, exec (.registerWrite (384 + port) (8 * k) data) s = .next t ∧ tfind t.pkg.mailboxes port = some m ∧ sget 0 m.command k = data ∧ t = { s with pkg := t.pkg })) ∧
  (∀ e : FaultEvent, let r := (s.ctx vf).ring
    let base := bits r.w0.toNat 6 58 * 64
    let size := 2 ^ bits r.w1.toNat 0 4
    let t := postVf s vf e
    let x := { e with vf := vf }
    let wrote := fun (t : State) (x : FaultEvent) => t.hostMem = writeNat (writeBytes s.hostMem (base + 32 * (r.prod.toNat % size)) (eventBytes x r.seq r.dropped)) (base + 32 * size) 8 (r.prod + 1).toNat ∧
      (t.ctx vf).ring.prod = r.prod + 1 ∧ (t.ctx vf).ring.seq = r.seq + 1 ∧ (t.ctx vf).ring.dropped = false
    (ringRoom s r = true → wrote t x ∧ ((t.ctx vf).ring.outstanding = if e.reply then r.outstanding ++ [{ x with seq := r.seq }] else r.outstanding) ∧ t = { s with hostMem := t.hostMem, ctxs := t.ctxs }) ∧
    (ringRoom s r = false → e.reply = true → t = s.modCtx vf fun c => { c with ring := { r with waiting := r.waiting ++ [x] } }) ∧
    (ringRoom s r = false → e.reply = false → t = s.modCtx vf fun c => { c with ring := { r with dropped := true } }) ∧
    (vf < 384 → (∀ rest, r.waiting = e :: rest → ringRoom s r = true → ∃ t, exec (.faultEventRingRoom vf) s = .next t ∧ wrote t e ∧ (t.ctx vf).ring.waiting = rest ∧ t = { s with hostMem := t.hostMem, ctxs := t.ctxs }) ∧
      (r.waiting = [] ∨ ringRoom s r = false → exec (.faultEventRingRoom vf) s = .next s))) ∧
  (∀ q accept, canCommand s port → (outstanding s port q = none → ∃ t, exec (.replyToFaultEvent port q accept) s = .next t ∧ Responded t port 1 0 ∧ answered s t) ∧
    (∀ k e, outstanding s port q = some (k, e) → e.type = 6 → ∃ t, exec (.replyToFaultEvent port q accept) s = .next t ∧ Responded t port 0 0 ∧ e.seq = q ∧ e ∈ (ringAt s k).outstanding ∧
      (ringAt t k).outstanding = (ringAt s k).outstanding.erase e ∧ ∀ c, tfind s.cmds e.detail.toNat = some c → tfind t.cmds e.detail.toNat = some { c with accepted := some accept }))

/-- Policies, label domains and the other commands (R362, R365, R366, R445, R455 to R457): the status of an install is the first check that fails;
an installed policy replaces the label's; 0x07 where none is; an unknown opcode has no effect and status 0xFF; a sleep needs every
partition idle. -/
def Obligations.PolicyAndOtherCommands : Prop := ∀ (s : State) (port : Nat), canCommand s port →
  let answers := fun (i : Instr) (st : BitVec 8) (v : DWord) => ∃ t, exec i s = .next t ∧ Responded t port st v ∧ answered s t
  (∀ dom slot e l, 256 ≤ dom ∨ 16 ≤ slot → ∃ st, answers (.setUpLabelDomain port dom slot e l) st 0) ∧
  (∀ dom slot e l, dom < 256 → slot < 16 → ∃ t d, exec (.setUpLabelDomain port dom slot e l) s = .next t ∧ Responded t port 0 0 ∧ tfind t.pkg.domains dom = some d ∧
    tfind d slot = some { ecdsa := e % 2 ^ 384, lms := l % 2 ^ 384, bound := true } ∧
    (∀ k, k ≠ slot → tfind d k = tfind ((tfind s.pkg.domains dom).getD []) k) ∧ ∀ k, k ≠ dom → tfind t.pkg.domains k = tfind s.pkg.domains k) ∧
  (∀ body lens sigs, let w := fun k => ((body[k]?).getD (0 : BitVec 32)).toNat
    let p : Policy := { dom := BitVec.ofNat 8 (w 1), label := BitVec.ofNat 16 (w 2), dests := BitVec.ofNat 16 (w 2 / 2 ^ 16), serial := w32 (w 3)
                        budget := d64 (w 4 + 2 ^ 32 * w 5), expiry := d64 (w 6 + 2 ^ 32 * w 7) }
    let i : Instr := .installPolicy port body lens sigs
    let malformed := body.length ≠ 32 ∨ w 0 ≠ 0x4750 ∨ w 1 / 2 ^ 8 ≠ 0 ∨ (∃ k, 8 ≤ k ∧ w k ≠ 0) ∨ lens = false
    let bound := ∀ k, k < 16 → p.label.getLsbD k = true → ∃ d x, tfind s.pkg.domains p.dom.toNat = some d ∧ tfind d k = some x ∧ x.bound = true
    let old := s.pkg.policies.find? fun q => decide (p.dom = q.dom ∧ p.label = q.label)
    let two := 2 ≤ ((List.range 16).countP fun k => p.label.getLsbD k)
    (malformed → answers i 0x01 0) ∧ (¬ malformed → ¬ two → answers i 0x06 0) ∧ (¬ malformed → two → ¬ bound → answers i 0x02 0) ∧
    (¬ malformed → two → bound → sigs = false → answers i 0x03 0) ∧
    (¬ malformed → two → bound → sigs = true → ∀ q, old = some q → p.serial.toNat ≤ q.serial.toNat → answers i 0x04 0) ∧
    (¬ malformed → two → bound → sigs = true → old = none → 1024 ≤ s.pkg.policies.length → answers i 0x05 0) ∧
    (¬ malformed → two → bound → sigs = true → (∀ q, old = some q → q.serial.toNat < p.serial.toNat) → (old = none → s.pkg.policies.length < 1024) →
      ∃ t, exec i s = .next t ∧ Responded t port 0 0 ∧ t.pkg.policies = (s.pkg.policies.filter fun q => !decide (p.dom = q.dom ∧ p.label = q.label)) ++ [p])) ∧
  (∀ dom label, let d := BitVec.ofNat 8 dom
    (policyOf s d label = none → answers (.removePolicy port dom label) 0x07 0 ∧ answers (.readBudget port dom label) 0x07 0) ∧
    (∀ p, policyOf s d label = some p → answers (.readBudget port dom label) 0x00 p.budget ∧
      ∃ t, exec (.removePolicy port dom label) s = .next t ∧ Responded t port 0 0 ∧ policyOf t d label = none ∧
        ∀ q ∈ s.pkg.policies, (q.dom ≠ d ∨ q.label ≠ label) → q ∈ t.pkg.policies)) ∧
  (∀ va nonce, ∃ t, exec (.attest port va nonce) s = .next t ∧ Responded t port 0 0 ∧ t.hostMem = writeBytes s.hostMem va (leBytes nonce 48 ++ Config.report s.fresh) ∧ t.mem = s.mem) ∧
  (allIdle s = true → ∃ t, exec (.enterPl4 port) s = .next t ∧ Responded t port 0 0 ∧ t.pkg.power = 4 ∧ (∀ p ∈ enabledParts s, (t.part p).power = 4) ∧ t.mem = s.mem) ∧
  (allIdle s = false → ∃ st, answers (.enterPl4 port) st 0) ∧
  (∀ op : BitVec 8, (op = 0 ∨ 0x0D < op.toNat) → answers (.mailboxUnknownOpcode port op) 0xFF 0)

/-- Boot, power states, links and temperature (R2, R444, R451 to R454, R456 to R458): the first failing boot step holds the device; idle partitions
sleep as their tolerance allows and wake, and what waited is made; a flit with no route is dropped and counted; a port that has trained
down carries nothing; over the power limit the clock falls by 100 MHz, at 105 °C it is halved, at 115 °C partitions are held. -/
def Obligations.PowerAndLinkSteps : Prop := ∀ (s : State),
  (∀ a b c d, let ok := a && b && c && d
    ∃ t, exec (.powerOnBoot a b c d) s = .next t ∧ t.pkg.booted = ok ∧ t.hostMem = s.hostMem ∧ t.wgs = [] ∧ t.mem = [] ∧ t.ctxs = [] ∧ t.parts = [] ∧ t.now = 0 ∧
      t.pkg.bootStep = if ok then 0 else if !a then 1 else if !b then 2 else if !c then 3 else 4) ∧
  (∀ p, let q := s.part p
    (p < 32 → q.w1.getLsbD 63 = true → q.power = 0 → q.waking = false → partIdle s p = true → 100000 ≤ (s.now - q.idleSince).toNat → q.tol.toNat < 40 → ∃ t, exec (.idlePowerEntry p) s = .next t ∧
      (t.part p).power = (if 2 ≤ q.tol.toNat then 1 else 0) ∧ t = { s with parts := t.parts }) ∧
    ((s.now - q.idleSince).toNat < 100000 → exec (.idlePowerEntry p) s = .next s) ∧
    (q.waking = true → s.pkg.power ≠ 4 → s.pkg.hotReset = false → q.power ≠ 3 → let s1 := { s with pkg := { s.pkg with waiting := [] } }.modPart p fun q => { q with power := 0, waking := false, idleSince := s.now }
      (s.pkg.waiting = [] → exec (.powerStateExit p) s = .next s1 ∧ s1.part p = { q with power := 0, waking := false, idleSince := s.now }) ∧
      (∀ a s2, s.pkg.waiting = [a] → portReady s1 [] a = true → makeAccess s1 a = .ok s2 → exec (.powerStateExit p) s = .next s2)) ∧
    (q.waking = true → s.pkg.power ≠ 4 → s.pkg.hotReset = false → q.power = 3 → s.pkg.waiting = [] → ∃ t, exec (.powerStateExit p) s = .next t ∧
      (∀ k ∈ enabledParts s, t.part k = { s.part k with power := 0, waking := false, idleSince := s.now }) ∧ t = { s with parts := t.parts }) ∧
    (q.waking = false → exec (.powerStateExit p) s = .next s)) ∧
  (∀ x, s.pkg.power = 4 → s.pkg.waiting = [] → ∃ t, exec (.pcieWake x) s = .next t ∧ t.pkg.power = 0 ∧ t.now = (if s.now < x then x else s.now) ∧
    (∀ p ∈ enabledParts s, (t.part p).power = 0) ∧ t.mem = s.mem) ∧
  (∀ x, s.pkg.power ≠ 4 → exec (.pcieWake x) s = .next s) ∧
  (∀ port pid src dst, port < 16 → s.pkg.portsDown.getLsbD port = false →
    (∀ route, ∃ t, exec (.flitArrival port pid src dst false route) s = .next t ∧ sget 0#64 t.pkg.pfCounters 0 = satField (sget 0 s.pkg.pfCounters 0) 0 64 ∧
      t.pkg.delivered = s.pkg.delivered ∧ t = { s with pkg := t.pkg }) ∧
    (∃ t, exec (.flitArrival port pid src dst true false) s = .next t ∧ sget 0#64 t.pkg.pfCounters 3 = satField (sget 0 s.pkg.pfCounters 3) 0 64 ∧ t.pkg.delivered = s.pkg.delivered ∧
      t = { s with pkg := t.pkg }) ∧
    (flitPart s port pid = none → ∃ t, exec (.flitArrival port pid src dst true true) s = .next t ∧ sget 0#64 t.pkg.pfCounters 3 = satField (sget 0 s.pkg.pfCounters 3) 0 64 ∧
      t.pkg.delivered = s.pkg.delivered ∧ t = { s with pkg := t.pkg }) ∧
    (∀ p, flitPart s port pid = some p → let ready := partAwake s p = true ∧ ∀ b ∈ s.pkg.waiting, b.port ≠ 2 + port
      (ready → ∃ t, exec (.flitArrival port pid src dst true true) s = .next t ∧ t.pkg.delivered = s.pkg.delivered ++ [(port, src, dst)] ∧ t = { s with pkg := t.pkg }) ∧
      (¬ ready → ∃ t, exec (.flitArrival port pid src dst true true) s = .next t ∧ t.pkg.waiting = s.pkg.waiting ++ [.flit p port src dst] ∧ t.pkg.delivered = s.pkg.delivered ∧
        (t.part p).waking = true ∧ t = { s with parts := t.parts, pkg := t.pkg }))) ∧
  (∀ port pid src dst crc route, port < 16 → s.pkg.portsDown.getLsbD port = true → exec (.flitArrival port pid src dst crc route) s = .next s) ∧
  (∀ port, port < 16 → (∃ t, exec (.portTrainDown port) s = .next t ∧ t.pkg.portsDown.getLsbD port = true ∧ (∀ k, k ≠ port → t.pkg.portsDown.getLsbD k = s.pkg.portsDown.getLsbD k) ∧
      t = { s with pkg := t.pkg }) ∧
    ∃ t, exec (.linkRetrain port) s = .next t ∧ t.pkg.portsDown.getLsbD port = false ∧ sget 0#64 t.pkg.pfCounters 2 = satField (sget 0 s.pkg.pfCounters 2) 0 64 ∧ t = { s with pkg := t.pkg }) ∧
  (∀ w : BitVec 16, (1000000 ≤ (s.now - s.pkg.windowStart).toNat → ∃ t, exec (.powerWindow w) s = .next t ∧ t.pkg.pkgw = w ∧ t.pkg.windowStart = s.now ∧
      (w.toNat ≤ s.pkg.powerLimit → t.pkg.clk = s.pkg.clk) ∧ (s.pkg.powerLimit < w.toNat → 900 < s.pkg.clk.toNat → t.pkg.clk.toNat = max 900 (s.pkg.clk.toNat - 100)) ∧
      (s.pkg.clk.toNat ≤ 900 → t.pkg.clk = s.pkg.clk) ∧ t = { s with pkg := t.pkg }) ∧
    ((s.now - s.pkg.windowStart).toNat < 1000000 → exec (.powerWindow w) s = .next s)) ∧
  (∀ c : BitVec 8, (c.toNat < 115 → s.pkg.hotReset = false → ∃ t, exec (.junctionTemperature c) s = .next t ∧ t.pkg.tj = c ∧ t.pkg.hot = decide (105 ≤ c.toNat) ∧ t = { s with pkg := t.pkg }) ∧
    (115 ≤ c.toNat → s.pkg.hotReset = false → exec (.junctionTemperature c) s =
      .next (reportSmbus ((enabledParts s).foldl resetPart { s with pkg := { s.pkg with tj := c, hot := true, hotReset := true } }) 115)) ∧
    (115 ≤ c.toNat → s.pkg.hotReset = true → exec (.junctionTemperature c) s = .next { s with pkg := { s.pkg with tj := c, hot := true } }) ∧
    (c.toNat < 115 → s.pkg.hotReset = true → s.pkg.waiting = [] → (∀ p ∈ enabledParts s, ∀ v ∈ partVfs s p, idleQueues s v) → ∃ t, exec (.junctionTemperature c) s = .next t ∧
      t.pkg = { s.pkg with tj := c, hot := decide (105 ≤ c.toNat), hotReset := false } ∧ t = { s with pkg := t.pkg, parts := t.parts }))
end

