-- ==== Sys2Proof/Laws/Table.lean ====
section
/-! SUPPORT. What the operations on tables do: reading after writing, the keys, and the canonical form that sparse tables keep. -/

namespace Sys2Proof.Machine

variable {α : Type}

@[simp] theorem tfind_nil (x : Nat) : tfind ([] : Table α) x = none := rfl

theorem tfind_cons (k : Nat) (v : α) (r : Table α) (x : Nat) :
    tfind ((k, v) :: r) x = if k = x then some v else tfind r x := rfl

theorem tfind_tput (m : Table α) (x y : Nat) (v : α) :
    tfind (tput m x v) y = if x = y then some v else tfind m y := by
  induction m with
  | nil => simp [tput, tfind]
  | cons e r ih =>
    obtain ⟨k, u⟩ := e
    simp only [tput]
    split
    · simp [tfind]
    · split
      · rename_i h; subst h; simp only [tfind]; split <;> rfl
      · rename_i h1 h2
        simp only [tfind, ih]
        by_cases hky : k = y
        · have : x ≠ y := fun h => h2 (hky.trans h.symm)
          simp [hky, this]
        · simp [hky]

theorem tfind_tdel (m : Table α) (x y : Nat) :
    tfind (tdel m x) y = if x = y then none else tfind m y := by
  unfold tdel
  induction m with
  | nil => simp [tfind]
  | cons e r ih =>
    obtain ⟨k, u⟩ := e
    by_cases hk : k = x
    · subst hk
      simp only [List.filter, ne_eq, not_true_eq_false, decide_false, ih, tfind]
      split <;> rfl
    · simp only [List.filter, ne_eq, hk, not_false_eq_true, decide_true, tfind, ih]
      by_cases hy : k = y
      · have : x ≠ y := fun h => hk (hy.trans h.symm)
        simp [hy, this]
      · simp [hy]

theorem tfind_tmod (m : Table α) (x y : Nat) (f : α → α) :
    tfind (tmod m x f) y = if x = y then (tfind m y).map f else tfind m y := by
  induction m with
  | nil => simp [tmod, tfind]
  | cons e r ih =>
    obtain ⟨k, u⟩ := e
    simp only [tmod]
    split
    · rename_i h; subst h
      simp only [tfind]
      split <;> rfl
    · rename_i h
      simp only [tfind, ih]
      by_cases hy : k = y
      · have : x ≠ y := fun h' => h (hy.trans h'.symm)
        simp [hy, this]
      · simp [hy]

theorem tfind_tmap {β : Type} (m : Table α) (f : Nat → α → β) (y : Nat) :
    tfind (tmap m f) y = (tfind m y).map (f y) := by
  induction m with
  | nil => rfl
  | cons e r ih =>
    obtain ⟨k, u⟩ := e
    simp only [tmap, List.map_cons, tfind]
    split
    · rename_i h; subst h; rfl
    · exact ih

/-- Changing an entry keeps the keys. -/
theorem tmod_keys (m : Table α) (x : Nat) (f : α → α) : (tmod m x f).map (·.1) = m.map (·.1) := by
  induction m with
  | nil => rfl
  | cons e r ih =>
    obtain ⟨k, u⟩ := e
    simp only [tmod]
    split <;> simp [ih]

theorem risingFrom_weaken (m : Table α) {a b : Nat} (h : a ≤ b) (hm : risingFrom b m = true) : risingFrom a m = true := by
  cases m with
  | nil => rfl
  | cons e r =>
    obtain ⟨k, u⟩ := e
    simp only [risingFrom, Bool.and_eq_true, decide_eq_true_eq] at hm ⊢
    exact ⟨by omega, hm.2⟩

theorem risingFrom_filter (p : Nat × α → Bool) (m : Table α) (n : Nat) (hm : risingFrom n m = true) :
    risingFrom n (m.filter p) = true := by
  induction m generalizing n with
  | nil => rfl
  | cons e r ih =>
    obtain ⟨k, u⟩ := e
    simp only [risingFrom, Bool.and_eq_true, decide_eq_true_eq] at hm
    rw [List.filter_cons]
    split
    · simp only [risingFrom, Bool.and_eq_true, decide_eq_true_eq]
      exact ⟨hm.1, ih _ hm.2⟩
    · exact risingFrom_weaken _ (by omega) (ih _ hm.2)

theorem risingFrom_tput (m : Table α) (n x : Nat) (v : α) (hn : n ≤ x) (hm : risingFrom n m = true) :
    risingFrom n (tput m x v) = true := by
  induction m generalizing n with
  | nil => simp [tput, risingFrom, hn]
  | cons e r ih =>
    obtain ⟨k, u⟩ := e
    simp only [risingFrom, Bool.and_eq_true, decide_eq_true_eq] at hm
    simp only [tput]
    split
    · simp only [risingFrom, Bool.and_eq_true, decide_eq_true_eq]
      exact ⟨hn, by omega, hm.2⟩
    · split
      · rename_i h; subst h
        simp only [risingFrom, Bool.and_eq_true, decide_eq_true_eq]
        exact ⟨hm.1, hm.2⟩
      · simp only [risingFrom, Bool.and_eq_true, decide_eq_true_eq]
        exact ⟨hm.1, ih (k + 1) (by omega) hm.2⟩

section sparse

variable [DecidableEq α]

theorem sget_sset (d : α) (m : Table α) (x y : Nat) (v : α) :
    sget d (sset d m x v) y = if x = y then v else sget d m y := by
  unfold sget sset
  split
  · rename_i h; subst h
    rw [tfind_tdel]
    split <;> rfl
  · rw [tfind_tput]
    split <;> rfl

@[simp] theorem sget_sset_self (d : α) (m : Table α) (x : Nat) (v : α) : sget d (sset d m x v) x = v := by
  simp [sget_sset]

theorem sget_sset_other (d : α) (m : Table α) {x y : Nat} (v : α) (h : x ≠ y) :
    sget d (sset d m x v) y = sget d m y := by simp [sget_sset, h]

theorem noDefault_filter (d : α) (p : Nat × α → Bool) (m : Table α) (hm : noDefault d m = true) :
    noDefault d (m.filter p) = true := by
  unfold noDefault at *
  rw [List.all_eq_true] at *
  intro e he
  exact hm e (List.mem_filter.mp he).1

theorem noDefault_tput (d : α) (m : Table α) (x : Nat) (v : α) (hv : v ≠ d) (hm : noDefault d m = true) :
    noDefault d (tput m x v) = true := by
  induction m with
  | nil => simp [tput, noDefault, hv]
  | cons e r ih =>
    obtain ⟨k, u⟩ := e
    simp only [noDefault, List.all_cons, Bool.and_eq_true] at hm ih
    simp only [tput]
    split
    · simp [noDefault, hv]; simpa using hm
    · split
      · simp [noDefault, hv]; simpa using hm.2
      · simp only [noDefault, List.all_cons, Bool.and_eq_true]
        exact ⟨hm.1, ih hm.2⟩

/-- A write keeps the canonical form. -/
theorem canonical_sset (d : α) (m : Table α) (x : Nat) (v : α) (hm : canonical d m = true) :
    canonical d (sset d m x v) = true := by
  simp only [canonical, Bool.and_eq_true] at *
  unfold sset
  split
  · exact ⟨risingFrom_filter _ _ _ hm.1, noDefault_filter _ _ _ hm.2⟩
  · rename_i hv
    exact ⟨risingFrom_tput _ _ _ _ (Nat.zero_le _) hm.1, noDefault_tput _ _ _ _ hv hm.2⟩

end sparse

/-- Writing bytes keeps the canonical form. -/
theorem canonical_writeBytes (bs : List Byte) (m : Table Byte) (a : Nat) (hm : canonical 0#8 m = true) :
    canonical 0#8 (writeBytes m a bs) = true := by
  induction bs generalizing m a with
  | nil => exact hm
  | cons b r ih => exact ih _ _ (canonical_sset _ _ _ _ hm)

/-- A byte after a write of bytes: the byte written there, or the one before. -/
theorem sget_writeBytes (bs : List Byte) (m : Table Byte) (a x : Nat) :
    sget 0#8 (writeBytes m a bs) x = if a ≤ x ∧ x < a + bs.length then (bs[x - a]?).getD 0#8 else sget 0#8 m x := by
  induction bs generalizing m a with
  | nil => simp only [writeBytes, List.length_nil]; rw [if_neg (by omega)]
  | cons b r ih =>
    simp only [writeBytes, ih, List.length_cons]
    by_cases h1 : a + 1 ≤ x ∧ x < a + 1 + r.length
    · rw [if_pos h1, if_pos (by omega)]
      have : x - a = (x - (a + 1)) + 1 := by omega
      simp [this]
    · rw [if_neg h1, sget_sset]
      by_cases h2 : a = x
      · subst h2; simp
      · rw [if_neg h2, if_neg (by omega)]

@[simp] theorem readBytes_length (m : Table Byte) (a n : Nat) : (readBytes m a n).length = n := by
  induction n generalizing a with
  | zero => rfl
  | succ n ih => simp [readBytes, ih]

theorem readBytes_congr (m m' : Table Byte) (a n : Nat) (h : ∀ x, a ≤ x → x < a + n → sget 0#8 m x = sget 0#8 m' x) :
    readBytes m a n = readBytes m' a n := by
  induction n generalizing a with
  | zero => rfl
  | succ n ih =>
    simp only [readBytes]
    rw [h a (by omega) (by omega), ih (a + 1) fun x h1 h2 => h x (by omega) (by omega)]

/-- Reading back bytes just written. -/
theorem readBytes_writeBytes (bs : List Byte) (m : Table Byte) (a : Nat) :
    readBytes (writeBytes m a bs) a bs.length = bs := by
  induction bs generalizing m a with
  | nil => rfl
  | cons b r ih =>
    simp only [List.length_cons, readBytes, writeBytes]
    rw [ih]
    congr 1
    rw [sget_writeBytes, if_neg (by omega)]
    simp

end Sys2Proof.Machine
end

