-- ==== Sys2Proof/Laws/State.lean ====
section
/-! SUPPORT. The fields of the state after each named change of one record: one lemma per field per change, and reading the
changed record. -/

namespace Sys2Proof.Machine

@[simp] theorem State.modThr_now (s : State) (t : Nat) (f : Thread → Thread) : (s.modThr t f).now = s.now := rfl
@[simp] theorem State.modThr_mem (s : State) (t : Nat) (f : Thread → Thread) : (s.modThr t f).mem = s.mem := rfl
@[simp] theorem State.modThr_hostMem (s : State) (t : Nat) (f : Thread → Thread) : (s.modThr t f).hostMem = s.hostMem := rfl
@[simp] theorem State.modThr_foreignMem (s : State) (t : Nat) (f : Thread → Thread) : (s.modThr t f).foreignMem = s.foreignMem := rfl
@[simp] theorem State.modThr_grains (s : State) (t : Nat) (f : Thread → Thread) : (s.modThr t f).grains = s.grains := rfl
@[simp] theorem State.modThr_sectors (s : State) (t : Nat) (f : Thread → Thread) : (s.modThr t f).sectors = s.sectors := rfl
@[simp] theorem State.modThr_pages (s : State) (t : Nat) (f : Thread → Thread) : (s.modThr t f).pages = s.pages := rfl
@[simp] theorem State.modThr_groups (s : State) (t : Nat) (f : Thread → Thread) : (s.modThr t f).groups = s.groups := rfl
@[simp] theorem State.modThr_wgs (s : State) (t : Nat) (f : Thread → Thread) : (s.modThr t f).wgs = s.wgs := rfl
@[simp] theorem State.modThr_pipes (s : State) (t : Nat) (f : Thread → Thread) : (s.modThr t f).pipes = s.pipes := rfl
@[simp] theorem State.modThr_turn (s : State) (t : Nat) (f : Thread → Thread) : (s.modThr t f).turn = s.turn := rfl
@[simp] theorem State.modThr_cus (s : State) (t : Nat) (f : Thread → Thread) : (s.modThr t f).cus = s.cus := rfl
@[simp] theorem State.modThr_cores (s : State) (t : Nat) (f : Thread → Thread) : (s.modThr t f).cores = s.cores := rfl
@[simp] theorem State.modThr_accs (s : State) (t : Nat) (f : Thread → Thread) : (s.modThr t f).accs = s.accs := rfl
@[simp] theorem State.modThr_batches (s : State) (t : Nat) (f : Thread → Thread) : (s.modThr t f).batches = s.batches := rfl
@[simp] theorem State.modThr_cmds (s : State) (t : Nat) (f : Thread → Thread) : (s.modThr t f).cmds = s.cmds := rfl
@[simp] theorem State.modThr_mxops (s : State) (t : Nat) (f : Thread → Thread) : (s.modThr t f).mxops = s.mxops := rfl
@[simp] theorem State.modThr_msgs (s : State) (t : Nat) (f : Thread → Thread) : (s.modThr t f).msgs = s.msgs := rfl
@[simp] theorem State.modThr_launches (s : State) (t : Nat) (f : Thread → Thread) : (s.modThr t f).launches = s.launches := rfl
@[simp] theorem State.modThr_ctxs (s : State) (t : Nat) (f : Thread → Thread) : (s.modThr t f).ctxs = s.ctxs := rfl
@[simp] theorem State.modThr_parts (s : State) (t : Nat) (f : Thread → Thread) : (s.modThr t f).parts = s.parts := rfl
@[simp] theorem State.modThr_channels (s : State) (t : Nat) (f : Thread → Thread) : (s.modThr t f).channels = s.channels := rfl
@[simp] theorem State.modThr_passes (s : State) (t : Nat) (f : Thread → Thread) : (s.modThr t f).passes = s.passes := rfl
@[simp] theorem State.modThr_tris (s : State) (t : Nat) (f : Thread → Thread) : (s.modThr t f).tris = s.tris := rfl
@[simp] theorem State.modThr_frags (s : State) (t : Nat) (f : Thread → Thread) : (s.modThr t f).frags = s.frags := rfl
@[simp] theorem State.modThr_pkg (s : State) (t : Nat) (f : Thread → Thread) : (s.modThr t f).pkg = s.pkg := rfl
@[simp] theorem State.modThr_mismatch (s : State) (t : Nat) (f : Thread → Thread) : (s.modThr t f).mismatch = s.mismatch := rfl
@[simp] theorem State.modThr_cycle (s : State) (t : Nat) (f : Thread → Thread) : (s.modThr t f).cycle = s.cycle := rfl
@[simp] theorem State.modThr_lastSc (s : State) (t : Nat) (f : Thread → Thread) : (s.modThr t f).lastSc = s.lastSc := rfl
@[simp] theorem State.modThr_agenda (s : State) (t : Nat) (f : Thread → Thread) : (s.modThr t f).agenda = s.agenda := rfl
@[simp] theorem State.modThr_fresh (s : State) (t : Nat) (f : Thread → Thread) : (s.modThr t f).fresh = s.fresh := rfl

@[simp] theorem State.modGrp_now (s : State) (g : Nat) (f : Group → Group) : (s.modGrp g f).now = s.now := rfl
@[simp] theorem State.modGrp_mem (s : State) (g : Nat) (f : Group → Group) : (s.modGrp g f).mem = s.mem := rfl
@[simp] theorem State.modGrp_hostMem (s : State) (g : Nat) (f : Group → Group) : (s.modGrp g f).hostMem = s.hostMem := rfl
@[simp] theorem State.modGrp_foreignMem (s : State) (g : Nat) (f : Group → Group) : (s.modGrp g f).foreignMem = s.foreignMem := rfl
@[simp] theorem State.modGrp_grains (s : State) (g : Nat) (f : Group → Group) : (s.modGrp g f).grains = s.grains := rfl
@[simp] theorem State.modGrp_sectors (s : State) (g : Nat) (f : Group → Group) : (s.modGrp g f).sectors = s.sectors := rfl
@[simp] theorem State.modGrp_pages (s : State) (g : Nat) (f : Group → Group) : (s.modGrp g f).pages = s.pages := rfl
@[simp] theorem State.modGrp_threads (s : State) (g : Nat) (f : Group → Group) : (s.modGrp g f).threads = s.threads := rfl
@[simp] theorem State.modGrp_wgs (s : State) (g : Nat) (f : Group → Group) : (s.modGrp g f).wgs = s.wgs := rfl
@[simp] theorem State.modGrp_pipes (s : State) (g : Nat) (f : Group → Group) : (s.modGrp g f).pipes = s.pipes := rfl
@[simp] theorem State.modGrp_turn (s : State) (g : Nat) (f : Group → Group) : (s.modGrp g f).turn = s.turn := rfl
@[simp] theorem State.modGrp_cus (s : State) (g : Nat) (f : Group → Group) : (s.modGrp g f).cus = s.cus := rfl
@[simp] theorem State.modGrp_cores (s : State) (g : Nat) (f : Group → Group) : (s.modGrp g f).cores = s.cores := rfl
@[simp] theorem State.modGrp_accs (s : State) (g : Nat) (f : Group → Group) : (s.modGrp g f).accs = s.accs := rfl
@[simp] theorem State.modGrp_batches (s : State) (g : Nat) (f : Group → Group) : (s.modGrp g f).batches = s.batches := rfl
@[simp] theorem State.modGrp_cmds (s : State) (g : Nat) (f : Group → Group) : (s.modGrp g f).cmds = s.cmds := rfl
@[simp] theorem State.modGrp_mxops (s : State) (g : Nat) (f : Group → Group) : (s.modGrp g f).mxops = s.mxops := rfl
@[simp] theorem State.modGrp_msgs (s : State) (g : Nat) (f : Group → Group) : (s.modGrp g f).msgs = s.msgs := rfl
@[simp] theorem State.modGrp_launches (s : State) (g : Nat) (f : Group → Group) : (s.modGrp g f).launches = s.launches := rfl
@[simp] theorem State.modGrp_ctxs (s : State) (g : Nat) (f : Group → Group) : (s.modGrp g f).ctxs = s.ctxs := rfl
@[simp] theorem State.modGrp_parts (s : State) (g : Nat) (f : Group → Group) : (s.modGrp g f).parts = s.parts := rfl
@[simp] theorem State.modGrp_channels (s : State) (g : Nat) (f : Group → Group) : (s.modGrp g f).channels = s.channels := rfl
@[simp] theorem State.modGrp_passes (s : State) (g : Nat) (f : Group → Group) : (s.modGrp g f).passes = s.passes := rfl
@[simp] theorem State.modGrp_tris (s : State) (g : Nat) (f : Group → Group) : (s.modGrp g f).tris = s.tris := rfl
@[simp] theorem State.modGrp_frags (s : State) (g : Nat) (f : Group → Group) : (s.modGrp g f).frags = s.frags := rfl
@[simp] theorem State.modGrp_pkg (s : State) (g : Nat) (f : Group → Group) : (s.modGrp g f).pkg = s.pkg := rfl
@[simp] theorem State.modGrp_mismatch (s : State) (g : Nat) (f : Group → Group) : (s.modGrp g f).mismatch = s.mismatch := rfl
@[simp] theorem State.modGrp_cycle (s : State) (g : Nat) (f : Group → Group) : (s.modGrp g f).cycle = s.cycle := rfl
@[simp] theorem State.modGrp_lastSc (s : State) (g : Nat) (f : Group → Group) : (s.modGrp g f).lastSc = s.lastSc := rfl
@[simp] theorem State.modGrp_agenda (s : State) (g : Nat) (f : Group → Group) : (s.modGrp g f).agenda = s.agenda := rfl
@[simp] theorem State.modGrp_fresh (s : State) (g : Nat) (f : Group → Group) : (s.modGrp g f).fresh = s.fresh := rfl

@[simp] theorem State.modWg_now (s : State) (w : Nat) (f : Workgroup → Workgroup) : (s.modWg w f).now = s.now := rfl
@[simp] theorem State.modWg_mem (s : State) (w : Nat) (f : Workgroup → Workgroup) : (s.modWg w f).mem = s.mem := rfl
@[simp] theorem State.modWg_hostMem (s : State) (w : Nat) (f : Workgroup → Workgroup) : (s.modWg w f).hostMem = s.hostMem := rfl
@[simp] theorem State.modWg_foreignMem (s : State) (w : Nat) (f : Workgroup → Workgroup) : (s.modWg w f).foreignMem = s.foreignMem := rfl
@[simp] theorem State.modWg_grains (s : State) (w : Nat) (f : Workgroup → Workgroup) : (s.modWg w f).grains = s.grains := rfl
@[simp] theorem State.modWg_sectors (s : State) (w : Nat) (f : Workgroup → Workgroup) : (s.modWg w f).sectors = s.sectors := rfl
@[simp] theorem State.modWg_pages (s : State) (w : Nat) (f : Workgroup → Workgroup) : (s.modWg w f).pages = s.pages := rfl
@[simp] theorem State.modWg_threads (s : State) (w : Nat) (f : Workgroup → Workgroup) : (s.modWg w f).threads = s.threads := rfl
@[simp] theorem State.modWg_groups (s : State) (w : Nat) (f : Workgroup → Workgroup) : (s.modWg w f).groups = s.groups := rfl
@[simp] theorem State.modWg_pipes (s : State) (w : Nat) (f : Workgroup → Workgroup) : (s.modWg w f).pipes = s.pipes := rfl
@[simp] theorem State.modWg_turn (s : State) (w : Nat) (f : Workgroup → Workgroup) : (s.modWg w f).turn = s.turn := rfl
@[simp] theorem State.modWg_cus (s : State) (w : Nat) (f : Workgroup → Workgroup) : (s.modWg w f).cus = s.cus := rfl
@[simp] theorem State.modWg_cores (s : State) (w : Nat) (f : Workgroup → Workgroup) : (s.modWg w f).cores = s.cores := rfl
@[simp] theorem State.modWg_accs (s : State) (w : Nat) (f : Workgroup → Workgroup) : (s.modWg w f).accs = s.accs := rfl
@[simp] theorem State.modWg_batches (s : State) (w : Nat) (f : Workgroup → Workgroup) : (s.modWg w f).batches = s.batches := rfl
@[simp] theorem State.modWg_cmds (s : State) (w : Nat) (f : Workgroup → Workgroup) : (s.modWg w f).cmds = s.cmds := rfl
@[simp] theorem State.modWg_mxops (s : State) (w : Nat) (f : Workgroup → Workgroup) : (s.modWg w f).mxops = s.mxops := rfl
@[simp] theorem State.modWg_msgs (s : State) (w : Nat) (f : Workgroup → Workgroup) : (s.modWg w f).msgs = s.msgs := rfl
@[simp] theorem State.modWg_launches (s : State) (w : Nat) (f : Workgroup → Workgroup) : (s.modWg w f).launches = s.launches := rfl
@[simp] theorem State.modWg_ctxs (s : State) (w : Nat) (f : Workgroup → Workgroup) : (s.modWg w f).ctxs = s.ctxs := rfl
@[simp] theorem State.modWg_parts (s : State) (w : Nat) (f : Workgroup → Workgroup) : (s.modWg w f).parts = s.parts := rfl
@[simp] theorem State.modWg_channels (s : State) (w : Nat) (f : Workgroup → Workgroup) : (s.modWg w f).channels = s.channels := rfl
@[simp] theorem State.modWg_passes (s : State) (w : Nat) (f : Workgroup → Workgroup) : (s.modWg w f).passes = s.passes := rfl
@[simp] theorem State.modWg_tris (s : State) (w : Nat) (f : Workgroup → Workgroup) : (s.modWg w f).tris = s.tris := rfl
@[simp] theorem State.modWg_frags (s : State) (w : Nat) (f : Workgroup → Workgroup) : (s.modWg w f).frags = s.frags := rfl
@[simp] theorem State.modWg_pkg (s : State) (w : Nat) (f : Workgroup → Workgroup) : (s.modWg w f).pkg = s.pkg := rfl
@[simp] theorem State.modWg_mismatch (s : State) (w : Nat) (f : Workgroup → Workgroup) : (s.modWg w f).mismatch = s.mismatch := rfl
@[simp] theorem State.modWg_cycle (s : State) (w : Nat) (f : Workgroup → Workgroup) : (s.modWg w f).cycle = s.cycle := rfl
@[simp] theorem State.modWg_lastSc (s : State) (w : Nat) (f : Workgroup → Workgroup) : (s.modWg w f).lastSc = s.lastSc := rfl
@[simp] theorem State.modWg_agenda (s : State) (w : Nat) (f : Workgroup → Workgroup) : (s.modWg w f).agenda = s.agenda := rfl
@[simp] theorem State.modWg_fresh (s : State) (w : Nat) (f : Workgroup → Workgroup) : (s.modWg w f).fresh = s.fresh := rfl

@[simp] theorem State.modMem_now (s : State) (w : Nat) (f : WgMem → WgMem) : (s.modMem w f).now = s.now := rfl
@[simp] theorem State.modMem_mem (s : State) (w : Nat) (f : WgMem → WgMem) : (s.modMem w f).mem = s.mem := rfl
@[simp] theorem State.modMem_hostMem (s : State) (w : Nat) (f : WgMem → WgMem) : (s.modMem w f).hostMem = s.hostMem := rfl
@[simp] theorem State.modMem_foreignMem (s : State) (w : Nat) (f : WgMem → WgMem) : (s.modMem w f).foreignMem = s.foreignMem := rfl
@[simp] theorem State.modMem_grains (s : State) (w : Nat) (f : WgMem → WgMem) : (s.modMem w f).grains = s.grains := rfl
@[simp] theorem State.modMem_sectors (s : State) (w : Nat) (f : WgMem → WgMem) : (s.modMem w f).sectors = s.sectors := rfl
@[simp] theorem State.modMem_pages (s : State) (w : Nat) (f : WgMem → WgMem) : (s.modMem w f).pages = s.pages := rfl
@[simp] theorem State.modMem_threads (s : State) (w : Nat) (f : WgMem → WgMem) : (s.modMem w f).threads = s.threads := rfl
@[simp] theorem State.modMem_groups (s : State) (w : Nat) (f : WgMem → WgMem) : (s.modMem w f).groups = s.groups := rfl
@[simp] theorem State.modMem_pipes (s : State) (w : Nat) (f : WgMem → WgMem) : (s.modMem w f).pipes = s.pipes := rfl
@[simp] theorem State.modMem_turn (s : State) (w : Nat) (f : WgMem → WgMem) : (s.modMem w f).turn = s.turn := rfl
@[simp] theorem State.modMem_cus (s : State) (w : Nat) (f : WgMem → WgMem) : (s.modMem w f).cus = s.cus := rfl
@[simp] theorem State.modMem_cores (s : State) (w : Nat) (f : WgMem → WgMem) : (s.modMem w f).cores = s.cores := rfl
@[simp] theorem State.modMem_accs (s : State) (w : Nat) (f : WgMem → WgMem) : (s.modMem w f).accs = s.accs := rfl
@[simp] theorem State.modMem_batches (s : State) (w : Nat) (f : WgMem → WgMem) : (s.modMem w f).batches = s.batches := rfl
@[simp] theorem State.modMem_cmds (s : State) (w : Nat) (f : WgMem → WgMem) : (s.modMem w f).cmds = s.cmds := rfl
@[simp] theorem State.modMem_mxops (s : State) (w : Nat) (f : WgMem → WgMem) : (s.modMem w f).mxops = s.mxops := rfl
@[simp] theorem State.modMem_msgs (s : State) (w : Nat) (f : WgMem → WgMem) : (s.modMem w f).msgs = s.msgs := rfl
@[simp] theorem State.modMem_launches (s : State) (w : Nat) (f : WgMem → WgMem) : (s.modMem w f).launches = s.launches := rfl
@[simp] theorem State.modMem_ctxs (s : State) (w : Nat) (f : WgMem → WgMem) : (s.modMem w f).ctxs = s.ctxs := rfl
@[simp] theorem State.modMem_parts (s : State) (w : Nat) (f : WgMem → WgMem) : (s.modMem w f).parts = s.parts := rfl
@[simp] theorem State.modMem_channels (s : State) (w : Nat) (f : WgMem → WgMem) : (s.modMem w f).channels = s.channels := rfl
@[simp] theorem State.modMem_passes (s : State) (w : Nat) (f : WgMem → WgMem) : (s.modMem w f).passes = s.passes := rfl
@[simp] theorem State.modMem_tris (s : State) (w : Nat) (f : WgMem → WgMem) : (s.modMem w f).tris = s.tris := rfl
@[simp] theorem State.modMem_frags (s : State) (w : Nat) (f : WgMem → WgMem) : (s.modMem w f).frags = s.frags := rfl
@[simp] theorem State.modMem_pkg (s : State) (w : Nat) (f : WgMem → WgMem) : (s.modMem w f).pkg = s.pkg := rfl
@[simp] theorem State.modMem_mismatch (s : State) (w : Nat) (f : WgMem → WgMem) : (s.modMem w f).mismatch = s.mismatch := rfl
@[simp] theorem State.modMem_cycle (s : State) (w : Nat) (f : WgMem → WgMem) : (s.modMem w f).cycle = s.cycle := rfl
@[simp] theorem State.modMem_lastSc (s : State) (w : Nat) (f : WgMem → WgMem) : (s.modMem w f).lastSc = s.lastSc := rfl
@[simp] theorem State.modMem_agenda (s : State) (w : Nat) (f : WgMem → WgMem) : (s.modMem w f).agenda = s.agenda := rfl
@[simp] theorem State.modMem_fresh (s : State) (w : Nat) (f : WgMem → WgMem) : (s.modMem w f).fresh = s.fresh := rfl

@[simp] theorem State.modRing_now (s : State) (w r : Nat) (f : Ring → Ring) : (s.modRing w r f).now = s.now := rfl
@[simp] theorem State.modRing_mem (s : State) (w r : Nat) (f : Ring → Ring) : (s.modRing w r f).mem = s.mem := rfl
@[simp] theorem State.modRing_hostMem (s : State) (w r : Nat) (f : Ring → Ring) : (s.modRing w r f).hostMem = s.hostMem := rfl
@[simp] theorem State.modRing_foreignMem (s : State) (w r : Nat) (f : Ring → Ring) : (s.modRing w r f).foreignMem = s.foreignMem := rfl
@[simp] theorem State.modRing_grains (s : State) (w r : Nat) (f : Ring → Ring) : (s.modRing w r f).grains = s.grains := rfl
@[simp] theorem State.modRing_sectors (s : State) (w r : Nat) (f : Ring → Ring) : (s.modRing w r f).sectors = s.sectors := rfl
@[simp] theorem State.modRing_pages (s : State) (w r : Nat) (f : Ring → Ring) : (s.modRing w r f).pages = s.pages := rfl
@[simp] theorem State.modRing_threads (s : State) (w r : Nat) (f : Ring → Ring) : (s.modRing w r f).threads = s.threads := rfl
@[simp] theorem State.modRing_groups (s : State) (w r : Nat) (f : Ring → Ring) : (s.modRing w r f).groups = s.groups := rfl
@[simp] theorem State.modRing_pipes (s : State) (w r : Nat) (f : Ring → Ring) : (s.modRing w r f).pipes = s.pipes := rfl
@[simp] theorem State.modRing_turn (s : State) (w r : Nat) (f : Ring → Ring) : (s.modRing w r f).turn = s.turn := rfl
@[simp] theorem State.modRing_cus (s : State) (w r : Nat) (f : Ring → Ring) : (s.modRing w r f).cus = s.cus := rfl
@[simp] theorem State.modRing_cores (s : State) (w r : Nat) (f : Ring → Ring) : (s.modRing w r f).cores = s.cores := rfl
@[simp] theorem State.modRing_accs (s : State) (w r : Nat) (f : Ring → Ring) : (s.modRing w r f).accs = s.accs := rfl
@[simp] theorem State.modRing_batches (s : State) (w r : Nat) (f : Ring → Ring) : (s.modRing w r f).batches = s.batches := rfl
@[simp] theorem State.modRing_cmds (s : State) (w r : Nat) (f : Ring → Ring) : (s.modRing w r f).cmds = s.cmds := rfl
@[simp] theorem State.modRing_mxops (s : State) (w r : Nat) (f : Ring → Ring) : (s.modRing w r f).mxops = s.mxops := rfl
@[simp] theorem State.modRing_msgs (s : State) (w r : Nat) (f : Ring → Ring) : (s.modRing w r f).msgs = s.msgs := rfl
@[simp] theorem State.modRing_launches (s : State) (w r : Nat) (f : Ring → Ring) : (s.modRing w r f).launches = s.launches := rfl
@[simp] theorem State.modRing_ctxs (s : State) (w r : Nat) (f : Ring → Ring) : (s.modRing w r f).ctxs = s.ctxs := rfl
@[simp] theorem State.modRing_parts (s : State) (w r : Nat) (f : Ring → Ring) : (s.modRing w r f).parts = s.parts := rfl
@[simp] theorem State.modRing_channels (s : State) (w r : Nat) (f : Ring → Ring) : (s.modRing w r f).channels = s.channels := rfl
@[simp] theorem State.modRing_passes (s : State) (w r : Nat) (f : Ring → Ring) : (s.modRing w r f).passes = s.passes := rfl
@[simp] theorem State.modRing_tris (s : State) (w r : Nat) (f : Ring → Ring) : (s.modRing w r f).tris = s.tris := rfl
@[simp] theorem State.modRing_frags (s : State) (w r : Nat) (f : Ring → Ring) : (s.modRing w r f).frags = s.frags := rfl
@[simp] theorem State.modRing_pkg (s : State) (w r : Nat) (f : Ring → Ring) : (s.modRing w r f).pkg = s.pkg := rfl
@[simp] theorem State.modRing_mismatch (s : State) (w r : Nat) (f : Ring → Ring) : (s.modRing w r f).mismatch = s.mismatch := rfl
@[simp] theorem State.modRing_cycle (s : State) (w r : Nat) (f : Ring → Ring) : (s.modRing w r f).cycle = s.cycle := rfl
@[simp] theorem State.modRing_lastSc (s : State) (w r : Nat) (f : Ring → Ring) : (s.modRing w r f).lastSc = s.lastSc := rfl
@[simp] theorem State.modRing_agenda (s : State) (w r : Nat) (f : Ring → Ring) : (s.modRing w r f).agenda = s.agenda := rfl
@[simp] theorem State.modRing_fresh (s : State) (w r : Nat) (f : Ring → Ring) : (s.modRing w r f).fresh = s.fresh := rfl

@[simp] theorem State.modCu_now (s : State) (c : Nat) (f : Cu → Cu) : (s.modCu c f).now = s.now := rfl
@[simp] theorem State.modCu_mem (s : State) (c : Nat) (f : Cu → Cu) : (s.modCu c f).mem = s.mem := rfl
@[simp] theorem State.modCu_hostMem (s : State) (c : Nat) (f : Cu → Cu) : (s.modCu c f).hostMem = s.hostMem := rfl
@[simp] theorem State.modCu_foreignMem (s : State) (c : Nat) (f : Cu → Cu) : (s.modCu c f).foreignMem = s.foreignMem := rfl
@[simp] theorem State.modCu_grains (s : State) (c : Nat) (f : Cu → Cu) : (s.modCu c f).grains = s.grains := rfl
@[simp] theorem State.modCu_sectors (s : State) (c : Nat) (f : Cu → Cu) : (s.modCu c f).sectors = s.sectors := rfl
@[simp] theorem State.modCu_pages (s : State) (c : Nat) (f : Cu → Cu) : (s.modCu c f).pages = s.pages := rfl
@[simp] theorem State.modCu_threads (s : State) (c : Nat) (f : Cu → Cu) : (s.modCu c f).threads = s.threads := rfl
@[simp] theorem State.modCu_groups (s : State) (c : Nat) (f : Cu → Cu) : (s.modCu c f).groups = s.groups := rfl
@[simp] theorem State.modCu_wgs (s : State) (c : Nat) (f : Cu → Cu) : (s.modCu c f).wgs = s.wgs := rfl
@[simp] theorem State.modCu_pipes (s : State) (c : Nat) (f : Cu → Cu) : (s.modCu c f).pipes = s.pipes := rfl
@[simp] theorem State.modCu_turn (s : State) (c : Nat) (f : Cu → Cu) : (s.modCu c f).turn = s.turn := rfl
@[simp] theorem State.modCu_cores (s : State) (c : Nat) (f : Cu → Cu) : (s.modCu c f).cores = s.cores := rfl
@[simp] theorem State.modCu_accs (s : State) (c : Nat) (f : Cu → Cu) : (s.modCu c f).accs = s.accs := rfl
@[simp] theorem State.modCu_batches (s : State) (c : Nat) (f : Cu → Cu) : (s.modCu c f).batches = s.batches := rfl
@[simp] theorem State.modCu_cmds (s : State) (c : Nat) (f : Cu → Cu) : (s.modCu c f).cmds = s.cmds := rfl
@[simp] theorem State.modCu_mxops (s : State) (c : Nat) (f : Cu → Cu) : (s.modCu c f).mxops = s.mxops := rfl
@[simp] theorem State.modCu_msgs (s : State) (c : Nat) (f : Cu → Cu) : (s.modCu c f).msgs = s.msgs := rfl
@[simp] theorem State.modCu_launches (s : State) (c : Nat) (f : Cu → Cu) : (s.modCu c f).launches = s.launches := rfl
@[simp] theorem State.modCu_ctxs (s : State) (c : Nat) (f : Cu → Cu) : (s.modCu c f).ctxs = s.ctxs := rfl
@[simp] theorem State.modCu_parts (s : State) (c : Nat) (f : Cu → Cu) : (s.modCu c f).parts = s.parts := rfl
@[simp] theorem State.modCu_channels (s : State) (c : Nat) (f : Cu → Cu) : (s.modCu c f).channels = s.channels := rfl
@[simp] theorem State.modCu_passes (s : State) (c : Nat) (f : Cu → Cu) : (s.modCu c f).passes = s.passes := rfl
@[simp] theorem State.modCu_tris (s : State) (c : Nat) (f : Cu → Cu) : (s.modCu c f).tris = s.tris := rfl
@[simp] theorem State.modCu_frags (s : State) (c : Nat) (f : Cu → Cu) : (s.modCu c f).frags = s.frags := rfl
@[simp] theorem State.modCu_pkg (s : State) (c : Nat) (f : Cu → Cu) : (s.modCu c f).pkg = s.pkg := rfl
@[simp] theorem State.modCu_mismatch (s : State) (c : Nat) (f : Cu → Cu) : (s.modCu c f).mismatch = s.mismatch := rfl
@[simp] theorem State.modCu_cycle (s : State) (c : Nat) (f : Cu → Cu) : (s.modCu c f).cycle = s.cycle := rfl
@[simp] theorem State.modCu_lastSc (s : State) (c : Nat) (f : Cu → Cu) : (s.modCu c f).lastSc = s.lastSc := rfl
@[simp] theorem State.modCu_agenda (s : State) (c : Nat) (f : Cu → Cu) : (s.modCu c f).agenda = s.agenda := rfl
@[simp] theorem State.modCu_fresh (s : State) (c : Nat) (f : Cu → Cu) : (s.modCu c f).fresh = s.fresh := rfl

@[simp] theorem State.modCore_now (s : State) (c : Nat) (f : Core → Core) : (s.modCore c f).now = s.now := rfl
@[simp] theorem State.modCore_mem (s : State) (c : Nat) (f : Core → Core) : (s.modCore c f).mem = s.mem := rfl
@[simp] theorem State.modCore_hostMem (s : State) (c : Nat) (f : Core → Core) : (s.modCore c f).hostMem = s.hostMem := rfl
@[simp] theorem State.modCore_foreignMem (s : State) (c : Nat) (f : Core → Core) : (s.modCore c f).foreignMem = s.foreignMem := rfl
@[simp] theorem State.modCore_grains (s : State) (c : Nat) (f : Core → Core) : (s.modCore c f).grains = s.grains := rfl
@[simp] theorem State.modCore_sectors (s : State) (c : Nat) (f : Core → Core) : (s.modCore c f).sectors = s.sectors := rfl
@[simp] theorem State.modCore_pages (s : State) (c : Nat) (f : Core → Core) : (s.modCore c f).pages = s.pages := rfl
@[simp] theorem State.modCore_threads (s : State) (c : Nat) (f : Core → Core) : (s.modCore c f).threads = s.threads := rfl
@[simp] theorem State.modCore_groups (s : State) (c : Nat) (f : Core → Core) : (s.modCore c f).groups = s.groups := rfl
@[simp] theorem State.modCore_wgs (s : State) (c : Nat) (f : Core → Core) : (s.modCore c f).wgs = s.wgs := rfl
@[simp] theorem State.modCore_pipes (s : State) (c : Nat) (f : Core → Core) : (s.modCore c f).pipes = s.pipes := rfl
@[simp] theorem State.modCore_turn (s : State) (c : Nat) (f : Core → Core) : (s.modCore c f).turn = s.turn := rfl
@[simp] theorem State.modCore_cus (s : State) (c : Nat) (f : Core → Core) : (s.modCore c f).cus = s.cus := rfl
@[simp] theorem State.modCore_accs (s : State) (c : Nat) (f : Core → Core) : (s.modCore c f).accs = s.accs := rfl
@[simp] theorem State.modCore_batches (s : State) (c : Nat) (f : Core → Core) : (s.modCore c f).batches = s.batches := rfl
@[simp] theorem State.modCore_cmds (s : State) (c : Nat) (f : Core → Core) : (s.modCore c f).cmds = s.cmds := rfl
@[simp] theorem State.modCore_mxops (s : State) (c : Nat) (f : Core → Core) : (s.modCore c f).mxops = s.mxops := rfl
@[simp] theorem State.modCore_msgs (s : State) (c : Nat) (f : Core → Core) : (s.modCore c f).msgs = s.msgs := rfl
@[simp] theorem State.modCore_launches (s : State) (c : Nat) (f : Core → Core) : (s.modCore c f).launches = s.launches := rfl
@[simp] theorem State.modCore_ctxs (s : State) (c : Nat) (f : Core → Core) : (s.modCore c f).ctxs = s.ctxs := rfl
@[simp] theorem State.modCore_parts (s : State) (c : Nat) (f : Core → Core) : (s.modCore c f).parts = s.parts := rfl
@[simp] theorem State.modCore_channels (s : State) (c : Nat) (f : Core → Core) : (s.modCore c f).channels = s.channels := rfl
@[simp] theorem State.modCore_passes (s : State) (c : Nat) (f : Core → Core) : (s.modCore c f).passes = s.passes := rfl
@[simp] theorem State.modCore_tris (s : State) (c : Nat) (f : Core → Core) : (s.modCore c f).tris = s.tris := rfl
@[simp] theorem State.modCore_frags (s : State) (c : Nat) (f : Core → Core) : (s.modCore c f).frags = s.frags := rfl
@[simp] theorem State.modCore_pkg (s : State) (c : Nat) (f : Core → Core) : (s.modCore c f).pkg = s.pkg := rfl
@[simp] theorem State.modCore_mismatch (s : State) (c : Nat) (f : Core → Core) : (s.modCore c f).mismatch = s.mismatch := rfl
@[simp] theorem State.modCore_cycle (s : State) (c : Nat) (f : Core → Core) : (s.modCore c f).cycle = s.cycle := rfl
@[simp] theorem State.modCore_lastSc (s : State) (c : Nat) (f : Core → Core) : (s.modCore c f).lastSc = s.lastSc := rfl
@[simp] theorem State.modCore_agenda (s : State) (c : Nat) (f : Core → Core) : (s.modCore c f).agenda = s.agenda := rfl
@[simp] theorem State.modCore_fresh (s : State) (c : Nat) (f : Core → Core) : (s.modCore c f).fresh = s.fresh := rfl

@[simp] theorem State.modCtx_now (s : State) (v : Nat) (f : Context → Context) : (s.modCtx v f).now = s.now := rfl
@[simp] theorem State.modCtx_mem (s : State) (v : Nat) (f : Context → Context) : (s.modCtx v f).mem = s.mem := rfl
@[simp] theorem State.modCtx_hostMem (s : State) (v : Nat) (f : Context → Context) : (s.modCtx v f).hostMem = s.hostMem := rfl
@[simp] theorem State.modCtx_foreignMem (s : State) (v : Nat) (f : Context → Context) : (s.modCtx v f).foreignMem = s.foreignMem := rfl
@[simp] theorem State.modCtx_grains (s : State) (v : Nat) (f : Context → Context) : (s.modCtx v f).grains = s.grains := rfl
@[simp] theorem State.modCtx_sectors (s : State) (v : Nat) (f : Context → Context) : (s.modCtx v f).sectors = s.sectors := rfl
@[simp] theorem State.modCtx_pages (s : State) (v : Nat) (f : Context → Context) : (s.modCtx v f).pages = s.pages := rfl
@[simp] theorem State.modCtx_threads (s : State) (v : Nat) (f : Context → Context) : (s.modCtx v f).threads = s.threads := rfl
@[simp] theorem State.modCtx_groups (s : State) (v : Nat) (f : Context → Context) : (s.modCtx v f).groups = s.groups := rfl
@[simp] theorem State.modCtx_wgs (s : State) (v : Nat) (f : Context → Context) : (s.modCtx v f).wgs = s.wgs := rfl
@[simp] theorem State.modCtx_pipes (s : State) (v : Nat) (f : Context → Context) : (s.modCtx v f).pipes = s.pipes := rfl
@[simp] theorem State.modCtx_turn (s : State) (v : Nat) (f : Context → Context) : (s.modCtx v f).turn = s.turn := rfl
@[simp] theorem State.modCtx_cus (s : State) (v : Nat) (f : Context → Context) : (s.modCtx v f).cus = s.cus := rfl
@[simp] theorem State.modCtx_cores (s : State) (v : Nat) (f : Context → Context) : (s.modCtx v f).cores = s.cores := rfl
@[simp] theorem State.modCtx_accs (s : State) (v : Nat) (f : Context → Context) : (s.modCtx v f).accs = s.accs := rfl
@[simp] theorem State.modCtx_batches (s : State) (v : Nat) (f : Context → Context) : (s.modCtx v f).batches = s.batches := rfl
@[simp] theorem State.modCtx_cmds (s : State) (v : Nat) (f : Context → Context) : (s.modCtx v f).cmds = s.cmds := rfl
@[simp] theorem State.modCtx_mxops (s : State) (v : Nat) (f : Context → Context) : (s.modCtx v f).mxops = s.mxops := rfl
@[simp] theorem State.modCtx_msgs (s : State) (v : Nat) (f : Context → Context) : (s.modCtx v f).msgs = s.msgs := rfl
@[simp] theorem State.modCtx_launches (s : State) (v : Nat) (f : Context → Context) : (s.modCtx v f).launches = s.launches := rfl
@[simp] theorem State.modCtx_parts (s : State) (v : Nat) (f : Context → Context) : (s.modCtx v f).parts = s.parts := rfl
@[simp] theorem State.modCtx_channels (s : State) (v : Nat) (f : Context → Context) : (s.modCtx v f).channels = s.channels := rfl
@[simp] theorem State.modCtx_passes (s : State) (v : Nat) (f : Context → Context) : (s.modCtx v f).passes = s.passes := rfl
@[simp] theorem State.modCtx_tris (s : State) (v : Nat) (f : Context → Context) : (s.modCtx v f).tris = s.tris := rfl
@[simp] theorem State.modCtx_frags (s : State) (v : Nat) (f : Context → Context) : (s.modCtx v f).frags = s.frags := rfl
@[simp] theorem State.modCtx_pkg (s : State) (v : Nat) (f : Context → Context) : (s.modCtx v f).pkg = s.pkg := rfl
@[simp] theorem State.modCtx_mismatch (s : State) (v : Nat) (f : Context → Context) : (s.modCtx v f).mismatch = s.mismatch := rfl
@[simp] theorem State.modCtx_cycle (s : State) (v : Nat) (f : Context → Context) : (s.modCtx v f).cycle = s.cycle := rfl
@[simp] theorem State.modCtx_lastSc (s : State) (v : Nat) (f : Context → Context) : (s.modCtx v f).lastSc = s.lastSc := rfl
@[simp] theorem State.modCtx_agenda (s : State) (v : Nat) (f : Context → Context) : (s.modCtx v f).agenda = s.agenda := rfl
@[simp] theorem State.modCtx_fresh (s : State) (v : Nat) (f : Context → Context) : (s.modCtx v f).fresh = s.fresh := rfl

@[simp] theorem State.modPart_now (s : State) (p : Nat) (f : Partition → Partition) : (s.modPart p f).now = s.now := rfl
@[simp] theorem State.modPart_mem (s : State) (p : Nat) (f : Partition → Partition) : (s.modPart p f).mem = s.mem := rfl
@[simp] theorem State.modPart_hostMem (s : State) (p : Nat) (f : Partition → Partition) : (s.modPart p f).hostMem = s.hostMem := rfl
@[simp] theorem State.modPart_foreignMem (s : State) (p : Nat) (f : Partition → Partition) : (s.modPart p f).foreignMem = s.foreignMem := rfl
@[simp] theorem State.modPart_grains (s : State) (p : Nat) (f : Partition → Partition) : (s.modPart p f).grains = s.grains := rfl
@[simp] theorem State.modPart_sectors (s : State) (p : Nat) (f : Partition → Partition) : (s.modPart p f).sectors = s.sectors := rfl
@[simp] theorem State.modPart_pages (s : State) (p : Nat) (f : Partition → Partition) : (s.modPart p f).pages = s.pages := rfl
@[simp] theorem State.modPart_threads (s : State) (p : Nat) (f : Partition → Partition) : (s.modPart p f).threads = s.threads := rfl
@[simp] theorem State.modPart_groups (s : State) (p : Nat) (f : Partition → Partition) : (s.modPart p f).groups = s.groups := rfl
@[simp] theorem State.modPart_wgs (s : State) (p : Nat) (f : Partition → Partition) : (s.modPart p f).wgs = s.wgs := rfl
@[simp] theorem State.modPart_pipes (s : State) (p : Nat) (f : Partition → Partition) : (s.modPart p f).pipes = s.pipes := rfl
@[simp] theorem State.modPart_turn (s : State) (p : Nat) (f : Partition → Partition) : (s.modPart p f).turn = s.turn := rfl
@[simp] theorem State.modPart_cus (s : State) (p : Nat) (f : Partition → Partition) : (s.modPart p f).cus = s.cus := rfl
@[simp] theorem State.modPart_cores (s : State) (p : Nat) (f : Partition → Partition) : (s.modPart p f).cores = s.cores := rfl
@[simp] theorem State.modPart_accs (s : State) (p : Nat) (f : Partition → Partition) : (s.modPart p f).accs = s.accs := rfl
@[simp] theorem State.modPart_batches (s : State) (p : Nat) (f : Partition → Partition) : (s.modPart p f).batches = s.batches := rfl
@[simp] theorem State.modPart_cmds (s : State) (p : Nat) (f : Partition → Partition) : (s.modPart p f).cmds = s.cmds := rfl
@[simp] theorem State.modPart_mxops (s : State) (p : Nat) (f : Partition → Partition) : (s.modPart p f).mxops = s.mxops := rfl
@[simp] theorem State.modPart_msgs (s : State) (p : Nat) (f : Partition → Partition) : (s.modPart p f).msgs = s.msgs := rfl
@[simp] theorem State.modPart_launches (s : State) (p : Nat) (f : Partition → Partition) : (s.modPart p f).launches = s.launches := rfl
@[simp] theorem State.modPart_ctxs (s : State) (p : Nat) (f : Partition → Partition) : (s.modPart p f).ctxs = s.ctxs := rfl
@[simp] theorem State.modPart_channels (s : State) (p : Nat) (f : Partition → Partition) : (s.modPart p f).channels = s.channels := rfl
@[simp] theorem State.modPart_passes (s : State) (p : Nat) (f : Partition → Partition) : (s.modPart p f).passes = s.passes := rfl
@[simp] theorem State.modPart_tris (s : State) (p : Nat) (f : Partition → Partition) : (s.modPart p f).tris = s.tris := rfl
@[simp] theorem State.modPart_frags (s : State) (p : Nat) (f : Partition → Partition) : (s.modPart p f).frags = s.frags := rfl
@[simp] theorem State.modPart_pkg (s : State) (p : Nat) (f : Partition → Partition) : (s.modPart p f).pkg = s.pkg := rfl
@[simp] theorem State.modPart_mismatch (s : State) (p : Nat) (f : Partition → Partition) : (s.modPart p f).mismatch = s.mismatch := rfl
@[simp] theorem State.modPart_cycle (s : State) (p : Nat) (f : Partition → Partition) : (s.modPart p f).cycle = s.cycle := rfl
@[simp] theorem State.modPart_lastSc (s : State) (p : Nat) (f : Partition → Partition) : (s.modPart p f).lastSc = s.lastSc := rfl
@[simp] theorem State.modPart_agenda (s : State) (p : Nat) (f : Partition → Partition) : (s.modPart p f).agenda = s.agenda := rfl
@[simp] theorem State.modPart_fresh (s : State) (p : Nat) (f : Partition → Partition) : (s.modPart p f).fresh = s.fresh := rfl

@[simp] theorem State.modLaunch_now (s : State) (l : Nat) (f : Launch → Launch) : (s.modLaunch l f).now = s.now := rfl
@[simp] theorem State.modLaunch_mem (s : State) (l : Nat) (f : Launch → Launch) : (s.modLaunch l f).mem = s.mem := rfl
@[simp] theorem State.modLaunch_hostMem (s : State) (l : Nat) (f : Launch → Launch) : (s.modLaunch l f).hostMem = s.hostMem := rfl
@[simp] theorem State.modLaunch_foreignMem (s : State) (l : Nat) (f : Launch → Launch) : (s.modLaunch l f).foreignMem = s.foreignMem := rfl
@[simp] theorem State.modLaunch_grains (s : State) (l : Nat) (f : Launch → Launch) : (s.modLaunch l f).grains = s.grains := rfl
@[simp] theorem State.modLaunch_sectors (s : State) (l : Nat) (f : Launch → Launch) : (s.modLaunch l f).sectors = s.sectors := rfl
@[simp] theorem State.modLaunch_pages (s : State) (l : Nat) (f : Launch → Launch) : (s.modLaunch l f).pages = s.pages := rfl
@[simp] theorem State.modLaunch_threads (s : State) (l : Nat) (f : Launch → Launch) : (s.modLaunch l f).threads = s.threads := rfl
@[simp] theorem State.modLaunch_groups (s : State) (l : Nat) (f : Launch → Launch) : (s.modLaunch l f).groups = s.groups := rfl
@[simp] theorem State.modLaunch_wgs (s : State) (l : Nat) (f : Launch → Launch) : (s.modLaunch l f).wgs = s.wgs := rfl
@[simp] theorem State.modLaunch_pipes (s : State) (l : Nat) (f : Launch → Launch) : (s.modLaunch l f).pipes = s.pipes := rfl
@[simp] theorem State.modLaunch_turn (s : State) (l : Nat) (f : Launch → Launch) : (s.modLaunch l f).turn = s.turn := rfl
@[simp] theorem State.modLaunch_cus (s : State) (l : Nat) (f : Launch → Launch) : (s.modLaunch l f).cus = s.cus := rfl
@[simp] theorem State.modLaunch_cores (s : State) (l : Nat) (f : Launch → Launch) : (s.modLaunch l f).cores = s.cores := rfl
@[simp] theorem State.modLaunch_accs (s : State) (l : Nat) (f : Launch → Launch) : (s.modLaunch l f).accs = s.accs := rfl
@[simp] theorem State.modLaunch_batches (s : State) (l : Nat) (f : Launch → Launch) : (s.modLaunch l f).batches = s.batches := rfl
@[simp] theorem State.modLaunch_cmds (s : State) (l : Nat) (f : Launch → Launch) : (s.modLaunch l f).cmds = s.cmds := rfl
@[simp] theorem State.modLaunch_mxops (s : State) (l : Nat) (f : Launch → Launch) : (s.modLaunch l f).mxops = s.mxops := rfl
@[simp] theorem State.modLaunch_msgs (s : State) (l : Nat) (f : Launch → Launch) : (s.modLaunch l f).msgs = s.msgs := rfl
@[simp] theorem State.modLaunch_ctxs (s : State) (l : Nat) (f : Launch → Launch) : (s.modLaunch l f).ctxs = s.ctxs := rfl
@[simp] theorem State.modLaunch_parts (s : State) (l : Nat) (f : Launch → Launch) : (s.modLaunch l f).parts = s.parts := rfl
@[simp] theorem State.modLaunch_channels (s : State) (l : Nat) (f : Launch → Launch) : (s.modLaunch l f).channels = s.channels := rfl
@[simp] theorem State.modLaunch_passes (s : State) (l : Nat) (f : Launch → Launch) : (s.modLaunch l f).passes = s.passes := rfl
@[simp] theorem State.modLaunch_tris (s : State) (l : Nat) (f : Launch → Launch) : (s.modLaunch l f).tris = s.tris := rfl
@[simp] theorem State.modLaunch_frags (s : State) (l : Nat) (f : Launch → Launch) : (s.modLaunch l f).frags = s.frags := rfl
@[simp] theorem State.modLaunch_pkg (s : State) (l : Nat) (f : Launch → Launch) : (s.modLaunch l f).pkg = s.pkg := rfl
@[simp] theorem State.modLaunch_mismatch (s : State) (l : Nat) (f : Launch → Launch) : (s.modLaunch l f).mismatch = s.mismatch := rfl
@[simp] theorem State.modLaunch_cycle (s : State) (l : Nat) (f : Launch → Launch) : (s.modLaunch l f).cycle = s.cycle := rfl
@[simp] theorem State.modLaunch_lastSc (s : State) (l : Nat) (f : Launch → Launch) : (s.modLaunch l f).lastSc = s.lastSc := rfl
@[simp] theorem State.modLaunch_agenda (s : State) (l : Nat) (f : Launch → Launch) : (s.modLaunch l f).agenda = s.agenda := rfl
@[simp] theorem State.modLaunch_fresh (s : State) (l : Nat) (f : Launch → Launch) : (s.modLaunch l f).fresh = s.fresh := rfl

@[simp] theorem State.modPass_now (s : State) (p : Nat) (f : Pass → Pass) : (s.modPass p f).now = s.now := rfl
@[simp] theorem State.modPass_mem (s : State) (p : Nat) (f : Pass → Pass) : (s.modPass p f).mem = s.mem := rfl
@[simp] theorem State.modPass_hostMem (s : State) (p : Nat) (f : Pass → Pass) : (s.modPass p f).hostMem = s.hostMem := rfl
@[simp] theorem State.modPass_foreignMem (s : State) (p : Nat) (f : Pass → Pass) : (s.modPass p f).foreignMem = s.foreignMem := rfl
@[simp] theorem State.modPass_grains (s : State) (p : Nat) (f : Pass → Pass) : (s.modPass p f).grains = s.grains := rfl
@[simp] theorem State.modPass_sectors (s : State) (p : Nat) (f : Pass → Pass) : (s.modPass p f).sectors = s.sectors := rfl
@[simp] theorem State.modPass_pages (s : State) (p : Nat) (f : Pass → Pass) : (s.modPass p f).pages = s.pages := rfl
@[simp] theorem State.modPass_threads (s : State) (p : Nat) (f : Pass → Pass) : (s.modPass p f).threads = s.threads := rfl
@[simp] theorem State.modPass_groups (s : State) (p : Nat) (f : Pass → Pass) : (s.modPass p f).groups = s.groups := rfl
@[simp] theorem State.modPass_wgs (s : State) (p : Nat) (f : Pass → Pass) : (s.modPass p f).wgs = s.wgs := rfl
@[simp] theorem State.modPass_pipes (s : State) (p : Nat) (f : Pass → Pass) : (s.modPass p f).pipes = s.pipes := rfl
@[simp] theorem State.modPass_turn (s : State) (p : Nat) (f : Pass → Pass) : (s.modPass p f).turn = s.turn := rfl
@[simp] theorem State.modPass_cus (s : State) (p : Nat) (f : Pass → Pass) : (s.modPass p f).cus = s.cus := rfl
@[simp] theorem State.modPass_cores (s : State) (p : Nat) (f : Pass → Pass) : (s.modPass p f).cores = s.cores := rfl
@[simp] theorem State.modPass_accs (s : State) (p : Nat) (f : Pass → Pass) : (s.modPass p f).accs = s.accs := rfl
@[simp] theorem State.modPass_batches (s : State) (p : Nat) (f : Pass → Pass) : (s.modPass p f).batches = s.batches := rfl
@[simp] theorem State.modPass_cmds (s : State) (p : Nat) (f : Pass → Pass) : (s.modPass p f).cmds = s.cmds := rfl
@[simp] theorem State.modPass_mxops (s : State) (p : Nat) (f : Pass → Pass) : (s.modPass p f).mxops = s.mxops := rfl
@[simp] theorem State.modPass_msgs (s : State) (p : Nat) (f : Pass → Pass) : (s.modPass p f).msgs = s.msgs := rfl
@[simp] theorem State.modPass_launches (s : State) (p : Nat) (f : Pass → Pass) : (s.modPass p f).launches = s.launches := rfl
@[simp] theorem State.modPass_ctxs (s : State) (p : Nat) (f : Pass → Pass) : (s.modPass p f).ctxs = s.ctxs := rfl
@[simp] theorem State.modPass_parts (s : State) (p : Nat) (f : Pass → Pass) : (s.modPass p f).parts = s.parts := rfl
@[simp] theorem State.modPass_channels (s : State) (p : Nat) (f : Pass → Pass) : (s.modPass p f).channels = s.channels := rfl
@[simp] theorem State.modPass_tris (s : State) (p : Nat) (f : Pass → Pass) : (s.modPass p f).tris = s.tris := rfl
@[simp] theorem State.modPass_frags (s : State) (p : Nat) (f : Pass → Pass) : (s.modPass p f).frags = s.frags := rfl
@[simp] theorem State.modPass_pkg (s : State) (p : Nat) (f : Pass → Pass) : (s.modPass p f).pkg = s.pkg := rfl
@[simp] theorem State.modPass_mismatch (s : State) (p : Nat) (f : Pass → Pass) : (s.modPass p f).mismatch = s.mismatch := rfl
@[simp] theorem State.modPass_cycle (s : State) (p : Nat) (f : Pass → Pass) : (s.modPass p f).cycle = s.cycle := rfl
@[simp] theorem State.modPass_lastSc (s : State) (p : Nat) (f : Pass → Pass) : (s.modPass p f).lastSc = s.lastSc := rfl
@[simp] theorem State.modPass_agenda (s : State) (p : Nat) (f : Pass → Pass) : (s.modPass p f).agenda = s.agenda := rfl
@[simp] theorem State.modPass_fresh (s : State) (p : Nat) (f : Pass → Pass) : (s.modPass p f).fresh = s.fresh := rfl

@[simp] theorem State.modAcc_now (s : State) (a : Nat) (f : Access → Access) : (s.modAcc a f).now = s.now := rfl
@[simp] theorem State.modAcc_mem (s : State) (a : Nat) (f : Access → Access) : (s.modAcc a f).mem = s.mem := rfl
@[simp] theorem State.modAcc_hostMem (s : State) (a : Nat) (f : Access → Access) : (s.modAcc a f).hostMem = s.hostMem := rfl
@[simp] theorem State.modAcc_foreignMem (s : State) (a : Nat) (f : Access → Access) : (s.modAcc a f).foreignMem = s.foreignMem := rfl
@[simp] theorem State.modAcc_grains (s : State) (a : Nat) (f : Access → Access) : (s.modAcc a f).grains = s.grains := rfl
@[simp] theorem State.modAcc_sectors (s : State) (a : Nat) (f : Access → Access) : (s.modAcc a f).sectors = s.sectors := rfl
@[simp] theorem State.modAcc_pages (s : State) (a : Nat) (f : Access → Access) : (s.modAcc a f).pages = s.pages := rfl
@[simp] theorem State.modAcc_threads (s : State) (a : Nat) (f : Access → Access) : (s.modAcc a f).threads = s.threads := rfl
@[simp] theorem State.modAcc_groups (s : State) (a : Nat) (f : Access → Access) : (s.modAcc a f).groups = s.groups := rfl
@[simp] theorem State.modAcc_wgs (s : State) (a : Nat) (f : Access → Access) : (s.modAcc a f).wgs = s.wgs := rfl
@[simp] theorem State.modAcc_pipes (s : State) (a : Nat) (f : Access → Access) : (s.modAcc a f).pipes = s.pipes := rfl
@[simp] theorem State.modAcc_turn (s : State) (a : Nat) (f : Access → Access) : (s.modAcc a f).turn = s.turn := rfl
@[simp] theorem State.modAcc_cus (s : State) (a : Nat) (f : Access → Access) : (s.modAcc a f).cus = s.cus := rfl
@[simp] theorem State.modAcc_cores (s : State) (a : Nat) (f : Access → Access) : (s.modAcc a f).cores = s.cores := rfl
@[simp] theorem State.modAcc_batches (s : State) (a : Nat) (f : Access → Access) : (s.modAcc a f).batches = s.batches := rfl
@[simp] theorem State.modAcc_cmds (s : State) (a : Nat) (f : Access → Access) : (s.modAcc a f).cmds = s.cmds := rfl
@[simp] theorem State.modAcc_mxops (s : State) (a : Nat) (f : Access → Access) : (s.modAcc a f).mxops = s.mxops := rfl
@[simp] theorem State.modAcc_msgs (s : State) (a : Nat) (f : Access → Access) : (s.modAcc a f).msgs = s.msgs := rfl
@[simp] theorem State.modAcc_launches (s : State) (a : Nat) (f : Access → Access) : (s.modAcc a f).launches = s.launches := rfl
@[simp] theorem State.modAcc_ctxs (s : State) (a : Nat) (f : Access → Access) : (s.modAcc a f).ctxs = s.ctxs := rfl
@[simp] theorem State.modAcc_parts (s : State) (a : Nat) (f : Access → Access) : (s.modAcc a f).parts = s.parts := rfl
@[simp] theorem State.modAcc_channels (s : State) (a : Nat) (f : Access → Access) : (s.modAcc a f).channels = s.channels := rfl
@[simp] theorem State.modAcc_passes (s : State) (a : Nat) (f : Access → Access) : (s.modAcc a f).passes = s.passes := rfl
@[simp] theorem State.modAcc_tris (s : State) (a : Nat) (f : Access → Access) : (s.modAcc a f).tris = s.tris := rfl
@[simp] theorem State.modAcc_frags (s : State) (a : Nat) (f : Access → Access) : (s.modAcc a f).frags = s.frags := rfl
@[simp] theorem State.modAcc_pkg (s : State) (a : Nat) (f : Access → Access) : (s.modAcc a f).pkg = s.pkg := rfl
@[simp] theorem State.modAcc_mismatch (s : State) (a : Nat) (f : Access → Access) : (s.modAcc a f).mismatch = s.mismatch := rfl
@[simp] theorem State.modAcc_cycle (s : State) (a : Nat) (f : Access → Access) : (s.modAcc a f).cycle = s.cycle := rfl
@[simp] theorem State.modAcc_lastSc (s : State) (a : Nat) (f : Access → Access) : (s.modAcc a f).lastSc = s.lastSc := rfl
@[simp] theorem State.modAcc_agenda (s : State) (a : Nat) (f : Access → Access) : (s.modAcc a f).agenda = s.agenda := rfl
@[simp] theorem State.modAcc_fresh (s : State) (a : Nat) (f : Access → Access) : (s.modAcc a f).fresh = s.fresh := rfl

@[simp] theorem State.delAcc_now (s : State) (a : Nat) : (s.delAcc a).now = s.now := rfl
@[simp] theorem State.delAcc_mem (s : State) (a : Nat) : (s.delAcc a).mem = s.mem := rfl
@[simp] theorem State.delAcc_hostMem (s : State) (a : Nat) : (s.delAcc a).hostMem = s.hostMem := rfl
@[simp] theorem State.delAcc_foreignMem (s : State) (a : Nat) : (s.delAcc a).foreignMem = s.foreignMem := rfl
@[simp] theorem State.delAcc_grains (s : State) (a : Nat) : (s.delAcc a).grains = s.grains := rfl
@[simp] theorem State.delAcc_sectors (s : State) (a : Nat) : (s.delAcc a).sectors = s.sectors := rfl
@[simp] theorem State.delAcc_pages (s : State) (a : Nat) : (s.delAcc a).pages = s.pages := rfl
@[simp] theorem State.delAcc_threads (s : State) (a : Nat) : (s.delAcc a).threads = s.threads := rfl
@[simp] theorem State.delAcc_groups (s : State) (a : Nat) : (s.delAcc a).groups = s.groups := rfl
@[simp] theorem State.delAcc_wgs (s : State) (a : Nat) : (s.delAcc a).wgs = s.wgs := rfl
@[simp] theorem State.delAcc_pipes (s : State) (a : Nat) : (s.delAcc a).pipes = s.pipes := rfl
@[simp] theorem State.delAcc_turn (s : State) (a : Nat) : (s.delAcc a).turn = s.turn := rfl
@[simp] theorem State.delAcc_cus (s : State) (a : Nat) : (s.delAcc a).cus = s.cus := rfl
@[simp] theorem State.delAcc_cores (s : State) (a : Nat) : (s.delAcc a).cores = s.cores := rfl
@[simp] theorem State.delAcc_batches (s : State) (a : Nat) : (s.delAcc a).batches = s.batches := rfl
@[simp] theorem State.delAcc_cmds (s : State) (a : Nat) : (s.delAcc a).cmds = s.cmds := rfl
@[simp] theorem State.delAcc_mxops (s : State) (a : Nat) : (s.delAcc a).mxops = s.mxops := rfl
@[simp] theorem State.delAcc_msgs (s : State) (a : Nat) : (s.delAcc a).msgs = s.msgs := rfl
@[simp] theorem State.delAcc_launches (s : State) (a : Nat) : (s.delAcc a).launches = s.launches := rfl
@[simp] theorem State.delAcc_ctxs (s : State) (a : Nat) : (s.delAcc a).ctxs = s.ctxs := rfl
@[simp] theorem State.delAcc_parts (s : State) (a : Nat) : (s.delAcc a).parts = s.parts := rfl
@[simp] theorem State.delAcc_channels (s : State) (a : Nat) : (s.delAcc a).channels = s.channels := rfl
@[simp] theorem State.delAcc_passes (s : State) (a : Nat) : (s.delAcc a).passes = s.passes := rfl
@[simp] theorem State.delAcc_tris (s : State) (a : Nat) : (s.delAcc a).tris = s.tris := rfl
@[simp] theorem State.delAcc_frags (s : State) (a : Nat) : (s.delAcc a).frags = s.frags := rfl
@[simp] theorem State.delAcc_pkg (s : State) (a : Nat) : (s.delAcc a).pkg = s.pkg := rfl
@[simp] theorem State.delAcc_mismatch (s : State) (a : Nat) : (s.delAcc a).mismatch = s.mismatch := rfl
@[simp] theorem State.delAcc_cycle (s : State) (a : Nat) : (s.delAcc a).cycle = s.cycle := rfl
@[simp] theorem State.delAcc_lastSc (s : State) (a : Nat) : (s.delAcc a).lastSc = s.lastSc := rfl
@[simp] theorem State.delAcc_agenda (s : State) (a : Nat) : (s.delAcc a).agenda = s.agenda := rfl
@[simp] theorem State.delAcc_fresh (s : State) (a : Nat) : (s.delAcc a).fresh = s.fresh := rfl

@[simp] theorem State.modBundle_now (s : State) (p : Nat) (f : Bundle → Bundle) : (s.modBundle p f).now = s.now := rfl
@[simp] theorem State.modBundle_mem (s : State) (p : Nat) (f : Bundle → Bundle) : (s.modBundle p f).mem = s.mem := rfl
@[simp] theorem State.modBundle_hostMem (s : State) (p : Nat) (f : Bundle → Bundle) : (s.modBundle p f).hostMem = s.hostMem := rfl
@[simp] theorem State.modBundle_foreignMem (s : State) (p : Nat) (f : Bundle → Bundle) : (s.modBundle p f).foreignMem = s.foreignMem := rfl
@[simp] theorem State.modBundle_grains (s : State) (p : Nat) (f : Bundle → Bundle) : (s.modBundle p f).grains = s.grains := rfl
@[simp] theorem State.modBundle_sectors (s : State) (p : Nat) (f : Bundle → Bundle) : (s.modBundle p f).sectors = s.sectors := rfl
@[simp] theorem State.modBundle_pages (s : State) (p : Nat) (f : Bundle → Bundle) : (s.modBundle p f).pages = s.pages := rfl
@[simp] theorem State.modBundle_threads (s : State) (p : Nat) (f : Bundle → Bundle) : (s.modBundle p f).threads = s.threads := rfl
@[simp] theorem State.modBundle_groups (s : State) (p : Nat) (f : Bundle → Bundle) : (s.modBundle p f).groups = s.groups := rfl
@[simp] theorem State.modBundle_wgs (s : State) (p : Nat) (f : Bundle → Bundle) : (s.modBundle p f).wgs = s.wgs := rfl
@[simp] theorem State.modBundle_turn (s : State) (p : Nat) (f : Bundle → Bundle) : (s.modBundle p f).turn = s.turn := rfl
@[simp] theorem State.modBundle_cus (s : State) (p : Nat) (f : Bundle → Bundle) : (s.modBundle p f).cus = s.cus := rfl
@[simp] theorem State.modBundle_cores (s : State) (p : Nat) (f : Bundle → Bundle) : (s.modBundle p f).cores = s.cores := rfl
@[simp] theorem State.modBundle_accs (s : State) (p : Nat) (f : Bundle → Bundle) : (s.modBundle p f).accs = s.accs := rfl
@[simp] theorem State.modBundle_batches (s : State) (p : Nat) (f : Bundle → Bundle) : (s.modBundle p f).batches = s.batches := rfl
@[simp] theorem State.modBundle_cmds (s : State) (p : Nat) (f : Bundle → Bundle) : (s.modBundle p f).cmds = s.cmds := rfl
@[simp] theorem State.modBundle_mxops (s : State) (p : Nat) (f : Bundle → Bundle) : (s.modBundle p f).mxops = s.mxops := rfl
@[simp] theorem State.modBundle_msgs (s : State) (p : Nat) (f : Bundle → Bundle) : (s.modBundle p f).msgs = s.msgs := rfl
@[simp] theorem State.modBundle_launches (s : State) (p : Nat) (f : Bundle → Bundle) : (s.modBundle p f).launches = s.launches := rfl
@[simp] theorem State.modBundle_ctxs (s : State) (p : Nat) (f : Bundle → Bundle) : (s.modBundle p f).ctxs = s.ctxs := rfl
@[simp] theorem State.modBundle_parts (s : State) (p : Nat) (f : Bundle → Bundle) : (s.modBundle p f).parts = s.parts := rfl
@[simp] theorem State.modBundle_channels (s : State) (p : Nat) (f : Bundle → Bundle) : (s.modBundle p f).channels = s.channels := rfl
@[simp] theorem State.modBundle_passes (s : State) (p : Nat) (f : Bundle → Bundle) : (s.modBundle p f).passes = s.passes := rfl
@[simp] theorem State.modBundle_tris (s : State) (p : Nat) (f : Bundle → Bundle) : (s.modBundle p f).tris = s.tris := rfl
@[simp] theorem State.modBundle_frags (s : State) (p : Nat) (f : Bundle → Bundle) : (s.modBundle p f).frags = s.frags := rfl
@[simp] theorem State.modBundle_pkg (s : State) (p : Nat) (f : Bundle → Bundle) : (s.modBundle p f).pkg = s.pkg := rfl
@[simp] theorem State.modBundle_mismatch (s : State) (p : Nat) (f : Bundle → Bundle) : (s.modBundle p f).mismatch = s.mismatch := rfl
@[simp] theorem State.modBundle_cycle (s : State) (p : Nat) (f : Bundle → Bundle) : (s.modBundle p f).cycle = s.cycle := rfl
@[simp] theorem State.modBundle_lastSc (s : State) (p : Nat) (f : Bundle → Bundle) : (s.modBundle p f).lastSc = s.lastSc := rfl
@[simp] theorem State.modBundle_agenda (s : State) (p : Nat) (f : Bundle → Bundle) : (s.modBundle p f).agenda = s.agenda := rfl
@[simp] theorem State.modBundle_fresh (s : State) (p : Nat) (f : Bundle → Bundle) : (s.modBundle p f).fresh = s.fresh := rfl

@[simp] theorem State.modPkg_now (s : State) (f : Package → Package) : (s.modPkg f).now = s.now := rfl
@[simp] theorem State.modPkg_mem (s : State) (f : Package → Package) : (s.modPkg f).mem = s.mem := rfl
@[simp] theorem State.modPkg_hostMem (s : State) (f : Package → Package) : (s.modPkg f).hostMem = s.hostMem := rfl
@[simp] theorem State.modPkg_foreignMem (s : State) (f : Package → Package) : (s.modPkg f).foreignMem = s.foreignMem := rfl
@[simp] theorem State.modPkg_grains (s : State) (f : Package → Package) : (s.modPkg f).grains = s.grains := rfl
@[simp] theorem State.modPkg_sectors (s : State) (f : Package → Package) : (s.modPkg f).sectors = s.sectors := rfl
@[simp] theorem State.modPkg_pages (s : State) (f : Package → Package) : (s.modPkg f).pages = s.pages := rfl
@[simp] theorem State.modPkg_threads (s : State) (f : Package → Package) : (s.modPkg f).threads = s.threads := rfl
@[simp] theorem State.modPkg_groups (s : State) (f : Package → Package) : (s.modPkg f).groups = s.groups := rfl
@[simp] theorem State.modPkg_wgs (s : State) (f : Package → Package) : (s.modPkg f).wgs = s.wgs := rfl
@[simp] theorem State.modPkg_pipes (s : State) (f : Package → Package) : (s.modPkg f).pipes = s.pipes := rfl
@[simp] theorem State.modPkg_turn (s : State) (f : Package → Package) : (s.modPkg f).turn = s.turn := rfl
@[simp] theorem State.modPkg_cus (s : State) (f : Package → Package) : (s.modPkg f).cus = s.cus := rfl
@[simp] theorem State.modPkg_cores (s : State) (f : Package → Package) : (s.modPkg f).cores = s.cores := rfl
@[simp] theorem State.modPkg_accs (s : State) (f : Package → Package) : (s.modPkg f).accs = s.accs := rfl
@[simp] theorem State.modPkg_batches (s : State) (f : Package → Package) : (s.modPkg f).batches = s.batches := rfl
@[simp] theorem State.modPkg_cmds (s : State) (f : Package → Package) : (s.modPkg f).cmds = s.cmds := rfl
@[simp] theorem State.modPkg_mxops (s : State) (f : Package → Package) : (s.modPkg f).mxops = s.mxops := rfl
@[simp] theorem State.modPkg_msgs (s : State) (f : Package → Package) : (s.modPkg f).msgs = s.msgs := rfl
@[simp] theorem State.modPkg_launches (s : State) (f : Package → Package) : (s.modPkg f).launches = s.launches := rfl
@[simp] theorem State.modPkg_ctxs (s : State) (f : Package → Package) : (s.modPkg f).ctxs = s.ctxs := rfl
@[simp] theorem State.modPkg_parts (s : State) (f : Package → Package) : (s.modPkg f).parts = s.parts := rfl
@[simp] theorem State.modPkg_channels (s : State) (f : Package → Package) : (s.modPkg f).channels = s.channels := rfl
@[simp] theorem State.modPkg_passes (s : State) (f : Package → Package) : (s.modPkg f).passes = s.passes := rfl
@[simp] theorem State.modPkg_tris (s : State) (f : Package → Package) : (s.modPkg f).tris = s.tris := rfl
@[simp] theorem State.modPkg_frags (s : State) (f : Package → Package) : (s.modPkg f).frags = s.frags := rfl
@[simp] theorem State.modPkg_mismatch (s : State) (f : Package → Package) : (s.modPkg f).mismatch = s.mismatch := rfl
@[simp] theorem State.modPkg_cycle (s : State) (f : Package → Package) : (s.modPkg f).cycle = s.cycle := rfl
@[simp] theorem State.modPkg_lastSc (s : State) (f : Package → Package) : (s.modPkg f).lastSc = s.lastSc := rfl
@[simp] theorem State.modPkg_agenda (s : State) (f : Package → Package) : (s.modPkg f).agenda = s.agenda := rfl
@[simp] theorem State.modPkg_fresh (s : State) (f : Package → Package) : (s.modPkg f).fresh = s.fresh := rfl

@[simp] theorem State.addAcc_now (s : State) (a : Access) : (s.addAcc a).now = s.now := rfl
@[simp] theorem State.addAcc_mem (s : State) (a : Access) : (s.addAcc a).mem = s.mem := rfl
@[simp] theorem State.addAcc_hostMem (s : State) (a : Access) : (s.addAcc a).hostMem = s.hostMem := rfl
@[simp] theorem State.addAcc_foreignMem (s : State) (a : Access) : (s.addAcc a).foreignMem = s.foreignMem := rfl
@[simp] theorem State.addAcc_grains (s : State) (a : Access) : (s.addAcc a).grains = s.grains := rfl
@[simp] theorem State.addAcc_sectors (s : State) (a : Access) : (s.addAcc a).sectors = s.sectors := rfl
@[simp] theorem State.addAcc_pages (s : State) (a : Access) : (s.addAcc a).pages = s.pages := rfl
@[simp] theorem State.addAcc_threads (s : State) (a : Access) : (s.addAcc a).threads = s.threads := rfl
@[simp] theorem State.addAcc_groups (s : State) (a : Access) : (s.addAcc a).groups = s.groups := rfl
@[simp] theorem State.addAcc_wgs (s : State) (a : Access) : (s.addAcc a).wgs = s.wgs := rfl
@[simp] theorem State.addAcc_pipes (s : State) (a : Access) : (s.addAcc a).pipes = s.pipes := rfl
@[simp] theorem State.addAcc_turn (s : State) (a : Access) : (s.addAcc a).turn = s.turn := rfl
@[simp] theorem State.addAcc_cus (s : State) (a : Access) : (s.addAcc a).cus = s.cus := rfl
@[simp] theorem State.addAcc_cores (s : State) (a : Access) : (s.addAcc a).cores = s.cores := rfl
@[simp] theorem State.addAcc_batches (s : State) (a : Access) : (s.addAcc a).batches = s.batches := rfl
@[simp] theorem State.addAcc_cmds (s : State) (a : Access) : (s.addAcc a).cmds = s.cmds := rfl
@[simp] theorem State.addAcc_mxops (s : State) (a : Access) : (s.addAcc a).mxops = s.mxops := rfl
@[simp] theorem State.addAcc_msgs (s : State) (a : Access) : (s.addAcc a).msgs = s.msgs := rfl
@[simp] theorem State.addAcc_launches (s : State) (a : Access) : (s.addAcc a).launches = s.launches := rfl
@[simp] theorem State.addAcc_ctxs (s : State) (a : Access) : (s.addAcc a).ctxs = s.ctxs := rfl
@[simp] theorem State.addAcc_parts (s : State) (a : Access) : (s.addAcc a).parts = s.parts := rfl
@[simp] theorem State.addAcc_channels (s : State) (a : Access) : (s.addAcc a).channels = s.channels := rfl
@[simp] theorem State.addAcc_passes (s : State) (a : Access) : (s.addAcc a).passes = s.passes := rfl
@[simp] theorem State.addAcc_tris (s : State) (a : Access) : (s.addAcc a).tris = s.tris := rfl
@[simp] theorem State.addAcc_frags (s : State) (a : Access) : (s.addAcc a).frags = s.frags := rfl
@[simp] theorem State.addAcc_pkg (s : State) (a : Access) : (s.addAcc a).pkg = s.pkg := rfl
@[simp] theorem State.addAcc_mismatch (s : State) (a : Access) : (s.addAcc a).mismatch = s.mismatch := rfl
@[simp] theorem State.addAcc_cycle (s : State) (a : Access) : (s.addAcc a).cycle = s.cycle := rfl
@[simp] theorem State.addAcc_lastSc (s : State) (a : Access) : (s.addAcc a).lastSc = s.lastSc := rfl
@[simp] theorem State.addAcc_agenda (s : State) (a : Access) : (s.addAcc a).agenda = s.agenda := rfl

@[simp] theorem State.setPool_now (s : State) (k : PoolKey) (x : Pool) : (s.setPool k x).now = s.now := rfl
@[simp] theorem State.setPool_mem (s : State) (k : PoolKey) (x : Pool) : (s.setPool k x).mem = s.mem := rfl
@[simp] theorem State.setPool_hostMem (s : State) (k : PoolKey) (x : Pool) : (s.setPool k x).hostMem = s.hostMem := rfl
@[simp] theorem State.setPool_foreignMem (s : State) (k : PoolKey) (x : Pool) : (s.setPool k x).foreignMem = s.foreignMem := rfl
@[simp] theorem State.setPool_grains (s : State) (k : PoolKey) (x : Pool) : (s.setPool k x).grains = s.grains := rfl
@[simp] theorem State.setPool_sectors (s : State) (k : PoolKey) (x : Pool) : (s.setPool k x).sectors = s.sectors := rfl
@[simp] theorem State.setPool_pages (s : State) (k : PoolKey) (x : Pool) : (s.setPool k x).pages = s.pages := rfl
@[simp] theorem State.setPool_threads (s : State) (k : PoolKey) (x : Pool) : (s.setPool k x).threads = s.threads := rfl
@[simp] theorem State.setPool_groups (s : State) (k : PoolKey) (x : Pool) : (s.setPool k x).groups = s.groups := rfl
@[simp] theorem State.setPool_wgs (s : State) (k : PoolKey) (x : Pool) : (s.setPool k x).wgs = s.wgs := rfl
@[simp] theorem State.setPool_pipes (s : State) (k : PoolKey) (x : Pool) : (s.setPool k x).pipes = s.pipes := rfl
@[simp] theorem State.setPool_turn (s : State) (k : PoolKey) (x : Pool) : (s.setPool k x).turn = s.turn := rfl
@[simp] theorem State.setPool_cus (s : State) (k : PoolKey) (x : Pool) : (s.setPool k x).cus = s.cus := rfl
@[simp] theorem State.setPool_cores (s : State) (k : PoolKey) (x : Pool) : (s.setPool k x).cores = s.cores := rfl
@[simp] theorem State.setPool_accs (s : State) (k : PoolKey) (x : Pool) : (s.setPool k x).accs = s.accs := rfl
@[simp] theorem State.setPool_batches (s : State) (k : PoolKey) (x : Pool) : (s.setPool k x).batches = s.batches := rfl
@[simp] theorem State.setPool_cmds (s : State) (k : PoolKey) (x : Pool) : (s.setPool k x).cmds = s.cmds := rfl
@[simp] theorem State.setPool_mxops (s : State) (k : PoolKey) (x : Pool) : (s.setPool k x).mxops = s.mxops := rfl
@[simp] theorem State.setPool_msgs (s : State) (k : PoolKey) (x : Pool) : (s.setPool k x).msgs = s.msgs := rfl
@[simp] theorem State.setPool_launches (s : State) (k : PoolKey) (x : Pool) : (s.setPool k x).launches = s.launches := rfl
@[simp] theorem State.setPool_ctxs (s : State) (k : PoolKey) (x : Pool) : (s.setPool k x).ctxs = s.ctxs := rfl
@[simp] theorem State.setPool_parts (s : State) (k : PoolKey) (x : Pool) : (s.setPool k x).parts = s.parts := rfl
@[simp] theorem State.setPool_channels (s : State) (k : PoolKey) (x : Pool) : (s.setPool k x).channels = s.channels := rfl
@[simp] theorem State.setPool_passes (s : State) (k : PoolKey) (x : Pool) : (s.setPool k x).passes = s.passes := rfl
@[simp] theorem State.setPool_tris (s : State) (k : PoolKey) (x : Pool) : (s.setPool k x).tris = s.tris := rfl
@[simp] theorem State.setPool_frags (s : State) (k : PoolKey) (x : Pool) : (s.setPool k x).frags = s.frags := rfl
@[simp] theorem State.setPool_mismatch (s : State) (k : PoolKey) (x : Pool) : (s.setPool k x).mismatch = s.mismatch := rfl
@[simp] theorem State.setPool_cycle (s : State) (k : PoolKey) (x : Pool) : (s.setPool k x).cycle = s.cycle := rfl
@[simp] theorem State.setPool_lastSc (s : State) (k : PoolKey) (x : Pool) : (s.setPool k x).lastSc = s.lastSc := rfl
@[simp] theorem State.setPool_agenda (s : State) (k : PoolKey) (x : Pool) : (s.setPool k x).agenda = s.agenda := rfl
@[simp] theorem State.setPool_fresh (s : State) (k : PoolKey) (x : Pool) : (s.setPool k x).fresh = s.fresh := rfl

/-! Reading the changed record. -/

theorem State.modThr_tfind (s : State) (t u : Nat) (f : Thread → Thread) :
    tfind (s.modThr t f).threads u = if t = u then (tfind s.threads u).map f else tfind s.threads u := tfind_tmod _ _ _ _

theorem State.modGrp_tfind (s : State) (g h : Nat) (f : Group → Group) :
    tfind (s.modGrp g f).groups h = if g = h then (tfind s.groups h).map f else tfind s.groups h := tfind_tmod _ _ _ _

theorem State.modThr_thr_other (s : State) {t u : Nat} (f : Thread → Thread) (h : t ≠ u) : (s.modThr t f).thr u = s.thr u := by
  simp [State.thr, State.modThr_tfind, h]

theorem State.modGrp_grp_other (s : State) {g h : Nat} (f : Group → Group) (n : g ≠ h) : (s.modGrp g f).grp h = s.grp h := by
  simp [State.grp, State.modGrp_tfind, n]

/-- A thread that is there is changed. -/
theorem State.modThr_thr_self (s : State) (t : Nat) (f : Thread → Thread) (h : (tfind s.threads t).isSome = true) :
    (s.modThr t f).thr t = f (s.thr t) := by
  obtain ⟨x, hx⟩ := Option.isSome_iff_exists.mp h
  simp [State.thr, State.modThr_tfind, hx]

/-- A group that is there is changed. -/
theorem State.modGrp_grp_self (s : State) (g : Nat) (f : Group → Group) (h : (tfind s.groups g).isSome = true) :
    (s.modGrp g f).grp g = f (s.grp g) := by
  obtain ⟨x, hx⟩ := Option.isSome_iff_exists.mp h
  simp [State.grp, State.modGrp_tfind, hx]

theorem State.modThr_keys (s : State) (t : Nat) (f : Thread → Thread) :
    (s.modThr t f).threads.map (·.1) = s.threads.map (·.1) := tmod_keys _ _ _

theorem State.modGrp_keys (s : State) (g : Nat) (f : Group → Group) :
    (s.modGrp g f).groups.map (·.1) = s.groups.map (·.1) := tmod_keys _ _ _

@[simp] theorem State.modThr_grp (s : State) (t g : Nat) (f : Thread → Thread) : (s.modThr t f).grp g = s.grp g := rfl
@[simp] theorem State.modGrp_thr (s : State) (g t : Nat) (f : Group → Group) : (s.modGrp g f).thr t = s.thr t := rfl
@[simp] theorem State.modThr_wg (s : State) (t w : Nat) (f : Thread → Thread) : (s.modThr t f).wg w = s.wg w := rfl
@[simp] theorem State.modGrp_wg (s : State) (g w : Nat) (f : Group → Group) : (s.modGrp g f).wg w = s.wg w := rfl
@[simp] theorem State.modBundle_thr (s : State) (p t : Nat) (f : Bundle → Bundle) : (s.modBundle p f).thr t = s.thr t := rfl
@[simp] theorem State.modBundle_grp (s : State) (p g : Nat) (f : Bundle → Bundle) : (s.modBundle p f).grp g = s.grp g := rfl

theorem State.modCu_cu (s : State) (c d : Nat) (f : Cu → Cu) : (s.modCu c f).cu d = if c = d then f (s.cu c) else s.cu d := by
  simp only [State.cu, State.modCu, tfind_tput]; split <;> rfl

theorem State.modCore_core (s : State) (c d : Nat) (f : Core → Core) :
    (s.modCore c f).core d = if c = d then f (s.core c) else s.core d := by
  simp only [State.core, State.modCore, tfind_tput]; split <;> rfl

theorem State.modCtx_ctx (s : State) (c d : Nat) (f : Context → Context) :
    (s.modCtx c f).ctx d = if c = d then f (s.ctx c) else s.ctx d := by
  simp only [State.ctx, State.modCtx, tfind_tput]; split <;> rfl

theorem State.modPart_part (s : State) (c d : Nat) (f : Partition → Partition) :
    (s.modPart c f).part d = if c = d then f (s.part c) else s.part d := by
  simp only [State.part, State.modPart, tfind_tput]; split <;> rfl

theorem State.modWg_tfind (s : State) (w v : Nat) (f : Workgroup → Workgroup) :
    tfind (s.modWg w f).wgs v = if w = v then (tfind s.wgs v).map f else tfind s.wgs v := tfind_tmod _ _ _ _

theorem State.addAcc_tfind (s : State) (a : Access) (k : Nat) :
    tfind (s.addAcc a).accs k = if s.fresh = k then some { a with arrival := s.fresh } else tfind s.accs k := tfind_tput _ _ _ _

end Sys2Proof.Machine
end

