-- ==== Sys2Proof/Laws/Folds.lean ====
section
/-! SUPPORT. Changes folded over lists of threads and groups, and the list of groups of a bundle. -/

namespace Sys2Proof.Machine

/-! Lists of numbers. -/

theorem mem_dedup_aux (l acc : List Nat) (x : Nat) :
    x ∈ l.foldl (fun r x => if r.contains x then r else r ++ [x]) acc ↔ x ∈ acc ∨ x ∈ l := by
  induction l generalizing acc with
  | nil => simp
  | cons y l ih =>
    simp only [List.foldl_cons, ih, List.mem_cons]
    split
    · rename_i h
      simp only [List.contains_iff_mem] at h
      constructor
      · rintro (h1 | h1) <;> simp [h1]
      · rintro (h1 | h1 | h1)
        · exact .inl h1
        · subst h1; exact .inl h
        · exact .inr h1
    · simp [or_assoc]

theorem mem_dedup (l : List Nat) (x : Nat) : x ∈ dedup l ↔ x ∈ l :=
  (mem_dedup_aux l [] x).trans (by simp)

theorem nodup_dedup_aux (l acc : List Nat) (h : acc.Nodup) :
    (l.foldl (fun r x => if r.contains x then r else r ++ [x]) acc).Nodup := by
  induction l generalizing acc with
  | nil => exact h
  | cons y l ih =>
    simp only [List.foldl_cons]
    split
    · exact ih _ h
    · rename_i hy
      refine ih _ ?_
      simp only [List.contains_iff_mem] at hy
      rw [List.nodup_append]
      refine ⟨h, by simp, ?_⟩
      intro a ha b hb
      simp only [List.mem_singleton] at hb
      subst hb
      exact fun e => hy (e ▸ ha)

theorem nodup_dedup (l : List Nat) : (dedup l).Nodup := nodup_dedup_aux l [] List.nodup_nil

theorem perm_insertNat (x : Nat) (l : List Nat) : (insertNat x l).Perm (x :: l) := by
  induction l with
  | nil => exact .refl _
  | cons y r ih =>
    simp only [insertNat]
    split
    · exact .refl _
    · exact (List.Perm.cons y ih).trans (List.Perm.swap x y r)

theorem perm_sortNat (l : List Nat) : (sortNat l).Perm l := by
  unfold sortNat
  induction l with
  | nil => exact .refl _
  | cons x l ih => exact (perm_insertNat x _).trans (List.Perm.cons x ih)

theorem nodup_groupsOf (l : List Nat) : (groupsOf l).Nodup := (perm_sortNat _).nodup_iff.mpr (nodup_dedup _)

theorem mem_groupsOf (l : List Nat) (g : Nat) : g ∈ groupsOf l ↔ ∃ t ∈ l, gidOf t = g := by
  simp [groupsOf, (perm_sortNat _).mem_iff, mem_dedup]

theorem gid_mem_groupsOf {l : List Nat} {t : Nat} (h : t ∈ l) : gidOf t ∈ groupsOf l := (mem_groupsOf _ _).mpr ⟨t, h, rfl⟩

/-! Changes of the groups named by a list without repeats. -/

/-- A change of every group of a list, which changes the table of groups only. -/
theorem foldl_modGrp_rest (l : List Nat) (F : Nat → Group → Group) (s : State) :
    l.foldl (fun s g => s.modGrp g (F g)) s = { s with groups := (l.foldl (fun s g => s.modGrp g (F g)) s).groups } := by
  induction l generalizing s with
  | nil => rfl
  | cons g l ih =>
    rw [List.foldl_cons, ih]
    rfl

theorem foldl_modGrp_tfind (l : List Nat) (h : l.Nodup) (F : Nat → Group → Group) (s : State) (g : Nat) :
    tfind (l.foldl (fun s g => s.modGrp g (F g)) s).groups g =
      if g ∈ l then (tfind s.groups g).map (F g) else tfind s.groups g := by
  induction l generalizing s with
  | nil => simp
  | cons k l ih =>
    rw [List.nodup_cons] at h
    rw [List.foldl_cons, ih h.2, State.modGrp_tfind]
    by_cases hk : k = g
    · subst hk; simp [h.1]
    · simp [hk, Ne.symm hk]

theorem foldl_modGrp_grp (l : List Nat) (h : l.Nodup) (F : Nat → Group → Group) (s : State) (g : Nat)
    (hp : g ∈ l → (tfind s.groups g).isSome = true) :
    (l.foldl (fun s g => s.modGrp g (F g)) s).grp g = if g ∈ l then F g (s.grp g) else s.grp g := by
  simp only [State.grp, foldl_modGrp_tfind l h]
  split
  · rename_i hg
    obtain ⟨x, hx⟩ := Option.isSome_iff_exists.mp (hp hg)
    simp [hx]
  · rfl

/-! Changes of the threads named by a list of results. -/

/-- A change of every thread of a list, which changes the table of threads only. -/
theorem foldl_modThr_rest {ρ : Type} (l : List ρ) (tid : ρ → Nat) (F : ρ → Thread → Thread) (s : State) :
    l.foldl (fun s o => s.modThr (tid o) (F o)) s = { s with threads := (l.foldl (fun s o => s.modThr (tid o) (F o)) s).threads } := by
  induction l generalizing s with
  | nil => rfl
  | cons g l ih =>
    rw [List.foldl_cons, ih]
    rfl

theorem foldl_modThr_tfind_other {ρ : Type} (l : List ρ) (tid : ρ → Nat) (F : ρ → Thread → Thread) (s : State) (u : Nat)
    (h : ∀ o ∈ l, tid o ≠ u) : tfind (l.foldl (fun s o => s.modThr (tid o) (F o)) s).threads u = tfind s.threads u := by
  induction l generalizing s with
  | nil => rfl
  | cons k l ih =>
    rw [List.foldl_cons, ih _ fun o ho => h o (List.mem_cons_of_mem _ ho), State.modThr_tfind,
      if_neg (h k List.mem_cons_self)]

theorem foldl_modThr_tfind {ρ : Type} (l : List ρ) (tid : ρ → Nat) (h : (l.map tid).Nodup) (F : ρ → Thread → Thread) (s : State)
    (o : ρ) (ho : o ∈ l) :
    tfind (l.foldl (fun s o => s.modThr (tid o) (F o)) s).threads (tid o) = (tfind s.threads (tid o)).map (F o) := by
  induction l generalizing s with
  | nil => simp at ho
  | cons k l ih =>
    rw [List.map_cons, List.nodup_cons] at h
    rw [List.foldl_cons]
    rcases List.mem_cons.mp ho with rfl | ho'
    · rw [foldl_modThr_tfind_other, State.modThr_tfind, if_pos rfl]
      intro o' ho' e
      exact h.1 (e ▸ List.mem_map_of_mem ho')
    · rw [ih h.2 _ ho', State.modThr_tfind, if_neg]
      intro e
      exact h.1 (e ▸ List.mem_map_of_mem ho')

theorem foldl_modThr_thr {ρ : Type} (l : List ρ) (tid : ρ → Nat) (h : (l.map tid).Nodup) (F : ρ → Thread → Thread) (s : State)
    (o : ρ) (ho : o ∈ l) (hp : (tfind s.threads (tid o)).isSome = true) :
    (l.foldl (fun s o => s.modThr (tid o) (F o)) s).thr (tid o) = F o (s.thr (tid o)) := by
  obtain ⟨x, hx⟩ := Option.isSome_iff_exists.mp hp
  simp [State.thr, foldl_modThr_tfind l tid h F s o ho, hx]

theorem foldl_modThr_thr_other {ρ : Type} (l : List ρ) (tid : ρ → Nat) (F : ρ → Thread → Thread) (s : State) (u : Nat)
    (h : ∀ o ∈ l, tid o ≠ u) : (l.foldl (fun s o => s.modThr (tid o) (F o)) s).thr u = s.thr u := by
  simp [State.thr, foldl_modThr_tfind_other l tid F s u h]

end Sys2Proof.Machine
end

