-- ==== Sys2Proof/Laws/Front.lean ====
section
/-! SUPPORT. What a word that passes the shared checks goes through: the raise of the context label, its effect, the advance. -/

namespace Sys2Proof.Machine

variable {i : Instr} {s : State}

/-- What `clear` says, part by part. -/
structure Clear (i : Instr) (s : State) (b : Bundle) : Prop where
  pipe : tfind s.pipes s.turn = some b
  fence : b.fence = none
  some_ : b.tids ≠ []
  nodup : b.tids.Nodup
  placed : ∀ t ∈ b.tids, placed s t = true
  check : wordCheck s (mkWx s i s.turn b) = none
  clause : (shape i).whole = true → b.tids.any (holdsClause s) = false
  group : (shape i).whole = true → wholeBundle s b.tids = true
  free : (wgsOf b.tids).any (heldBack s) = false
  unblocked : (mkWx s i s.turn b).blocked s = false
  unended : (mkWx s i s.turn b).unended s = []
  sound : b.tids.all (soundLane s) = true
  fails : preFails s (mkWx s i s.turn b) = []

theorem clear_bundle {b : Bundle} (h : tfind s.pipes s.turn = some b) : s.bundle = b := by simp [State.bundle, h]

theorem clear_iff_aux (h : clear i s = true) : ∃ b, Clear i s b := by
  unfold clear at h
  split at h
  · cases h
  · rename_i b hb
    simp only [Bool.and_eq_true, decide_eq_true_eq, Bool.not_eq_true', List.all_eq_true, Option.isNone_iff_eq_none,
      List.isEmpty_iff, Bool.or_eq_true] at h
    obtain ⟨⟨⟨⟨⟨⟨⟨⟨⟨⟨h1, h2⟩, h3⟩, h4⟩, h5⟩, h6⟩, h7⟩, h8⟩, h9⟩, h10⟩, h11⟩ := h
    refine ⟨b, hb, h1, ?_, h3, h4, h5, ?_, ?_, h7, h8, h9, ?_, h11⟩
    · intro e; rw [e] at h2; simp at h2
    · intro e
      rcases h6 with h6 | h6
      · simp [mkWx, e] at h6
      · exact h6.1
    · intro e
      rcases h6 with h6 | h6
      · simp [mkWx, e] at h6
      · exact h6.2
    · exact List.all_eq_true.mpr h10

/-- A clear word's bundle, and all that `clear` says of it. -/
theorem clear_parts (h : clear i s = true) : Clear i s s.bundle := by
  obtain ⟨b, hb⟩ := clear_iff_aux h
  rw [clear_bundle hb.pipe]
  exact hb

theorem wordAt_b : (wordAt i s).b = s.bundle := rfl
@[simp] theorem wordAt_sh : (wordAt i s).sh = shape i := rfl
@[simp] theorem wordAt_i : (wordAt i s).i = i := rfl
@[simp] theorem wordAt_pipe : (wordAt i s).pipe = s.turn := rfl
@[simp] theorem wordAt_bundle : (wordAt i s).b = s.bundle := rfl

/-- No checker mismatch is pending at a clear word that a checker watches. -/
theorem clear_mismatch (h : clear i s = true) (hw : (wordAt i s).checked = true) : s.mismatch = false := by
  have hc := clear_parts h
  have hf := hc.fails
  simp only [preFails, List.append_eq_nil_iff] at hf
  have h4 := hf.2
  change (if s.mismatch && (wordAt i s).checked then _ else []) = [] at h4
  rw [hw, Bool.and_true] at h4
  cases hm : s.mismatch with
  | false => rfl
  | true =>
    rw [hm] at h4
    simp only [if_true, List.map_eq_nil_iff] at h4
    exact absurd h4 hc.some_

/-- A clear word takes its effect in `entered i s`, and nothing else comes between. -/
theorem runWord_clear (h : clear i s = true) (eff : State → Wx → Eff) :
    runWord i s eff = .next (finish s (entered i s) (wordAt i s) [] (eff (entered i s) (wordAt i s))) := by
  have hc := clear_parts h
  have hm : ({ s with mismatch := if (wordAt i s).checked then false else s.mismatch } : State) = s := by
    split
    · rename_i hw
      have := clear_mismatch h hw
      cases s; simp_all
    · rfl
  unfold runWord
  rw [hc.pipe]
  simp only [hc.fence, Option.isSome_none, Bool.false_eq_true, if_false]
  unfold issueWord
  rw [hc.check]
  have hclause : (if (mkWx s i s.turn s.bundle).sh.whole = true then
      (mkWx s i s.turn s.bundle).b.tids.filter (holdsClause s) else []) = [] := by
    split
    · rename_i hw
      have := hc.clause hw
      rw [List.any_eq_false] at this
      exact List.filter_eq_nil_iff.mpr this
    · rfl
  have hgroup : ((mkWx s i s.turn s.bundle).sh.whole && !wholeBundle s (mkWx s i s.turn s.bundle).b.tids) = false := by
    cases hw : (mkWx s i s.turn s.bundle).sh.whole with
    | false => rfl
    | true =>
      have := hc.group hw
      simp only [mkWx] at *
      simp [this]
  have hfree : (wgsOf (mkWx s i s.turn s.bundle).b.tids).any (fun g => (s.wg g).retry || flushing s g || budgetOver s g) = false := hc.free
  simp only [hclause, List.isEmpty_nil, Bool.not_true, Bool.false_eq_true, if_false, hgroup, hfree, Bool.false_or, hc.unblocked,
    hc.unended]
  have hd : detect s (mkWx s i s.turn s.bundle) = s := by
    unfold detect
    have : (mkWx s i s.turn s.bundle).b.tids.all (soundLane s) = true := hc.sound
    rw [if_pos this]
  rw [hd, hc.fails]
  have hm' : ({ s with mismatch := if (mkWx s i s.turn s.bundle).checked = true then false else s.mismatch } : State) = s := hm
  rw [hm']
  rfl

/-- A clear word whose effect is done goes on to the next word. -/
theorem runWord_done (h : clear i s = true) {eff : State → Wx → Eff} {t : State} (he : eff (entered i s) (wordAt i s) = .done t) :
    runWord i s eff = .next (goOn i s t) := by
  rw [runWord_clear h, he]; rfl

/-- A clear word that places its threads itself. -/
theorem runWord_gone (h : clear i s = true) {eff : State → Wx → Eff} {t : State} (he : eff (entered i s) (wordAt i s) = .gone t) :
    runWord i s eff = .next t := by
  rw [runWord_clear h, he]; rfl

/-- A clear word that is held at issue stalls. -/
theorem runWord_hold (h : clear i s = true) {eff : State → Wx → Eff} {t : State} (he : eff (entered i s) (wordAt i s) = .hold t) :
    runWord i s eff = .next (stallPipe t s.turn) := by
  rw [runWord_clear h, he]; rfl

/-- A clear word whose lanes fail takes the trap, or the rollback in its place. -/
theorem runWord_fail (h : clear i s = true) {eff : State → Wx → Eff} {l : List Fail} (he : eff (entered i s) (wordAt i s) = .fail l) :
    runWord i s eff = .next (trapFails s (wordAt i s) l) := by
  rw [runWord_clear h, he]
  simp only [finish, List.nil_append]

/-! The raise of the context labels. -/

theorem predLabel_congr {s t : State} (g p : Nat) (h : (s.grp g).lpred = (t.grp g).lpred) : predLabel s g p = predLabel t g p := by
  simp [predLabel, h]

theorem guardLabel_congr {s t : State} (w : Wx) (g : Nat) (h : (s.grp g).lpred = (t.grp g).lpred) :
    w.guardLabel s g = w.guardLabel t g := by
  unfold Wx.guardLabel
  split
  · rfl
  · exact predLabel_congr _ _ h

theorem raise_foldl (w : Wx) (s t : State) (l : List Nat) (hl : ∀ g, (t.grp g).lpred = (s.grp g).lpred) :
    l.foldl (fun s g => s.modGrp g fun x => { x with ctx := x.ctx ||| w.guardLabel s g }) t =
      l.foldl (fun t g => t.modGrp g fun x => { x with ctx := x.ctx ||| w.guardLabel s g }) t := by
  induction l generalizing t with
  | nil => rfl
  | cons g l ih =>
    rw [List.foldl_cons, List.foldl_cons, guardLabel_congr w g (hl g)]
    refine ih _ fun k => ?_
    by_cases hk : g = k
    · subst hk
      rw [← hl g]
      simp only [State.grp, State.modGrp_tfind, if_true]
      cases tfind t.groups g <;> rfl
    · rw [State.modGrp_grp_other _ _ hk, hl]

/-- The raise by the guard's label of `s`, group by group. -/
theorem raiseGuard_eq (w : Wx) (s : State) : raiseGuard s w =
    if w.sh.sel then s
    else (groupsOf w.b.tids).foldl (fun t g => t.modGrp g fun x => { x with ctx := x.ctx ||| w.guardLabel s g }) s := by
  unfold raiseGuard
  split
  · rfl
  · exact raise_foldl w s s _ fun _ => rfl

/-- The raise changes the table of groups only. -/
theorem entered_rest (i : Instr) (s : State) : entered i s = { s with groups := (entered i s).groups } := by
  simp only [entered, raiseGuard_eq]
  split
  · rfl
  · exact foldl_modGrp_rest _ _ s

@[simp] theorem entered_threads (i : Instr) (s : State) : (entered i s).threads = s.threads := by rw [entered_rest]
@[simp] theorem entered_wgs (i : Instr) (s : State) : (entered i s).wgs = s.wgs := by rw [entered_rest]
@[simp] theorem entered_pipes (i : Instr) (s : State) : (entered i s).pipes = s.pipes := by rw [entered_rest]
@[simp] theorem entered_turn (i : Instr) (s : State) : (entered i s).turn = s.turn := by rw [entered_rest]
@[simp] theorem entered_now (i : Instr) (s : State) : (entered i s).now = s.now := by rw [entered_rest]
@[simp] theorem entered_thr (i : Instr) (s : State) (u : Nat) : (entered i s).thr u = s.thr u := by simp [State.thr]
@[simp] theorem entered_wg (i : Instr) (s : State) (u : Nat) : (entered i s).wg u = s.wg u := by simp [State.wg]

theorem entered_tfind_groups (i : Instr) (s : State) (g : Nat) : tfind (entered i s).groups g =
    if (shape i).sel = false ∧ g ∈ s.gids then (tfind s.groups g).map fun x => { x with ctx := x.ctx ||| (wordAt i s).guardLabel s g }
    else tfind s.groups g := by
  unfold entered
  rw [raiseGuard_eq, wordAt_sh]
  by_cases hs : (shape i).sel = true
  · rw [if_pos hs, if_neg (by simp [hs])]
  · rw [if_neg hs, foldl_modGrp_tfind _ (nodup_groupsOf _)]
    have hs' : (shape i).sel = false := by simpa using hs
    simp only [hs', true_and]
    rfl

/-- A group after the raise: its context label, and nothing else. -/
theorem entered_grp_eq (i : Instr) (s : State) (g : Nat) : (entered i s).grp g = { s.grp g with ctx := ((entered i s).grp g).ctx } := by
  simp only [State.grp, entered_tfind_groups]
  split
  · cases tfind s.groups g <;> rfl
  · rfl

theorem entered_ctx (i : Instr) (s : State) (g : Nat) (hg : g ∈ s.gids) (hp : (tfind s.groups g).isSome = true) :
    ((entered i s).grp g).ctx = (s.grp g).ctx ||| (if (shape i).sel then 0 else (wordAt i s).guardLabel s g) := by
  simp only [State.grp, entered_tfind_groups]
  obtain ⟨x, hx⟩ := Option.isSome_iff_exists.mp hp
  cases hs : (shape i).sel <;> simp [hx, hg]

@[simp] theorem entered_g (i : Instr) (s : State) (g : Nat) : ((entered i s).grp g).g = (s.grp g).g := by rw [entered_grp_eq]
@[simp] theorem entered_c (i : Instr) (s : State) (g : Nat) : ((entered i s).grp g).c = (s.grp g).c := by rw [entered_grp_eq]
@[simp] theorem entered_lreg (i : Instr) (s : State) (g : Nat) : ((entered i s).grp g).lreg = (s.grp g).lreg := by rw [entered_grp_eq]
@[simp] theorem entered_lpred (i : Instr) (s : State) (g : Nat) : ((entered i s).grp g).lpred = (s.grp g).lpred := by rw [entered_grp_eq]
@[simp] theorem entered_lg (i : Instr) (s : State) (g : Nat) : ((entered i s).grp g).lg = (s.grp g).lg := by rw [entered_grp_eq]
@[simp] theorem entered_lc (i : Instr) (s : State) (g : Nat) : ((entered i s).grp g).lc = (s.grp g).lc := by rw [entered_grp_eq]
@[simp] theorem entered_lflags (i : Instr) (s : State) (g : Nat) : ((entered i s).grp g).lflags = (s.grp g).lflags := by rw [entered_grp_eq]

/-! What the lanes read is the same before and after the raise. -/

@[simp] theorem entered_readReg (i : Instr) (s : State) (u f : Nat) : readReg (entered i s) u f = readReg s u f := by
  simp [readReg]

@[simp] theorem entered_readG (i : Instr) (s : State) (g k : Nat) : readG (entered i s) g k = readG s g k := by simp [readG]

@[simp] theorem entered_readPred (i : Instr) (s : State) (u p : Nat) : readPred (entered i s) u p = readPred s u p := by
  simp [readPred]

@[simp] theorem entered_readOpnd (i : Instr) (s : State) (u : Nat) (o : Opnd) : readOpnd (entered i s) u o = readOpnd s u o := by
  cases o <;> simp [readOpnd]

@[simp] theorem entered_guardVal (i : Instr) (s : State) (u : Nat) (g : BitVec 4) : guardVal (entered i s) u g = guardVal s u g := by
  simp [guardVal]

@[simp] theorem entered_act (i : Instr) (s : State) (w : Wx) : w.act (entered i s) = w.act s := by
  unfold Wx.act
  split
  · rfl
  · simp

@[simp] theorem entered_values (i : Instr) (s : State) (w : Wx) (u : Nat) : w.values (entered i s) u = w.values s u := by
  simp only [Wx.values, show readOpnd (entered i s) u = readOpnd s u from funext fun _ => entered_readOpnd ..]

@[simp] theorem entered_liveOf (i : Instr) (s : State) (g : Nat) : liveOf (entered i s) g = liveOf s g := by simp [liveOf]

@[simp] theorem entered_holdsGroup (i : Instr) (s : State) (l : List Nat) (g : Nat) : holdsGroup (entered i s) l g = holdsGroup s l g := by
  simp [holdsGroup]

@[simp] theorem entered_fieldLabel (i : Instr) (s : State) (g f : Nat) : fieldLabel (entered i s) g f = fieldLabel s g f := by
  simp [fieldLabel]

@[simp] theorem entered_predLabel (i : Instr) (s : State) (g p : Nat) : predLabel (entered i s) g p = predLabel s g p := by
  simp [predLabel]

@[simp] theorem entered_opndLabel (i : Instr) (s : State) (g : Nat) (o : Opnd) : opndLabel (entered i s) g o = opndLabel s g o := by
  cases o <;> simp [opndLabel, show fieldLabel (entered i s) g = fieldLabel s g from funext fun _ => entered_fieldLabel ..]

@[simp] theorem entered_guardLabel (i : Instr) (s : State) (w : Wx) (g : Nat) : w.guardLabel (entered i s) g = w.guardLabel s g :=
  guardLabel_congr w g (entered_lpred i s g)

theorem lanes_sub (i : Instr) (s : State) : ∀ u ∈ lanes i s, u ∈ s.bundle.tids := by
  intro u hu
  unfold lanes Wx.act at hu
  split at hu
  · exact hu
  · split at hu
    · exact hu
    · exact (List.mem_filter.mp hu).1

theorem lanes_nodup (h : s.bundle.tids.Nodup) : (lanes i s).Nodup := by
  unfold lanes Wx.act
  split
  · exact h
  · split
    · exact h
    · exact h.filter _

/-- The label of a word's result is the same before and after the raise. -/
theorem entered_label (i : Instr) (s : State) (g : Nat) (hg : g ∈ s.gids) (hp : (tfind s.groups g).isSome = true) :
    (wordAt i s).label (entered i s) g = outLabel i s g := by
  have hc := entered_ctx i s g hg hp
  have hf : opndLabel (entered i s) g = opndLabel s g := funext fun _ => entered_opndLabel ..
  unfold outLabel Wx.label
  rw [hc, entered_guardLabel, hf]
  cases (shape i).sel
  · simp only [Bool.false_eq_true, if_false]
    rw [show ∀ a b c : Label, a ||| b ||| b ||| c = a ||| b ||| c from fun a b c => by
      rw [BitVec.or_assoc a b b, BitVec.or_self]]
  · simp

/-- The groups of a clear word's bundle are there. -/
theorem clear_group (h : clear i s = true) {g : Nat} (hg : g ∈ s.gids) : (tfind s.groups g).isSome = true := by
  obtain ⟨t, ht, rfl⟩ := (mem_groupsOf _ _).mp hg
  have := (clear_parts h).placed t ht
  simp only [placed, Bool.and_eq_true] at this
  exact this.2

theorem clear_thread (h : clear i s = true) {t : Nat} (ht : t ∈ s.bundle.tids) : (tfind s.threads t).isSome = true := by
  have := (clear_parts h).placed t ht
  simp only [placed, Bool.and_eq_true] at this
  exact this.1

end Sys2Proof.Machine
end

