-- ==== Sys2Proof/Laws/Compute.lean ====
section
/-! SUPPORT. What writing the lanes' results of a computing word does, thread by thread and group by group, and that a clear
computing word answers a next state with exactly that (`Computes`, `ComputesF`). -/

namespace Sys2Proof.Machine

variable {i : Instr} {s : State}

/-! Destination operands. -/

theorem nodup_fieldsOf (d : Opnd) : (fieldsOf d).Nodup := by
  have h4 : ∀ n : Nat, ((upto 4).map (n + ·)).Nodup := fun n => by
    rw [show (upto 4) = [0, 1, 2, 3] from rfl]; simp
  have h8 : ∀ n : Nat, ((upto 8).map (n + ·)).Nodup := fun n => by
    rw [show (upto 8) = [0, 1, 2, 3, 4, 5, 6, 7] from rfl]; simp
  cases d <;> simp only [fieldsOf]
  · simp
  · split <;> simp
  · exact h4 _
  · exact h8 _
  all_goals simp

/-- A destination of computing words: registers or a predicate. -/
def regDest : Opnd → Bool
  | .r _ | .pair _ | .quad _ | .oct _ | .p _ => true
  | _ => false

theorem writeField_regs (x : Thread) (f : Nat) (c : Cell) (k : Nat) :
    sget {} (writeField x f c).regs k = if f = k ∧ f < 116 then c else sget {} x.regs k := by
  unfold writeField
  split
  · rename_i h
    simp only [sget_sset]
    by_cases hk : f = k
    · simp [hk, show k < 116 by omega]
    · simp [hk]
  · split
    · rename_i h
      simp only [sget_sset]
      by_cases hk : f = k
      · simp [hk, show k < 116 by omega]
      · simp [hk]
    · rename_i h
      rw [if_neg (by omega)]

/-- A field write changes the registers and the written bits only. -/
theorem writeField_rest (x : Thread) (f : Nat) (c : Cell) :
    writeField x f c = { x with regs := (writeField x f c).regs, written := (writeField x f c).written } := by
  unfold writeField
  split
  · rfl
  · split <;> rfl

theorem writeFields_rest (l : List (Nat × Cell)) (x : Thread) :
    l.foldl (fun t fc => writeField t fc.1 fc.2) x =
      { x with regs := (l.foldl (fun t fc => writeField t fc.1 fc.2) x).regs
               written := (l.foldl (fun t fc => writeField t fc.1 fc.2) x).written } := by
  induction l generalizing x with
  | nil => rfl
  | cons e l ih =>
    rw [List.foldl_cons, ih, writeField_rest]

theorem writeFields_other (l : List (Nat × Cell)) (x : Thread) (k : Nat) (h : ∀ e ∈ l, e.1 ≠ k) :
    sget {} (l.foldl (fun t fc => writeField t fc.1 fc.2) x).regs k = sget {} x.regs k := by
  induction l generalizing x with
  | nil => rfl
  | cons e l ih =>
    rw [List.foldl_cons, ih _ fun e' he' => h e' (List.mem_cons_of_mem _ he'), writeField_regs, if_neg]
    intro hk
    exact h e List.mem_cons_self hk.1

theorem writeFields_value (l : List (Nat × Cell)) (hl : (l.map (·.1)).Nodup) (x : Thread) (e : Nat × Cell) (he : e ∈ l) (hf : e.1 < 116) :
    sget {} (l.foldl (fun t fc => writeField t fc.1 fc.2) x).regs e.1 = e.2 := by
  induction l generalizing x with
  | nil => simp at he
  | cons d l ih =>
    rw [List.map_cons, List.nodup_cons] at hl
    rw [List.foldl_cons]
    rcases List.mem_cons.mp he with rfl | he'
    · rw [writeFields_other, writeField_regs, if_pos ⟨rfl, hf⟩]
      intro e' he' h
      exact hl.1 (h ▸ List.mem_map_of_mem he')
    · exact ih hl.2 _ he'

/-- The bits of sr.twritten over a list of fields. -/
def bitsOf (l : List Nat) (m : BitVec 4) : BitVec 4 :=
  l.foldl (fun m f => if 112 ≤ f ∧ f < 116 then m ||| (1#4 <<< (f - 112)) else m) m

theorem bitsOf_or (l : List Nat) (m n : BitVec 4) : bitsOf l (m ||| n) = m ||| bitsOf l n := by
  induction l generalizing n with
  | nil => rfl
  | cons f l ih =>
    simp only [bitsOf, List.foldl_cons] at *
    split
    · rw [BitVec.or_assoc]; exact ih _
    · exact ih _

theorem writeField_written (x : Thread) (f : Nat) (c : Cell) :
    (writeField x f c).written = if 112 ≤ f ∧ f < 116 then x.written ||| (1#4 <<< (f - 112)) else x.written := by
  unfold writeField
  split
  · rw [if_neg (by omega)]
  · split
    · rw [if_pos (by omega)]
    · rw [if_neg (by omega)]

theorem writeFields_written (l : List (Nat × Cell)) (x : Thread) :
    (l.foldl (fun t fc => writeField t fc.1 fc.2) x).written = bitsOf (l.map (·.1)) x.written := by
  induction l generalizing x with
  | nil => rfl
  | cons e l ih =>
    rw [List.foldl_cons, ih, writeField_written]
    rfl

@[simp] theorem cellsOf_length (v : Nat) (p : Bool) (n : Nat) : (cellsOf v p n).length = n := by
  induction n generalizing v with
  | zero => rfl
  | succ n ih => simp [cellsOf, ih]

theorem cellsOf_poison (v : Nat) (p : Bool) (n : Nat) : ∀ c ∈ cellsOf v p n, c.poison = p := by
  induction n generalizing v with
  | zero => simp [cellsOf]
  | succ n ih =>
    intro c hc
    rcases List.mem_cons.mp hc with rfl | h
    · rfl
    · exact ih _ c h

theorem cellsOf_eq (v : Nat) (p : Bool) (n : Nat) : cellsOf v p n = (wordsOf v n).map fun x => { val := x, poison := p } := by
  induction n generalizing v with
  | zero => rfl
  | succ n ih => simp only [cellsOf, wordsOf, List.map_cons, ih]

@[simp] theorem wordsOf_length (v n : Nat) : (wordsOf v n).length = n := by
  induction n generalizing v with
  | zero => rfl
  | succ n ih => simp [wordsOf, ih]

@[simp] theorem wordsOf_one (v : Nat) : wordsOf v 1 = [w32 v] := rfl

theorem wordsOf_two (v : Nat) (x : DWord) (h : v % 2 ^ 64 = x.toNat) : wordsOf v 2 = halves x := by
  have hx : x = BitVec.ofNat 64 v := by
    apply BitVec.eq_of_toNat_eq
    rw [BitVec.toNat_ofNat, ← h]
  subst hx
  simp only [wordsOf, halves]
  congr 1
  · apply BitVec.eq_of_toNat_eq
    simp only [BitVec.truncate_eq_setWidth, BitVec.toNat_setWidth, BitVec.toNat_ofNat]
    omega
  · congr 1
    apply BitVec.eq_of_toNat_eq
    simp only [BitVec.truncate_eq_setWidth, BitVec.toNat_setWidth, BitVec.toNat_ushiftRight, BitVec.toNat_ofNat, Nat.shiftRight_eq_div_pow]
    omega

theorem opndWords_length (d : Opnd) (h : regDest d = true) (hg : ∀ k, d ≠ .p k) : (fieldsOf d).length ≤ opndWords d := by
  cases d <;> simp [fieldsOf, opndWords, regDest, upto] at * 
  split <;> simp

/-! The results of a word, lane by lane. -/

/-- A thread after its lane's result. -/
def laneThread (d : Opnd) (pc : DWord) (o : LaneOut) (x : Thread) : Thread :=
  if (gDest d).isSome then x else notePoison o.poison pc (writeOpnd x d (cellsOf o.val o.poison (opndWords d)))

/-- A group after its results, before their label. -/
def groupBefore (d : Opnd) (first : Option LaneOut) (x : Group) : Group :=
  match gDest d, first with
  | some k, some o => { x with g := sset {} x.g k { val := d64 (o.val % 2 ^ 32), plo := o.poison } }
  | _, _ => x

/-- A group after its results and their label. -/
def groupOut (d : Opnd) (first : Option LaneOut) (set : Bool) (l : Label) (x : Group) : Group :=
  labelOpnd set l d (groupBefore d first x)

theorem groupWrites_eq (outs : List LaneOut) (k : Nat) (l : List Nat) (t : State) :
    l.foldl (fun s g => match firstOut outs g with
        | some o => writeGLow s g k o
        | none => s) t =
    l.foldl (fun s g => s.modGrp g fun x => match firstOut outs g with
        | some o => { x with g := sset {} x.g k { val := d64 (o.val % 2 ^ 32), plo := o.poison } }
        | none => x) t := by
  have key : ∀ (s : State) (g : Nat), (match firstOut outs g with
        | some o => writeGLow s g k o
        | none => s) = s.modGrp g fun x => match firstOut outs g with
        | some o => { x with g := sset {} x.g k { val := d64 (o.val % 2 ^ 32), plo := o.poison } }
        | none => x := by
    intro s g
    cases firstOut outs g with
    | some o => rfl
    | none =>
      have : ∀ m : Table Group, tmod m g (fun x => x) = m := by
        intro m
        induction m with
        | nil => rfl
        | cons e r ih =>
          obtain ⟨a, b⟩ := e
          simp only [tmod]
          split
          · rfl
          · rw [ih]
      simp only [State.modGrp]
      rw [this]
  simp only [key]

/-- Writing results: the lanes' threads or the groups' registers, then the labels. -/
theorem writeOuts_eq (s : State) (w : Wx) (d : Opnd) (outs : List LaneOut) (label : Nat → Label) :
    writeOuts s w d outs label =
      (groupsOf w.b.tids).foldl (fun t g => t.modGrp g (labelOpnd (wholeWrite s (outs.map (·.tid)) g) (label g) d))
        (match gDest d with
          | some k => (groupsOf w.b.tids).foldl (fun s g => s.modGrp g fun x => match firstOut outs g with
              | some o => { x with g := sset {} x.g k { val := d64 (o.val % 2 ^ 32), plo := o.poison } }
              | none => x) s
          | none => outs.foldl (fun s o => s.modThr o.tid fun x =>
              notePoison o.poison w.b.pc (writeOpnd x d (cellsOf o.val o.poison (opndWords d)))) s) := by
  unfold writeOuts
  cases gDest d with
  | none => rfl
  | some k =>
    exact congrArg (fun t => (groupsOf w.b.tids).foldl
      (fun t g => t.modGrp g (labelOpnd (wholeWrite s (outs.map (·.tid)) g) (label g) d)) t) (groupWrites_eq outs k _ s)

theorem writeOuts_rest (s : State) (w : Wx) (d : Opnd) (outs : List LaneOut) (label : Nat → Label) :
    writeOuts s w d outs label =
      { s with threads := (writeOuts s w d outs label).threads, groups := (writeOuts s w d outs label).groups } := by
  rw [writeOuts_eq, foldl_modGrp_rest]
  cases gDest d with
  | none => simp only; rw [foldl_modThr_rest (tid := LaneOut.tid)]
  | some k => simp only; rw [foldl_modGrp_rest]

theorem writeOuts_threads_other (s : State) (w : Wx) (d : Opnd) (outs : List LaneOut) (label : Nat → Label) (u : Nat)
    (h : ∀ o ∈ outs, o.tid ≠ u) : tfind (writeOuts s w d outs label).threads u = tfind s.threads u := by
  rw [writeOuts_eq, foldl_modGrp_rest]
  cases gDest d with
  | none => exact foldl_modThr_tfind_other outs LaneOut.tid _ s u h
  | some k => simp only; rw [foldl_modGrp_rest]

theorem writeOuts_threads (s : State) (w : Wx) (d : Opnd) (outs : List LaneOut) (label : Nat → Label)
    (hn : (outs.map (·.tid)).Nodup) (o : LaneOut) (ho : o ∈ outs) :
    tfind (writeOuts s w d outs label).threads o.tid = (tfind s.threads o.tid).map (laneThread d w.b.pc o) := by
  rw [writeOuts_eq, foldl_modGrp_rest]
  unfold laneThread
  cases gDest d with
  | none => exact foldl_modThr_tfind outs LaneOut.tid hn _ s o ho
  | some k =>
    simp only
    rw [foldl_modGrp_rest]
    simp

theorem writeOuts_groups (s : State) (w : Wx) (d : Opnd) (outs : List LaneOut) (label : Nat → Label) (g : Nat) :
    tfind (writeOuts s w d outs label).groups g =
      if g ∈ groupsOf w.b.tids then
        (tfind s.groups g).map (groupOut d (firstOut outs g) (wholeWrite s (outs.map (·.tid)) g) (label g))
      else tfind s.groups g := by
  rw [writeOuts_eq, foldl_modGrp_tfind _ (nodup_groupsOf _)]
  unfold groupOut groupBefore
  cases gDest d with
  | none =>
    simp only
    rw [foldl_modThr_rest (tid := LaneOut.tid)]
  | some k =>
    simp only
    rw [foldl_modGrp_tfind _ (nodup_groupsOf _)]
    split
    · cases tfind s.groups g with
      | none => rfl
      | some x => cases firstOut outs g <;> rfl
    · rfl

/-! The advance. -/

/-- Some lane has passed an interval's end. -/
def anyPassed (s : State) (act : List Nat) : Bool := act.any fun t => (s.thr t).passed

theorem advance_rest (s : State) (w : Wx) (act : List Nat) :
    advance s w act = { s with threads := (advance s w act).threads, pipes := (advance s w act).pipes } := by
  unfold advance scheduled
  cases w.b.advs.sched with
  | none =>
    simp only
    split
    · rw [foldl_modThr_rest (tid := fun t => t)]; rfl
    · rfl
  | some v =>
    simp only
    rw [foldl_modThr_rest (tid := fun t => t)]
    split
    · rw [foldl_modThr_rest (tid := fun t => t)]; rfl
    · rfl

theorem advance_pipes (s : State) (w : Wx) (act : List Nat) :
    (advance s w act).pipes = tmod s.pipes w.pipe fun b => { b with pc := w.b.pc + 4, pos := w.b.pos + 1, advs := {}, stalled := false } := by
  unfold advance scheduled
  cases w.b.advs.sched with
  | none =>
    simp only
    split
    · rw [foldl_modThr_rest (tid := fun t => t)]; rfl
    · rfl
  | some v =>
    simp only
    rw [foldl_modThr_rest (tid := fun t => t)]
    split
    · rw [foldl_modThr_rest (tid := fun t => t)]; rfl
    · rfl

/-- The threads after the advance. -/
theorem advance_threads (s : State) (w : Wx) (act : List Nat) (hn : w.b.tids.Nodup) (hact : act.Nodup)
    (hsub : ∀ t ∈ act, t ∈ w.b.tids) (u : Nat) :
    tfind (advance s w act).threads u =
      if u ∈ w.b.tids then (tfind s.threads u).map fun x =>
        { (match w.b.advs.sched with
            | none => x
            | some v => if u ∈ act then schedule v x else x) with
          passed := if anyPassed s act then false else x.passed }
      else tfind s.threads u := by
  have fold : ∀ (l : List Nat) (hl : l.Nodup) (t : State) (F : Thread → Thread),
      tfind (l.foldl (fun s t => s.modThr t F) t).threads u = if u ∈ l then (tfind t.threads u).map F else tfind t.threads u := by
    intro l hl t F
    split
    · rename_i hu
      exact foldl_modThr_tfind l (fun t => t) (by simpa using hl) (fun _ => F) t u hu
    · rename_i hu
      exact foldl_modThr_tfind_other l (fun t => t) (fun _ => F) t u fun o ho e => hu (e ▸ ho)
  have step : ∀ (t : State), (∀ v, (t.thr v).passed = (s.thr v).passed) →
      tfind (if act.any (fun v => (t.thr v).passed) then
        w.b.tids.foldl (fun s v => s.modThr v fun x => { x with passed := false }) t else t).threads u =
      if u ∈ w.b.tids then (tfind t.threads u).map fun x => { x with passed := if anyPassed s act then false else x.passed }
      else tfind t.threads u := by
    intro t hq
    have : act.any (fun v => (t.thr v).passed) = anyPassed s act := by
      unfold anyPassed; simp only [hq]
    rw [this]
    split
    · rename_i hpass
      rw [fold _ hn]
    · rename_i hpass
      split
      · cases tfind t.threads u <;> simp
      · rfl
  unfold advance scheduled
  simp only [State.modBundle_threads]
  cases hs : w.b.advs.sched with
  | none =>
    simp only
    exact step s fun _ => rfl
  | some v =>
    simp only
    have hthr : ∀ x, (act.foldl (fun s t => s.modThr t (schedule v)) s).thr x =
        if x ∈ act then ((tfind s.threads x).map (schedule v)).getD {} else s.thr x := by
      intro x
      split
      · rename_i hx
        simp only [State.thr]
        rw [foldl_modThr_tfind act (fun t => t) (by simpa using hact) (fun _ => schedule v) s x hx]
      · rename_i hx
        exact foldl_modThr_thr_other _ (fun t => t) (fun _ => schedule v) s x fun o ho e => hx (e ▸ ho)
    rw [step]
    · rw [fold _ hact]
      split
      · rename_i hu
        by_cases hua : u ∈ act
        · simp only [hua, if_true]
          cases tfind s.threads u <;> rfl
        · simp only [hua, if_false]
      · rename_i hu
        rw [if_neg fun h => hu (hsub u h)]
    · intro x
      rw [hthr]
      split
      · simp only [State.thr]
        cases tfind s.threads x <;> rfl
      · rfl

end Sys2Proof.Machine
end

