-- ==== Sys2Proof/Laws/Wrote.lean ====
section
/-! SUPPORT. A clear word that writes one result per lane answers a next state with `Wrote`: the lemma that the claims on
computing words rest on. -/

namespace Sys2Proof.Machine

variable {i : Instr} {s : State}

/-- The results of a list of lanes. -/
def outsOf (mk : Nat → LaneOut) (l : List Nat) : List LaneOut := l.map mk

/-- The state after a word has written its results, and raised its flags where it raises any. -/
def writtenState (i : Instr) (s : State) (d : Opnd) (mk : Nat → LaneOut) (fl : Bool) : State :=
  let outs := outsOf mk (lanes i s)
  let s1 := writeOuts (entered i s) (wordAt i s) d outs ((wordAt i s).label (entered i s))
  if fl then mergeFlags s1 (wordAt i s) outs ((wordAt i s).label (entered i s)) else s1

theorem mergeFlags_rest (s : State) (w : Wx) (outs : List LaneOut) (label : Nat → Label) :
    mergeFlags s w outs label =
      { s with threads := (mergeFlags s w outs label).threads, groups := (mergeFlags s w outs label).groups } := by
  unfold mergeFlags
  simp only
  rw [foldl_modGrp_rest, foldl_modThr_rest (tid := LaneOut.tid)]

theorem mergeFlags_groups (s : State) (w : Wx) (outs : List LaneOut) (label : Nat → Label) (g : Nat) :
    tfind (mergeFlags s w outs label).groups g =
      if g ∈ groupsOf w.b.tids then (tfind s.groups g).map fun x => { x with lflags := x.lflags ||| label g } else tfind s.groups g := by
  unfold mergeFlags
  simp only
  rw [foldl_modGrp_tfind _ (nodup_groupsOf _), foldl_modThr_rest (tid := LaneOut.tid)]

theorem mergeFlags_threads (s : State) (w : Wx) (outs : List LaneOut) (label : Nat → Label) (hn : (outs.map (·.tid)).Nodup)
    (o : LaneOut) (ho : o ∈ outs) :
    tfind (mergeFlags s w outs label).threads o.tid = (tfind s.threads o.tid).map (orFlags o.flags) := by
  unfold mergeFlags
  simp only
  rw [foldl_modGrp_rest]
  exact foldl_modThr_tfind outs LaneOut.tid hn (fun o => orFlags o.flags) s o ho

theorem mergeFlags_threads_other (s : State) (w : Wx) (outs : List LaneOut) (label : Nat → Label) (u : Nat)
    (h : ∀ o ∈ outs, o.tid ≠ u) : tfind (mergeFlags s w outs label).threads u = tfind s.threads u := by
  unfold mergeFlags
  simp only
  rw [foldl_modGrp_rest]
  exact foldl_modThr_tfind_other outs LaneOut.tid (fun o => orFlags o.flags) s u h

/-! A thread and a group, from before to after. -/

/-- What the word does to the thread of a lane. -/
def threadAfter (s : State) (d : Opnd) (o : LaneOut) (fl : Bool) (x : Thread) : Thread :=
  let y := laneThread d s.bundle.pc o x
  let z := if fl then orFlags o.flags y else y
  match s.bundle.advs.sched with
  | none => z
  | some v => schedule v z

/-- What the word does to a group of the bundle, after the raise of its context label. -/
def groupAfter (i : Instr) (s : State) (d : Opnd) (first : Option LaneOut) (fl : Bool) (g : Nat) (x : Group) : Group :=
  let y := groupOut d first (setsLabel i s g) (outLabel i s g) x
  if fl then { y with lflags := y.lflags ||| outLabel i s g } else y

variable {d : Opnd} {mk : Nat → LaneOut} {fl : Bool}

theorem outsOf_tids (hm : ∀ u, (mk u).tid = u) (l : List Nat) : (outsOf mk l).map (·.tid) = l := by
  unfold outsOf
  rw [List.map_map]
  exact (List.map_congr_left fun u _ => hm u).trans (List.map_id _)

theorem written_rest (i : Instr) (s : State) (d : Opnd) (mk : Nat → LaneOut) (fl : Bool) :
    writtenState i s d mk fl = { s with threads := (writtenState i s d mk fl).threads, groups := (writtenState i s d mk fl).groups } := by
  unfold writtenState
  simp only
  split
  · rw [mergeFlags_rest, writeOuts_rest, entered_rest]
  · rw [writeOuts_rest, entered_rest]

theorem written_thread (h : clear i s = true) (hm : ∀ u, (mk u).tid = u) {u : Nat} (hu : u ∈ lanes i s) :
    tfind (writtenState i s d mk fl).threads u = (tfind s.threads u).map fun x =>
      if fl then orFlags (mk u).flags (laneThread d s.bundle.pc (mk u) x) else laneThread d s.bundle.pc (mk u) x := by
  have hn : ((outsOf mk (lanes i s)).map (·.tid)).Nodup := by
    rw [outsOf_tids hm]; exact lanes_nodup (clear_parts h).nodup
  have ho : mk u ∈ outsOf mk (lanes i s) := List.mem_map_of_mem hu
  have h1 := writeOuts_threads (entered i s) (wordAt i s) d (outsOf mk (lanes i s)) ((wordAt i s).label (entered i s)) hn _ ho
  rw [hm] at h1
  unfold writtenState
  cases fl with
  | false => simpa using h1
  | true =>
    simp only [if_true]
    have h2 := mergeFlags_threads (writeOuts (entered i s) (wordAt i s) d (outsOf mk (lanes i s)) ((wordAt i s).label (entered i s)))
      (wordAt i s) (outsOf mk (lanes i s)) ((wordAt i s).label (entered i s)) hn _ ho
    rw [hm] at h2
    rw [h2, h1, Option.map_map]
    simp only [entered_threads]
    rfl

theorem written_thread_other (hm : ∀ u, (mk u).tid = u) {u : Nat} (hu : u ∉ lanes i s) :
    tfind (writtenState i s d mk fl).threads u = tfind s.threads u := by
  have ho : ∀ o ∈ outsOf mk (lanes i s), o.tid ≠ u := by
    intro o ho
    obtain ⟨v, hv, rfl⟩ := List.mem_map.mp ho
    rw [hm]
    exact fun e => hu (e ▸ hv)
  unfold writtenState
  simp only
  split
  · rw [mergeFlags_threads_other _ _ _ _ _ ho, writeOuts_threads_other _ _ _ _ _ _ ho, entered_threads]
  · rw [writeOuts_threads_other _ _ _ _ _ _ ho, entered_threads]

theorem minOf_mem : ∀ {l : List Nat} {u : Nat}, minOf l = some u → u ∈ l
  | [], _, h => by simp [minOf] at h
  | x :: r, u, h => by
    unfold minOf at h
    cases hr : minOf r with
    | none => simp only [hr, Option.some.injEq] at h; simp [h]
    | some y =>
      simp only [hr, Option.some.injEq] at h
      have hy := minOf_mem hr
      split at h
      · simp [h]
      · exact List.mem_cons_of_mem _ (h ▸ hy)

/-- The lowest lane of a group is one of the lanes, of that group. -/
theorem lowestIn_spec {l : List Nat} {g u : Nat} (h : lowestIn l g = some u) : u ∈ l ∧ gidOf u = g := by
  simpa using List.mem_filter.mp (minOf_mem h)

theorem firstOut_outsOf (hm : ∀ u, (mk u).tid = u) (l : List Nat) (g : Nat) :
    firstOut (outsOf mk l) g = (lowestIn l g).map mk := by
  unfold firstOut
  rw [outsOf_tids hm]
  cases hlow : lowestIn l g with
  | none => rfl
  | some u =>
    have hfind : l.find? (fun v => v == u) = some u := by
      have hu : u ∈ l := (lowestIn_spec hlow).1
      cases hf : l.find? fun v => v == u with
      | none => simpa using List.find?_eq_none.mp hf u hu
      | some v =>
        have hv : (v == u) = true := List.find?_some (p := fun v => v == u) hf
        rw [beq_iff_eq.mp hv]
    simp only [Option.bind_some, outsOf, List.find?_map, Option.map_some]
    rw [show ((fun o : LaneOut => o.tid == u) ∘ mk) = fun v => v == u from funext fun v => by simp [hm], hfind]
    rfl

theorem written_group (h : clear i s = true) (hm : ∀ u, (mk u).tid = u) {g : Nat} (hg : g ∈ s.gids) :
    tfind (writtenState i s d mk fl).groups g = (tfind (entered i s).groups g).map
      (groupAfter i s d ((lowestIn (lanes i s) g).map mk) fl g) := by
  have hl : (wordAt i s).label (entered i s) g = outLabel i s g := entered_label i s g hg (clear_group h hg)
  have hw : wholeWrite (entered i s) ((outsOf mk (lanes i s)).map (·.tid)) g = setsLabel i s g := by
    rw [outsOf_tids hm]
    simp [wholeWrite, setsLabel]
  have h1 := writeOuts_groups (entered i s) (wordAt i s) d (outsOf mk (lanes i s)) ((wordAt i s).label (entered i s)) g
  rw [if_pos (show g ∈ groupsOf (wordAt i s).b.tids from hg), hl, hw, firstOut_outsOf hm] at h1
  unfold writtenState groupAfter
  cases fl with
  | false => simpa using h1
  | true =>
    simp only [if_true]
    rw [mergeFlags_groups, if_pos (show g ∈ groupsOf (wordAt i s).b.tids from hg), h1, hl, Option.map_map]
    rfl

theorem written_group_other (h : g ∉ s.gids) :
    tfind (writtenState i s d mk fl).groups g = tfind s.groups g := by
  have h' : g ∉ groupsOf (wordAt i s).b.tids := h
  unfold writtenState
  simp only
  split
  · rw [mergeFlags_groups, if_neg h', writeOuts_groups, if_neg h', entered_tfind_groups, if_neg fun e => h e.2]
  · rw [writeOuts_groups, if_neg h', entered_tfind_groups, if_neg fun e => h e.2]

/-! The advance over it. -/

theorem schedule_keeps (v : BitVec 4) (x : Thread) :
    schedule v x = { x with yielded := (schedule v x).yielded, hint := (schedule v x).hint } := rfl

theorem goOn_rest (i : Instr) (s t : State) (ht : t = { s with threads := t.threads, groups := t.groups }) :
    goOn i s t = { s with threads := (goOn i s t).threads, groups := t.groups, pipes := (goOn i s t).pipes } := by
  unfold goOn
  rw [advance_rest]
  rw [ht]

theorem goOn_groups (i : Instr) (s t : State) (g : Nat) : tfind (goOn i s t).groups g = tfind t.groups g := by
  unfold goOn
  rw [advance_rest]

theorem goOn_threads (h : clear i s = true) (t : State) (u : Nat) : tfind (goOn i s t).threads u =
    if u ∈ s.bundle.tids then (tfind t.threads u).map fun x =>
      { (match s.bundle.advs.sched with
          | none => x
          | some v => if u ∈ lanes i s then schedule v x else x) with
        passed := if anyPassed t (lanes i s) then false else x.passed }
    else tfind t.threads u :=
  advance_threads t (wordAt i s) (lanes i s) (clear_parts h).nodup (lanes_nodup (clear_parts h).nodup) (lanes_sub i s) u

theorem goOn_pipes (h : clear i s = true) (t : State) (ht : t.pipes = s.pipes) : (goOn i s t).pipes =
    tmod s.pipes s.turn fun b => { b with pc := b.pc + 4, pos := b.pos + 1, advs := {}, stalled := false } := by
  unfold goOn
  rw [advance_pipes, ht]
  have key : ∀ m : Table Bundle, tfind m s.turn = some s.bundle →
      tmod m s.turn (fun b => { b with pc := s.bundle.pc + 4, pos := s.bundle.pos + 1, advs := {}, stalled := false }) =
      tmod m s.turn (fun b => { b with pc := b.pc + 4, pos := b.pos + 1, advs := {}, stalled := false }) := by
    intro m
    induction m with
    | nil => intro e; cases e
    | cons e r ih =>
      obtain ⟨k, b⟩ := e
      intro hb
      simp only [tmod]
      simp only [tfind] at hb
      split
      · rename_i hk
        rw [if_pos hk] at hb
        cases hb
        rfl
      · rename_i hk
        rw [if_neg hk] at hb
        rw [ih hb]
  exact key s.pipes (clear_parts h).pipe

/-! The thread-level facts. -/

theorem laneThread_keeps (d : Opnd) (pc : DWord) (o : LaneOut) (x : Thread) : laneThread d pc o x =
    { x with regs := (laneThread d pc o x).regs, written := (laneThread d pc o x).written, preds := (laneThread d pc o x).preds
             dpc := (laneThread d pc o x).dpc } := by
  unfold laneThread notePoison
  split
  · rfl
  · have hw : ∀ c, writeOpnd x d c = { x with regs := (writeOpnd x d c).regs, written := (writeOpnd x d c).written, preds := (writeOpnd x d c).preds } := by
      intro c
      unfold writeOpnd
      split
      · split <;> rfl
      · rfl
      · rfl
      · rfl
      · unfold forEach
        rw [writeFields_rest]
    split
    · rw [hw]
    · rw [hw]

theorem notePoison_regs (p : Bool) (pc : DWord) (x : Thread) : (notePoison p pc x).regs = x.regs := by unfold notePoison; split <;> rfl
theorem notePoison_preds (p : Bool) (pc : DWord) (x : Thread) : (notePoison p pc x).preds = x.preds := by unfold notePoison; split <;> rfl
theorem notePoison_written (p : Bool) (pc : DWord) (x : Thread) : (notePoison p pc x).written = x.written := by unfold notePoison; split <;> rfl

theorem writeOpnd_fields (x : Thread) (d : Opnd) (hd : regDest d = true) (hp : ∀ k, d ≠ .p k) (c : List Cell) :
    writeOpnd x d c = ((fieldsOf d).zip c).foldl (fun t fc => writeField t fc.1 fc.2) x := by
  cases d <;> simp_all [writeOpnd, forEach, regDest]

theorem writeOpnd_pred (x : Thread) (k v : Nat) (p : Bool) :
    writeOpnd x (.p k) (cellsOf v p (opndWords (.p k))) =
      { x with preds := sset {} x.preds k { val := decide (w32 v ≠ 0), poison := p } } := rfl

theorem laneThread_value (hd : regDest d = true) (pc : DWord) (o : LaneOut) (x : Thread) (e : Nat × Word)
    (he : e ∈ (fieldsOf d).zip (wordsOf o.val (opndWords d))) (hf : e.1 < 116) :
    sget {} (laneThread d pc o x).regs e.1 = { val := e.2, poison := o.poison } := by
  have hp : ∀ k, d ≠ .p k := by
    rintro k rfl
    simp [fieldsOf] at he
  have hg : gDest d = none := by
    cases d with
    | r f =>
      simp only [fieldsOf, wordsOf, opndWords, List.zip_cons_cons, List.zip_nil_right,
        List.mem_singleton] at he
      subst he
      simp only [gDest]
      rw [if_neg (by simp only at hf; omega)]
    | g k => simp [regDest] at hd
    | _ => rfl
  unfold laneThread
  rw [hg]
  simp only [Option.isSome_none, Bool.false_eq_true, if_false]
  rw [notePoison_regs, writeOpnd_fields x d hd hp, cellsOf_eq, List.zip_map_right]
  have hmem : (e.1, ({ val := e.2, poison := o.poison } : Cell)) ∈
      ((fieldsOf d).zip (wordsOf o.val (opndWords d))).map (Prod.map id fun v => ({ val := v, poison := o.poison } : Cell)) :=
    List.mem_map.mpr ⟨e, he, rfl⟩
  refine writeFields_value _ ?_ x _ hmem hf
  rw [List.map_map]
  have : ((fun x : Nat × Cell => x.1) ∘ Prod.map id fun v => ({ val := v, poison := o.poison } : Cell)) = (fun x : Nat × Word => x.1) := rfl
  rw [this]
  rw [List.map_fst_zip]
  · exact nodup_fieldsOf d
  · simpa using opndWords_length d hd hp

theorem laneThread_regs_other (pc : DWord) (o : LaneOut) (x : Thread) (f : Nat) (hd : regDest d = true) (hf : f ∉ fieldsOf d) :
    sget {} (laneThread d pc o x).regs f = sget {} x.regs f := by
  unfold laneThread
  split
  · rfl
  · rw [notePoison_regs]
    by_cases hp : ∃ k, d = .p k
    · obtain ⟨k, rfl⟩ := hp
      rw [writeOpnd_pred]
    · rw [writeOpnd_fields x d hd fun k e => hp ⟨k, e⟩]
      refine writeFields_other _ _ _ fun e he h => hf ?_
      exact h ▸ (List.of_mem_zip (a := e.1) (b := e.2) he).1

theorem laneThread_preds (pc : DWord) (o : LaneOut) (x : Thread) (k : Nat) (hd : regDest d = true) :
    sget {} (laneThread d pc o x).preds k =
      if d = .p k then { val := decide (w32 o.val ≠ 0), poison := o.poison } else sget {} x.preds k := by
  unfold laneThread
  by_cases hp : ∃ j, d = .p j
  · obtain ⟨j, rfl⟩ := hp
    simp only [gDest, Option.isSome_none, Bool.false_eq_true, if_false, notePoison_preds, writeOpnd_pred, sget_sset, Opnd.p.injEq]
  · have hk : d ≠ .p k := fun e => hp ⟨k, e⟩
    rw [if_neg hk]
    split
    · rfl
    · rw [notePoison_preds, writeOpnd_fields x d hd fun k e => hp ⟨k, e⟩, writeFields_rest]

theorem laneThread_written (pc : DWord) (o : LaneOut) (x : Thread) (hd : regDest d = true) :
    (laneThread d pc o x).written = x.written ||| tempBits d := by
  have htb : tempBits d = bitsOf (fieldsOf d) 0 := rfl
  unfold laneThread
  by_cases hp : ∃ j, d = .p j
  · obtain ⟨j, rfl⟩ := hp
    simp [gDest, notePoison_written, writeOpnd_pred, tempBits, fieldsOf]
  · have hp' : ∀ k, d ≠ .p k := fun k e => hp ⟨k, e⟩
    split
    · rename_i hg
      cases d with
      | r f =>
        simp only [gDest] at hg
        split at hg
        · simp only [tempBits, fieldsOf, List.foldl_cons, List.foldl_nil]
          rw [if_neg (by omega)]
          simp
        · simp at hg
      | g k => simp [regDest] at hd
      | _ => simp [gDest] at hg
    · rw [notePoison_written, writeOpnd_fields x d hd hp', writeFields_written, List.map_fst_zip]
      · rw [htb]
        have := bitsOf_or (fieldsOf d) x.written 0
        simpa using this
      · simpa using opndWords_length d hd hp'

theorem laneThread_dpc (pc : DWord) (o : LaneOut) (x : Thread) :
    (laneThread d pc o x).dpc = if o.poison ∧ gDest d = none ∧ x.dpc = 0 then pc else x.dpc := by
  have hw : ∀ c, (writeOpnd x d c).dpc = x.dpc := by
    intro c
    unfold writeOpnd
    split
    · split <;> rfl
    · rfl
    · rfl
    · rfl
    · unfold forEach; rw [writeFields_rest]
  unfold laneThread
  cases hg : gDest d with
  | some k => simp
  | none =>
    simp only [Option.isSome_none, Bool.false_eq_true, if_false, notePoison, hw, true_and]
    cases hpz : o.poison with
    | true =>
      simp only [Bool.true_and, decide_eq_true_eq, true_and]
      by_cases h0 : x.dpc = 0
      · rw [if_pos h0, if_pos h0]
      · rw [if_neg h0, if_neg h0, hw]
    | false => simp [hw]

/-! The group-level facts. -/

theorem labelOpnd_g (set : Bool) (l : Label) (d : Opnd) (hd : regDest d = true) (x : Group) : labelOpnd set l d x =
    { x with lreg := (labelOpnd set l d x).lreg, lpred := (labelOpnd set l d x).lpred, lg := (labelOpnd set l d x).lg } := by
  have key : ∀ (fs : List Nat) (x : Group), forEach x fs (fun g f =>
      if f < 116 then { g with lreg := putLabel set g.lreg f l }
      else if f < 120 then g
      else { g with lg := putLabel set g.lg (f - 120) l }) =
      { x with lreg := (forEach x fs fun g f =>
      if f < 116 then { g with lreg := putLabel set g.lreg f l }
      else if f < 120 then g
      else { g with lg := putLabel set g.lg (f - 120) l }).lreg, lpred := (forEach x fs fun g f =>
      if f < 116 then { g with lreg := putLabel set g.lreg f l }
      else if f < 120 then g
      else { g with lg := putLabel set g.lg (f - 120) l }).lpred, lg := (forEach x fs fun g f =>
      if f < 116 then { g with lreg := putLabel set g.lreg f l }
      else if f < 120 then g
      else { g with lg := putLabel set g.lg (f - 120) l }).lg } := by
    intro fs
    unfold forEach
    induction fs with
    | nil => intro x; rfl
    | cons f fs ih =>
      intro x
      rw [List.foldl_cons, ih]
      split
      · rfl
      · split <;> rfl
  cases d <;> simp only [labelOpnd, regDest, Bool.false_eq_true] at hd ⊢
  all_goals first | exact key _ x | rfl

/-- A label after a write that sets or raises it. -/
def setOrRaise (set : Bool) (l old : Label) : Label := if set then l else old ||| l

theorem sget_putLabel (set : Bool) (m : Table Label) (k j : Nat) (l : Label) :
    sget 0 (putLabel set m k l) j = if k = j then setOrRaise set l (sget 0 m j) else sget 0 m j := by
  unfold putLabel
  rw [sget_sset]
  split
  · rename_i h; subst h; rfl
  · rfl

theorem setOrRaise_twice (set : Bool) (l old : Label) : setOrRaise set l (setOrRaise set l old) = setOrRaise set l old := by
  unfold setOrRaise
  cases set
  · simp only [Bool.false_eq_true, if_false]; rw [BitVec.or_assoc, BitVec.or_self]
  · rfl

theorem labelFold_lreg (set : Bool) (l : Label) (fs : List Nat) (x : Group) (k : Nat) :
    sget 0 (forEach x fs fun g f =>
      if f < 116 then { g with lreg := putLabel set g.lreg f l }
      else if f < 120 then g
      else { g with lg := putLabel set g.lg (f - 120) l }).lreg k =
    if k ∈ fs ∧ k < 116 then setOrRaise set l (sget 0 x.lreg k) else sget 0 x.lreg k := by
  unfold forEach
  induction fs generalizing x with
  | nil => simp
  | cons f fs ih =>
    rw [List.foldl_cons, ih]
    by_cases hf : f < 116
    · simp only [hf, if_true, sget_putLabel, List.mem_cons]
      by_cases hk : f = k
      · subst hk
        simp only [true_or, if_true, hf, and_true]
        split
        · rw [setOrRaise_twice]
        · rfl
      · simp only [hk, if_false, Ne.symm hk, false_or]
    · have hk : ∀ h : k < 116, k ≠ f := fun h e => hf (e ▸ h)
      simp only [hf, if_false, List.mem_cons]
      have hl : (if f < 120 then x else { x with lg := putLabel set x.lg (f - 120) l }).lreg = x.lreg := by split <;> rfl
      rw [hl]
      by_cases h116 : k < 116
      · simp [hk h116]
      · simp [h116]

theorem labelFold_lg (set : Bool) (l : Label) (fs : List Nat) (x : Group) (k : Nat) :
    sget 0 (forEach x fs fun g f =>
      if f < 116 then { g with lreg := putLabel set g.lreg f l }
      else if f < 120 then g
      else { g with lg := putLabel set g.lg (f - 120) l }).lg k =
    if k + 120 ∈ fs then setOrRaise set l (sget 0 x.lg k) else sget 0 x.lg k := by
  unfold forEach
  induction fs generalizing x with
  | nil => simp
  | cons f fs ih =>
    rw [List.foldl_cons, ih]
    by_cases hf : f < 120
    · have hl : (if f < 116 then { x with lreg := putLabel set x.lreg f l } else if f < 120 then x
          else { x with lg := putLabel set x.lg (f - 120) l }).lg = x.lg := by
        split
        · rfl
        · rfl
      rw [hl]
      have : k + 120 ≠ f := by omega
      simp [this]
    · have h116 : ¬ f < 116 := by omega
      simp only [h116, hf, if_false, sget_putLabel, List.mem_cons]
      by_cases hk : f - 120 = k
      · have : k + 120 = f := by omega
        simp only [hk, if_true, this, true_or]
        split
        · rw [setOrRaise_twice]
        · rfl
      · have : k + 120 ≠ f := by omega
        simp [hk, this]

theorem labelOpnd_lreg (set : Bool) (l : Label) (d : Opnd) (hd : regDest d = true) (x : Group) (k : Nat) :
    sget 0 (labelOpnd set l d x).lreg k =
      if k ∈ fieldsOf d ∧ k < 116 then setOrRaise set l (sget 0 x.lreg k) else sget 0 x.lreg k := by
  cases d <;> simp only [labelOpnd, regDest, Bool.false_eq_true] at hd ⊢
  all_goals first | exact labelFold_lreg .. | simp [fieldsOf]

/-- A group register named by a field is a destination of one field. -/
theorem gDest_field (d : Opnd) (hd : regDest d = true) (hok : dstOk d = true) (k : Nat) : k + 120 ∈ fieldsOf d ↔ gDest d = some k := by
  cases d with
  | r f =>
    simp only [fieldsOf, List.mem_singleton, gDest]
    constructor
    · intro h
      rw [if_pos (by omega)]
      simp only [Option.some.injEq]; omega
    · intro h
      split at h
      · simp only [Option.some.injEq] at h; omega
      · cases h
  | pair f =>
    have : f.toNat ≤ 116 := by
      simp only [dstOk, pairOk, decide_eq_true_eq] at hok
      omega
    simp only [fieldsOf, gDest]
    split <;> simp <;> omega
  | quad f =>
    have : f.toNat ≤ 92 := by
      simp only [dstOk, quadOk, decide_eq_true_eq] at hok
      omega
    simp only [fieldsOf, gDest, List.mem_map, reduceCtorEq, iff_false, not_exists, not_and]
    intro a ha
    simp only [upto, List.mem_range] at ha
    omega
  | oct f =>
    have : f.toNat ≤ 88 := by
      simp only [dstOk, octOk, decide_eq_true_eq] at hok
      omega
    simp only [fieldsOf, gDest, List.mem_map, reduceCtorEq, iff_false, not_exists, not_and]
    intro a ha
    simp only [upto, List.mem_range] at ha
    omega
  | p k => simp [fieldsOf, gDest]
  | _ => simp [regDest] at hd

theorem labelOpnd_lg (set : Bool) (l : Label) (d : Opnd) (hd : regDest d = true) (hok : dstOk d = true) (x : Group) (k : Nat) :
    sget 0 (labelOpnd set l d x).lg k = if gDest d = some k then setOrRaise set l (sget 0 x.lg k) else sget 0 x.lg k := by
  have hi := gDest_field d hd hok k
  cases d with
  | p j => simp [labelOpnd, gDest]
  | r f => simp only [labelOpnd]; rw [labelFold_lg]; simp only [hi]
  | pair f => simp only [labelOpnd]; rw [labelFold_lg]; simp only [hi]
  | quad f => simp only [labelOpnd]; rw [labelFold_lg]; simp only [hi]
  | oct f => simp only [labelOpnd]; rw [labelFold_lg]; simp only [hi]
  | _ => simp [regDest] at hd

theorem labelOpnd_lpred (set : Bool) (l : Label) (d : Opnd) (hd : regDest d = true) (x : Group) (k : Nat) :
    sget 0 (labelOpnd set l d x).lpred k = if d = .p k then setOrRaise set l (sget 0 x.lpred k) else sget 0 x.lpred k := by
  have hfold : ∀ (fs : List Nat) (x : Group), (forEach x fs fun g f =>
      if f < 116 then { g with lreg := putLabel set g.lreg f l }
      else if f < 120 then g
      else { g with lg := putLabel set g.lg (f - 120) l }).lpred = x.lpred := by
    intro fs
    unfold forEach
    induction fs with
    | nil => intro x; rfl
    | cons f fs ih =>
      intro x
      rw [List.foldl_cons, ih]
      split
      · rfl
      · split <;> rfl
  cases d with
  | p j => simp only [labelOpnd, sget_putLabel, Opnd.p.injEq]
  | r f => simp only [labelOpnd]; rw [hfold]; simp
  | pair f => simp only [labelOpnd]; rw [hfold]; simp
  | quad f => simp only [labelOpnd]; rw [hfold]; simp
  | oct f => simp only [labelOpnd]; rw [hfold]; simp
  | _ => simp [regDest] at hd

/-! Assembly. -/

/-- A lane's thread after the word. -/
theorem after_lane (h : clear i s = true) (hm : ∀ u, (mk u).tid = u) {u : Nat} (hu : u ∈ lanes i s) :
    (goOn i s (writtenState i s d mk fl)).thr u =
      { threadAfter s d (mk u) fl (s.thr u) with
        passed := if anyPassed (writtenState i s d mk fl) (lanes i s) then false else (s.thr u).passed } := by
  obtain ⟨x, hx⟩ := Option.isSome_iff_exists.mp (clear_thread h (lanes_sub i s u hu))
  have hkeep := laneThread_keeps d s.bundle.pc (mk u) x
  simp only [State.thr, goOn_threads h, lanes_sub i s u hu, if_true, written_thread h hm hu, hx, Option.map_some, Option.getD_some, hu]
  unfold threadAfter
  have hp : (laneThread d s.bundle.pc (mk u) x).passed = x.passed := by rw [hkeep]
  cases s.bundle.advs.sched <;> cases fl <;> simp [orFlags, schedule, hp]

/-- The thread of a bundle's other lane after the word. -/
theorem after_off (h : clear i s = true) (hm : ∀ u, (mk u).tid = u) {u : Nat} (hu : u ∉ lanes i s) :
    (goOn i s (writtenState i s d mk fl)).thr u =
      { s.thr u with passed := ((goOn i s (writtenState i s d mk fl)).thr u).passed } := by
  simp only [State.thr, goOn_threads h, written_thread_other hm hu]
  split
  · cases tfind s.threads u with
    | none => rfl
    | some x => simp only [Option.map_some, Option.getD_some]; cases s.bundle.advs.sched <;> simp
  · rfl

theorem after_group (h : clear i s = true) (hm : ∀ u, (mk u).tid = u) {g : Nat} (hg : g ∈ s.gids) :
    (goOn i s (writtenState i s d mk fl)).grp g =
      groupAfter i s d ((lowestIn (lanes i s) g).map mk) fl g ((entered i s).grp g) := by
  have hp : (tfind (entered i s).groups g).isSome = true := by
    rw [entered_tfind_groups]
    split
    · simpa using clear_group h hg
    · exact clear_group h hg
  obtain ⟨x, hx⟩ := Option.isSome_iff_exists.mp hp
  simp only [State.grp, goOn_groups, written_group h hm hg, hx, Option.map_some, Option.getD_some]

theorem groupOut_keeps (first : Option LaneOut) (set : Bool) (l : Label) (hd : regDest d = true) (x : Group) :
    groupOut d first set l x = { x with
      g := (groupOut d first set l x).g, lreg := (groupOut d first set l x).lreg
      lpred := (groupOut d first set l x).lpred, lg := (groupOut d first set l x).lg } := by
  unfold groupOut groupBefore
  rw [labelOpnd_g _ _ _ hd]
  cases gDest d with
  | none => rfl
  | some k => cases first <;> rfl

/-- The group registers after the results. -/
theorem groupOut_g (first : Option LaneOut) (set : Bool) (l : Label) (hd : regDest d = true) (x : Group) :
    (groupOut d first set l x).g = match gDest d, first with
      | some k, some o => sset {} x.g k { val := d64 (o.val % 2 ^ 32), plo := o.poison }
      | _, _ => x.g := by
  unfold groupOut groupBefore
  rw [labelOpnd_g _ _ _ hd]
  cases gDest d with
  | none => rfl
  | some k => cases first <;> rfl

/-- The state before the labels keeps the labels. -/
theorem groupBefore_labels (first : Option LaneOut) (x : Group) :
    (groupBefore d first x).lreg = x.lreg ∧ (groupBefore d first x).lpred = x.lpred ∧ (groupBefore d first x).lg = x.lg := by
  unfold groupBefore
  cases gDest d with
  | none => exact ⟨rfl, rfl, rfl⟩
  | some k => cases first <;> exact ⟨rfl, rfl, rfl⟩

theorem groupOut_lreg (first : Option LaneOut) (set : Bool) (l : Label) (hd : regDest d = true) (x : Group) (k : Nat) :
    sget 0 (groupOut d first set l x).lreg k =
      if k ∈ fieldsOf d ∧ k < 116 then setOrRaise set l (sget 0 x.lreg k) else sget 0 x.lreg k := by
  unfold groupOut
  rw [labelOpnd_lreg _ _ _ hd, (groupBefore_labels first x).1]

theorem groupOut_lg (first : Option LaneOut) (set : Bool) (l : Label) (hd : regDest d = true) (hok : dstOk d = true) (x : Group) (k : Nat) :
    sget 0 (groupOut d first set l x).lg k = if gDest d = some k then setOrRaise set l (sget 0 x.lg k) else sget 0 x.lg k := by
  unfold groupOut
  rw [labelOpnd_lg _ _ _ hd hok, (groupBefore_labels first x).2.2]

theorem groupOut_lpred (first : Option LaneOut) (set : Bool) (l : Label) (hd : regDest d = true) (x : Group) (k : Nat) :
    sget 0 (groupOut d first set l x).lpred k = if d = .p k then setOrRaise set l (sget 0 x.lpred k) else sget 0 x.lpred k := by
  unfold groupOut
  rw [labelOpnd_lpred _ _ _ hd, (groupBefore_labels first x).2.1]

theorem threadAfter_keeps (s : State) (o : LaneOut) (x : Thread) : threadAfter s d o fl x = { x with
    regs := (threadAfter s d o fl x).regs, written := (threadAfter s d o fl x).written, preds := (threadAfter s d o fl x).preds
    fpflags := (threadAfter s d o fl x).fpflags, dpc := (threadAfter s d o fl x).dpc, hint := (threadAfter s d o fl x).hint
    yielded := (threadAfter s d o fl x).yielded } := by
  unfold threadAfter
  rw [laneThread_keeps]
  cases s.bundle.advs.sched <;> cases fl <;> rfl

theorem threadAfter_lane (s : State) (o : LaneOut) (x : Thread) :
    (threadAfter s d o fl x).regs = (laneThread d s.bundle.pc o x).regs ∧
    (threadAfter s d o fl x).preds = (laneThread d s.bundle.pc o x).preds ∧
    (threadAfter s d o fl x).written = (laneThread d s.bundle.pc o x).written ∧
    (threadAfter s d o fl x).dpc = (laneThread d s.bundle.pc o x).dpc := by
  unfold threadAfter
  cases s.bundle.advs.sched <;> cases fl <;> exact ⟨rfl, rfl, rfl, rfl⟩

/-- The raise of the flags' label changes no other field of the group. -/
theorem groupAfter_fields (i : Instr) (s : State) (d : Opnd) (first : Option LaneOut) (fl : Bool) (g : Nat) (x : Group) :
    (groupAfter i s d first fl g x).g = (groupOut d first (setsLabel i s g) (outLabel i s g) x).g ∧
    (groupAfter i s d first fl g x).lreg = (groupOut d first (setsLabel i s g) (outLabel i s g) x).lreg ∧
    (groupAfter i s d first fl g x).lpred = (groupOut d first (setsLabel i s g) (outLabel i s g) x).lpred ∧
    (groupAfter i s d first fl g x).lg = (groupOut d first (setsLabel i s g) (outLabel i s g) x).lg := by
  unfold groupAfter
  cases fl <;> exact ⟨rfl, rfl, rfl, rfl⟩

/-- A word that writes one result per lane leaves exactly what `Wrote` says. -/
theorem written_wrote (h : clear i s = true) (hm : ∀ u, (mk u).tid = u) (hd : regDest d = true) (hok : dstOk d = true) :
    Wrote i s (goOn i s (writtenState i s d mk fl)) d (fun u => wordsOf (mk u).val (opndWords d)) (fun u => (mk u).poison)
      (if fl then some fun u => (mk u).flags else none) := by
  have hw := written_rest i s d mk fl
  have hlane : ∀ u ∈ lanes i s, (goOn i s (writtenState i s d mk fl)).thr u =
      { threadAfter s d (mk u) fl (s.thr u) with
        passed := if anyPassed (writtenState i s d mk fl) (lanes i s) then false else (s.thr u).passed } := fun u hu => after_lane h hm hu
  have hgrp : ∀ g ∈ s.gids, (goOn i s (writtenState i s d mk fl)).grp g =
      groupAfter i s d ((lowestIn (lanes i s) g).map mk) fl g ((entered i s).grp g) := fun g hg => after_group h hm hg
  have hgrp' : ∀ g, g ∉ s.gids → tfind (goOn i s (writtenState i s d mk fl)).groups g = tfind s.groups g := fun g hg => by
    rw [goOn_groups, written_group_other hg]
  have hgrp'' : ∀ g, g ∉ s.gids → (goOn i s (writtenState i s d mk fl)).grp g = s.grp g := fun g hg => by
    simp only [State.grp, hgrp' g hg]
  refine { rest := ?_, pipes := ?_, otherThreads := ?_, otherGroups := hgrp', offLanes := fun u hu => after_off h hm hu, thread := ?_
           group := ?_, context := ?_, sched := ?_, value := ?_, regs := ?_, temps := ?_, predicate := ?_, preds := ?_
           groupReg := ?_, groupRegs := ?_, label := ?_, labels := ?_, predLabel := ?_, predLabels := ?_, groupLabel := ?_
           groupLabels := ?_, flags := ?_, flagsLabel := ?_, firstPoison := ?_ }
  · have := goOn_rest i s _ hw
    rw [this]
  · refine goOn_pipes h _ ?_
    rw [hw]
  · intro u hu
    rw [goOn_threads h, if_neg hu, written_thread_other hm fun e => hu (lanes_sub i s u e)]
  · intro u
    by_cases hu : u ∈ lanes i s
    · rw [hlane u hu, threadAfter_keeps]
    · rw [after_off h hm hu]
  · intro g
    by_cases hg : g ∈ s.gids
    · rw [hgrp g hg]
      unfold groupAfter
      rw [groupOut_keeps _ _ _ hd, entered_grp_eq]
      cases fl <;> rfl
    · rw [hgrp'' g hg]
  · intro g hg
    rw [hgrp g hg, ← entered_ctx i s g hg (clear_group h hg)]
    unfold groupAfter
    rw [groupOut_keeps _ _ _ hd]
    cases fl <;> rfl
  · intro u hu
    rw [hlane u hu]
    unfold threadAfter
    rw [laneThread_keeps]
    cases s.bundle.advs.sched <;> cases fl <;> exact ⟨rfl, rfl⟩
  · intro u hu e he hf
    rw [hlane u hu]
    simp only
    rw [(threadAfter_lane s (mk u) (s.thr u)).1]
    exact laneThread_value hd _ _ _ e he hf
  · intro u f hf
    by_cases hu : u ∈ lanes i s
    · have hff : f ∉ fieldsOf d := hf.resolve_left fun e => e hu
      rw [hlane u hu]
      simp only
      rw [(threadAfter_lane s (mk u) (s.thr u)).1]
      exact laneThread_regs_other _ _ _ f hd hff
    · rw [after_off h hm hu]
  · intro u hu
    rw [hlane u hu]
    simp only
    rw [(threadAfter_lane s (mk u) (s.thr u)).2.2.1]
    exact laneThread_written _ _ _ hd
  · intro k hk u hu
    rw [hlane u hu]
    simp only
    rw [(threadAfter_lane s (mk u) (s.thr u)).2.1, laneThread_preds _ _ _ _ hd, if_pos hk]
    subst hk
    rfl
  · intro u k hk
    by_cases hu : u ∈ lanes i s
    · rw [hlane u hu]
      simp only
      rw [(threadAfter_lane s (mk u) (s.thr u)).2.1, laneThread_preds _ _ _ _ hd, if_neg (hk.resolve_left fun e => e hu)]
    · rw [after_off h hm hu]
  · intro k hk g hg
    rw [hgrp g hg]
    rw [(groupAfter_fields ..).1]
    rw [groupOut_g _ _ _ hd, hk, entered_g]
    cases hfind : lowestIn (lanes i s) g with
    | none => rfl
    | some u =>
      simp only [Option.map_some, sget_sset_self, GCell.mk.injEq, and_true]
      have h1 : opndWords d = 1 := by
        cases d with
        | r f => rfl
        | g k => simp [regDest] at hd
        | _ => simp [gDest] at hk
      rw [h1]
      simp only [wordsOf_one, List.headD_cons]
      apply BitVec.eq_of_toNat_eq
      simp only [BitVec.toNat_ofNat, BitVec.truncate_eq_setWidth, BitVec.toNat_setWidth]
  · intro k g hk
    by_cases hg : g ∈ s.gids
    · rw [hgrp g hg]
      rw [(groupAfter_fields ..).1, groupOut_g _ _ _ hd, entered_g]
      cases hgd : gDest d with
      | none => rfl
      | some j =>
        cases Option.map mk (lowestIn (lanes i s) g) with
        | none => rfl
        | some o =>
          simp only
          exact sget_sset_other _ _ _ fun e => hk (by rw [hgd, e])
    · rw [hgrp'' g hg]
  · intro g hg f hf h116
    rw [hgrp g hg]
    rw [(groupAfter_fields ..).2.1]
    rw [groupOut_lreg _ _ _ hd, if_pos ⟨hf, h116⟩, entered_lreg]
    rfl
  · intro g f hf
    by_cases hg : g ∈ s.gids
    · rw [hgrp g hg]
      rw [(groupAfter_fields ..).2.1]
      rw [groupOut_lreg _ _ _ hd, if_neg fun e => (hf.resolve_left fun e' => e' hg) e.1, entered_lreg]
    · rw [hgrp'' g hg]
  · intro k hk g hg
    rw [hgrp g hg]
    rw [(groupAfter_fields ..).2.2.1]
    rw [groupOut_lpred _ _ _ hd, if_pos hk, entered_lpred]
    rfl
  · intro k g hk
    by_cases hg : g ∈ s.gids
    · rw [hgrp g hg]
      rw [(groupAfter_fields ..).2.2.1]
      rw [groupOut_lpred _ _ _ hd, if_neg hk, entered_lpred]
    · rw [hgrp'' g hg]
  · intro k hk g hg
    rw [hgrp g hg]
    rw [(groupAfter_fields ..).2.2.2]
    rw [groupOut_lg _ _ _ hd hok, if_pos hk, entered_lg]
    rfl
  · intro k g hk
    by_cases hg : g ∈ s.gids
    · rw [hgrp g hg]
      rw [(groupAfter_fields ..).2.2.2]
      rw [groupOut_lg _ _ _ hd hok, if_neg hk, entered_lg]
    · rw [hgrp'' g hg]
  · intro u hu
    rw [hlane u hu]
    unfold threadAfter
    rw [laneThread_keeps]
    cases s.bundle.advs.sched <;> cases fl <;> rfl
  · intro g hg
    rw [hgrp g hg]
    unfold groupAfter
    cases fl with
    | false =>
      simp only [Bool.false_eq_true, if_false]
      rw [groupOut_keeps _ _ _ hd, entered_lflags]
      rfl
    | true =>
      simp only [if_true]
      rw [groupOut_keeps _ _ _ hd, entered_lflags]
      rfl
  · intro u hu
    rw [hlane u hu]
    simp only
    rw [(threadAfter_lane s (mk u) (s.thr u)).2.2.2]
    exact laneThread_dpc _ _ _

end Sys2Proof.Machine
end

