-- ==== Sys2Proof/Laws/Alu.lean ====
section
/-! SUPPORT. Computing words: what the lanes read as numbers, and that a clear integer or floating-point word `Computes` its
function. -/

namespace Sys2Proof.Machine

variable {i : Instr} {s : State} {d : Opnd}

/-- A clear word is legal. -/
theorem clear_legal (h : clear i s = true) : legal i = true := by
  have hc := (clear_parts h).check
  unfold wordCheck at hc
  simp only at hc
  split at hc
  · cases hc
  · rename_i hn
    simp only [mkWx, Bool.or_eq_true, Bool.not_eq_true', not_or, Bool.not_eq_false] at hn
    exact hn.1.1.1

/-- A destination of a clear word is encoded as R10 and R11 say. -/
theorem clear_dstOk (h : clear i s = true) (hd : d ∈ (shape i).dsts) : dstOk d = true := by
  have hl := clear_legal h
  unfold legal at hl
  simp only [Bool.and_eq_true, List.all_eq_true] at hl
  grind

/-! Sources as numbers. -/

@[simp] theorem wordsVal_one (c : Cell) : wordsVal [c] = c.val.toNat := by simp [wordsVal]

@[simp] theorem wordsVal_r (s : State) (u : Nat) (f : BitVec 7) : wordsVal (readOpnd s u (.r f)) = (rv s u f).toNat := by
  simp [readOpnd, rv]

@[simp] theorem wordsVal_pair (s : State) (u : Nat) (f : BitVec 7) : wordsVal (readOpnd s u (.pair f)) = (pv s u f).toNat := by
  unfold pv
  simp only [readOpnd]
  split
  · rfl
  · simp only [wordsVal]
    have h1 := (readReg s u f.toNat).val.isLt
    rw [BitVec.toNat_append, Nat.shiftLeft_eq, Nat.mul_zero, Nat.add_zero, Nat.mul_comm (readReg s u (f.toNat + 1)).val.toNat,
      ← Nat.two_pow_add_eq_or_of_lt h1]
    omega

/-- The words of the sources as numbers. -/
theorem values_fst (w : Wx) (s : State) (u : Nat) : (w.values s u).1 = w.srcs.map fun o => wordsVal (readOpnd s u o) := by
  simp [Wx.values]

theorem values_snd (i : Instr) (s : State) (u : Nat) : ((wordAt i s).values s u).2 = srcPoison i s u := by
  simp [Wx.values, srcPoison, Function.comp_def]

@[simp] theorem arg_zero (x : Nat) (l : List Nat) : arg (x :: l) 0 = x := rfl
@[simp] theorem arg_succ (x : Nat) (l : List Nat) (n : Nat) : arg (x :: l) (n + 1) = arg l n := by simp [arg]
@[simp] theorem arg_one (x y : Nat) (l : List Nat) : arg (x :: y :: l) 1 = y := rfl
@[simp] theorem arg_two (x y z : Nat) (l : List Nat) : arg (x :: y :: z :: l) 2 = z := rfl

theorem entered_outs (i : Instr) (s : State) (f : List Nat → Nat × BitVec 5) :
    (wordAt i s).outs (entered i s) f = outsOf (fun u =>
      { tid := u, val := (f ((wordAt i s).values s u).1).1, poison := srcPoison i s u
        flags := if srcPoison i s u then 0 else (f ((wordAt i s).values s u).1).2 }) (lanes i s) := by
  simp only [Wx.outs, outsOf, entered_act, entered_values, values_snd]
  rfl

/-- A clear word that computes a function of its sources. -/
theorem aluEff_computes {f : List Nat → Nat} (h : clear i s = true) (he : exec i s = runWord i s (aluEff f))
    (hd : (shape i).dsts = [d]) (hr : regDest d = true) :
    Computes i s d fun u => wordsOf (f ((wordAt i s).values s u).1) (opndWords d) := by
  have hdst : (wordAt i s).sh.dsts.headD (.r 116#7) = d := by rw [wordAt_sh, hd]; rfl
  refine ⟨goOn i s (writtenState i s d (fun u =>
      { tid := u, val := f ((wordAt i s).values s u).1, poison := srcPoison i s u, flags := if srcPoison i s u then 0 else 0 }) false), ?_, ?_⟩
  · rw [he]
    refine runWord_done h ?_
    unfold aluEff
    rw [hdst, entered_outs]
    rfl
  · exact written_wrote h (fun _ => rfl) hr (clear_dstOk h (by rw [hd]; exact List.mem_singleton.mpr rfl))

/-- A clear floating-point word of which no lane raises a flag that it enables. -/
theorem fpEff_computes {f : List Nat → Nat × BitVec 5} (h : clear i s = true) (he : exec i s = runWord i s (fpEff f))
    (hd : (shape i).dsts = [d]) (hr : regDest d = true)
    (hq : ∀ u ∈ lanes i s, srcPoison i s u = false → (f ((wordAt i s).values s u).1).2 &&& (s.thr u).fpctl = 0) :
    ComputesF i s d fun u => (wordsOf (f ((wordAt i s).values s u).1).1 (opndWords d), (f ((wordAt i s).values s u).1).2) := by
  have hdst : (wordAt i s).sh.dsts.headD (.r 116#7) = d := by rw [wordAt_sh, hd]; rfl
  refine ⟨goOn i s (writtenState i s d (fun u =>
      { tid := u, val := (f ((wordAt i s).values s u).1).1, poison := srcPoison i s u
        flags := if srcPoison i s u then 0 else (f ((wordAt i s).values s u).1).2 }) true), ?_, ?_⟩
  · rw [he]
    refine runWord_done h ?_
    have hnone : fpFails (entered i s) ((wordAt i s).outs (entered i s) f) = [] := by
      rw [entered_outs]
      unfold fpFails
      rw [List.map_eq_nil_iff, List.filter_eq_nil_iff]
      intro o ho
      obtain ⟨u, hu, rfl⟩ := List.mem_map.mp ho
      simp only [entered_thr, ne_eq, decide_eq_true_eq, Decidable.not_not]
      cases hp : srcPoison i s u with
      | true => simp
      | false => simpa [hp] using hq u hu hp
    unfold fpEff
    simp only [hnone]
    rw [hdst, entered_outs]
    rfl
  · exact written_wrote h (fun _ => rfl) hr (clear_dstOk h (by rw [hd]; exact List.mem_singleton.mpr rfl))

/-! The same, by the width of the destination: what is left to show is the equation of the values. -/

theorem w32_eq (n : Nat) (x : Word) (h : n % 2 ^ 32 = x.toNat) : w32 n = x := by
  apply BitVec.eq_of_toNat_eq
  simpa using h

/-- A clear word with a 32-bit result. -/
theorem computes_r {f : List Nat → Nat} {r : BitVec 7} {v : Nat → Word} (h : clear i s = true)
    (he : exec i s = runWord i s (aluEff f)) (hd : (shape i).dsts = [.r r])
    (hv : ∀ u, w32 (f ((wordAt i s).values s u).1) = v u) : Computes i s (.r r) fun u => [v u] := by
  have := aluEff_computes h he hd rfl
  simpa [opndWords, hv] using this

/-- A clear word with a 64-bit result. -/
theorem computes_pair {f : List Nat → Nat} {r : BitVec 7} {v : Nat → DWord} (h : clear i s = true)
    (he : exec i s = runWord i s (aluEff f)) (hd : (shape i).dsts = [.pair r])
    (hv : ∀ u, f ((wordAt i s).values s u).1 % 2 ^ 64 = (v u).toNat) : Computes i s (.pair r) fun u => halves (v u) := by
  have := aluEff_computes h he hd rfl
  have e : (fun u => wordsOf (f ((wordAt i s).values s u).1) 2) = fun u => halves (v u) := funext fun u => wordsOf_two _ _ (hv u)
  simpa [opndWords, e] using this

/-- A clear word with a predicate result. -/
theorem computes_p {f : List Nat → Nat} {p : Nat} {v : Nat → Word} (h : clear i s = true)
    (he : exec i s = runWord i s (aluEff f)) (hd : (shape i).dsts = [.p p])
    (hv : ∀ u, w32 (f ((wordAt i s).values s u).1) = v u) : Computes i s (.p p) fun u => [v u] := by
  have := aluEff_computes h he hd rfl
  simpa [opndWords, hv] using this

/-- A word whose effect reads its adverbs: at its own bundle they are the bundle's. -/
theorem runWord_advs (i : Instr) (s : State) (e : Advs → State → Wx → Eff) :
    runWord i s (fun s w => e w.b.advs s w) = runWord i s (e s.bundle.advs) := by
  unfold runWord
  cases hp : tfind s.pipes s.turn with
  | none => rfl
  | some b =>
    have hb : s.bundle = b := by simp [State.bundle, hp]
    rw [hb]
    rfl

end Sys2Proof.Machine
end

