-- ==== Sys2Proof/Laws/Memory.lean ====
section
/-! SUPPORT. The byte stores keep their canonical form: under a write, a write of a launch, the clearing of a page, the restoring of
one. -/

namespace Sys2Proof.Machine

@[simp] theorem memory_wf_nil : Memory.wf [] = true := rfl

theorem memory_wf_writeBytes {m : Table Byte} (a : Nat) (bs : List Byte) (h : Memory.wf m = true) : Memory.wf (writeBytes m a bs) = true :=
  canonical_writeBytes bs m a h

theorem memory_wf_sset {m : Table Byte} (a : Nat) (b : Byte) (h : Memory.wf m = true) : Memory.wf (sset 0#8 m a b) = true :=
  canonical_sset 0#8 m a b h

theorem memory_wf_filter {m : Table Byte} (p : Nat × Byte → Bool) (h : Memory.wf m = true) : Memory.wf (m.filter p) = true := by
  simp only [Memory.wf, canonical, Bool.and_eq_true] at *
  exact ⟨risingFrom_filter _ _ _ h.1, noDefault_filter _ _ _ h.2⟩

theorem memory_wf_foldl (l : List (Nat × Byte)) {m : Table Byte} (h : Memory.wf m = true) :
    Memory.wf (l.foldl (fun m c => sset 0#8 m c.1 c.2) m) = true := by
  induction l generalizing m with
  | nil => exact h
  | cons c r ih => exact ih (memory_wf_sset _ _ h)

theorem memoryWf_iff (s : State) : memoryWf s = true ↔ Memory.wf s.mem = true ∧ Memory.wf s.hostMem = true ∧ Memory.wf s.foreignMem = true := by
  simp [memoryWf, and_assoc]

/-- What keeps the three stores keeps the form. -/
theorem memoryWf_congr {s t : State} (h : memoryWf s = true) (hm : t.mem = s.mem) (hh : t.hostMem = s.hostMem)
    (hf : t.foreignMem = s.foreignMem) : memoryWf t = true := by
  rw [memoryWf_iff] at *; rw [hm, hh, hf]; exact h

theorem memory_wf_store {s : State} (h : memoryWf s = true) (sp : Space) : Memory.wf (s.store sp) = true := by
  rw [memoryWf_iff] at h
  cases sp
  · exact h.1
  · exact h.2.1
  · exact h.2.2

theorem memoryWf_setStore {s : State} (sp : Space) {m : Table Byte} (h : memoryWf s = true) (hm : Memory.wf m = true) :
    memoryWf (s.setStore sp m) = true := by
  rw [memoryWf_iff] at *
  cases sp
  · exact ⟨hm, h.2⟩
  · exact ⟨h.1, hm, h.2.2⟩
  · exact ⟨h.1, h.2.1, hm⟩

theorem clearMarks_stores (s : State) (ia n : Nat) :
    (clearMarks s ia n).mem = s.mem ∧ (clearMarks s ia n).hostMem = s.hostMem ∧ (clearMarks s ia n).foreignMem = s.foreignMem :=
  ⟨rfl, rfl, rfl⟩

/-- A write of a launch keeps the form (R428). -/
theorem memoryWf_memWrite {s : State} (l : Nat) (sp : Space) (ia : Nat) (bs : List Byte) (h : memoryWf s = true) :
    memoryWf (memWrite s l sp ia bs) = true := by
  cases sp
  · unfold memWrite
    simp only
    split
    · exact memoryWf_congr h rfl rfl rfl
    · have h' := (memoryWf_iff s).1 h
      refine memoryWf_congr (s := { s with mem := writeBytes s.mem ia bs }) ?_ rfl rfl rfl
      exact (memoryWf_iff _).2 ⟨memory_wf_writeBytes _ _ h'.1, h'.2⟩
  · exact memoryWf_setStore .host h (memory_wf_writeBytes _ _ (memory_wf_store h .host))
  · exact memoryWf_setStore .foreign h (memory_wf_writeBytes _ _ (memory_wf_store h .foreign))

end Sys2Proof.Machine
end

