-- ==== Sys2Proof/Laws/Words.lean ====
section
/-! SUPPORT. Every word but PERIOD goes through the shared front end of a word. -/

namespace Sys2Proof.Machine

/-- The front end answers a next state. -/
theorem runWord_next (i : Instr) (s : State) (eff : State → Wx → Eff) : ∃ t, runWord i s eff = .next t := by
  unfold runWord
  (repeat' split) <;> exact ⟨_, rfl⟩

set_option maxRecDepth 4000 in
/-- The meaning of a word is the shared front end with one effect, whatever the state. -/
theorem exec_word (i : Instr) (hw : (shape i).word = true) (hp : ∀ x y z, i ≠ .period x y z) :
    ∃ eff : State → Wx → Eff, ∀ s, exec i s = runWord i s eff := by
  cases i
  all_goals first
    | exact ⟨_, fun _ => rfl⟩
    | exact absurd rfl (hp _ _ _)
    | exact absurd hw (by decide)
    | exact absurd hw Bool.false_ne_true

end Sys2Proof.Machine
end

