-- ==== Sys2Proof/Tests/Slice0.lean ====
section
/-! SUPPORT. Tests: ill-formed terms are refused, words written out from the spec's encodings decode, the spec's worked examples
compute, and for every statement a state that meets its hypotheses. Expected values are the spec's own, or worked by hand from its
rules, as noted. -/

namespace Sys2Proof.Tests

open Sys2Proof Sys2Proof.Machine

set_option maxRecDepth 100000
set_option Elab.async false

/-! ## Well-formedness: one ill-formed term for each check. -/

theorem test_wf_good : (Instr.iadd 0 1 2 3).wellFormed = true := by decide
/-- R76: IADD (immediate) with ra = 116 is written MOVI. -/
theorem test_wf_canonical : (Instr.iaddImm 0 1 116 5).wellFormed = false := by decide
/-- R10: lane cannot be written. -/
theorem test_wf_destination : (Instr.iadd 0 117 2 3).wellFormed = false := by decide
/-- R14: guard 8 is illegal. -/
theorem test_wf_guard : (Instr.iadd 8 1 2 3).wellFormed = false := by decide
/-- R11: a pair starts at an even register. -/
theorem test_wf_pair : (Instr.iadd64 0 1 2 4).wellFormed = false := by decide
/-- R11: a quad starts at a multiple of 4. -/
theorem test_wf_quad : (Instr.packE4m3x4 0 1 6).wellFormed = false := by decide
/-- R11: an octet starts at a multiple of 8. -/
theorem test_wf_octet : (Instr.packI4x8 0 1 12).wellFormed = false := by decide
/-- R34: a compare does not write p0, and has ten conditions. -/
theorem test_wf_compare : (Instr.icmp 0 0 0 1 2).wellFormed = false ∧ (Instr.icmp 0 1 10 1 2).wellFormed = false := by decide
/-- R46: an asynchronous result does not go to a temporary. -/
theorem test_wf_async_temp : (Instr.ldg 0 112 4 2 0).wellFormed = false := by decide
/-- R52: a read-only special register. -/
theorem test_wf_special : (Instr.swr 0 1 0x04).wellFormed = false ∧ (Instr.srd 0 1 0x30).wellFormed = false := by decide
/-- R17: a load has no release code, a store no acquire code. -/
theorem test_wf_order : (Instr.ldg 0 9 4 2 6).wellFormed = false ∧ (Instr.stg 0 9 4 2 1).wellFormed = false := by decide

/-! ## Decoding: words of the spec's encodings (R8, R9, R33), family by family. -/

/-- IADD: op 0x00, gd, rd 3, ra 1, rb 2, bit by bit. -/
theorem test_dec_iadd : decode (0b0000000_0000_0000011_0000001_0000010#32) = .ok (.iadd 0 3 1 2) := by rfl
/-- XOR: op 0x10, guard 1011 (not p3). -/
theorem test_dec_xor : decode (0b0010000_1011_0000100_0000101_0000110#32) = .ok (.xor32 11 4 5 6) := by rfl
/-- SAR #7: op 0x15, imm7 10 00111. -/
theorem test_dec_sar : decode (0b0010101_0000_0000011_0001001_1000111#32) = .ok (.sarImm 0 3 9 7) := by rfl
theorem test_dec_imm : decode 0x0201C3FF#32 = .ok (.iaddImm 0 7 7 0x7F) ∧ decode 0x0200BA78#32 = .ok (.movi 0 2 0x78) := ⟨rfl, rfl⟩
theorem test_dec_icmp : decode 0x320503F4#32 = .ok (.icmp 0 1 4 7 116) := rfl
theorem test_dec_float : decode 0x3E050A96#32 = .ok (.ffma 0 20 21 22) ∧ decode 0x3C00C082#32 = .ok (.fmul 0 3 1 2) ∧
    decode 0x40010082#32 = .ok (.ffms 0 4 1 2) := ⟨rfl, rfl, rfl⟩
theorem test_dec_cvt : decode 0x6A0082E8#32 = .ok (.cvtToInt 0 2 5 6 8) := rfl
/-- UNPACK, bit by bit: op 0x39, fn 010 0 011. -/
theorem test_dec_unpack : decode (0b0111001_0000_0000010_0000101_0100011#32) = .ok (.unpack 0 2 5 2 3) := rfl
theorem test_dec_lanes : decode 0x7E024403#32 = .ok (.shflDown 0 9 8 3) ∧ decode 0x86080280#32 = .ok (.voteAny 0 2 5) ∧
    decode 0x8A01C181#32 = .ok (.xgrecv 0 7 3) := ⟨rfl, rfl, rfl⟩
theorem test_dec_memory : decode 0x8D624223#32 = .ok (.ldg 11 9 4 2 3) ∧ decode 0x8E01C228#32 = .ok (.stg 0 7 4 2 8) ∧
    decode 0x9000C120#32 = .ok (.ldsp 0 3 2 2 0) ∧ decode 0x9200C126#32 = .ok (.stsp 0 3 2 2 6) ∧
    decode 0x941D0230#32 = .ok (.pfetch 0 4 3) := ⟨rfl, rfl, rfl, rfl, rfl⟩
theorem test_dec_atomic : decode 0xA2018540#32 = .ok (.atomrN32 0 6 10 4 0) ∧ decode 0x9E00C600#32 = .ok (.atomF32 0 3 12 0) ∧
    decode 0xA001857D#32 = .ok (.atomrI32 0 6 10 7 13) := ⟨rfl, rfl, rfl⟩
theorem test_dec_ring : decode 0xAA02819D#32 = .ok (.qputRemote 0 10 3 1 5) := rfl
theorem test_dec_sync : decode 0xB0000008#32 = .ok (.fence 0 8) ∧ decode 0xB000001F#32 = .ok (.fenceSc 0 15) ∧
    decode 0xB20FFFE0#32 = .ok (.wait 0 31 31 31 0) ∧ decode 0xB4050433#32 = .ok (.cwait 0 20 8 3) ∧
    decode 0xB8000001#32 = .ok (.lbar 1) := ⟨rfl, rfl, rfl, rfl, rfl⟩
theorem test_dec_copy : decode 0xC0020100#32 = .ok (.xcpy 0 8 2) := rfl
theorem test_dec_matrix : decode 0xC4000000#32 = .ok .mxfence ∧ decode 0xC6030184#32 = .ok (.mxop 0 12 3 4) ∧
    decode 0xCA008600#32 = .ok (.amalloc 0 2 12) ∧ decode 0xCA008601#32 = .ok (.amfree 0 2 12) ∧
    decode 0xCA008604#32 = .ok (.amzero 0 2 12) ∧ decode 0xCA028582#32 = .ok (.amrd 0 10 11) := ⟨rfl, rfl, rfl, rfl, rfl, rfl⟩
theorem test_dec_graphics : decode 0xD0050400#32 = .ok (.tex 0 20 8) ∧ decode 0xD0050403#32 = .ok (.texG 0 20 8) ∧
    decode 0xD4070800#32 = .ok (.trace 0 28 16) ∧ decode 0xD4014801#32 = .ok (.traceAppend 0 5 16) ∧
    decode 0xD81D0601#32 = .ok (.flins 0 116 12) := ⟨rfl, rfl, rfl, rfl, rfl⟩
theorem test_dec_control : decode 0xE03FFFFE#32 = .ok (.bra 1 0x1FFFFE) ∧ decode 0xE2000028#32 = .ok (.call 0 0x28) ∧
    decode 0xE400C300#32 = .ok (.brx 0 3 6 0) ∧ decode 0xE6000500#32 = .ok (.callx 0 10) ∧
    decode 0xEA005A3C#32 = .ok (.land 0x5A3C) ∧ decode 0xEC01FA74#32 = .ok (.period 7 116 116) := ⟨rfl, rfl, rfl, rfl, rfl, rfl⟩
theorem test_dec_thread : decode 0xE8000000#32 = .ok (.ret 0) ∧ decode 0xE8000001#32 = .ok (.exit 0) ∧
    decode 0xE8000002#32 = .ok (.nop 0) ∧ decode 0xE8000003#32 = .ok (.yield 0) := ⟨rfl, rfl, rfl, rfl⟩
theorem test_dec_trap : decode 0xF0000480#32 = .ok (.trap 0 9) ∧ decode 0xF0000001#32 = .ok .tret ∧
    decode 0xF0000002#32 = .ok (.bkpt 0) ∧ decode 0xF0000003#32 = .ok .ctxyield := ⟨rfl, rfl, rfl, rfl⟩
theorem test_dec_special : decode 0xF2008380#32 = .ok (.srd 0 2 7) ∧ decode 0xF21D0101#32 = .ok (.swr 0 116 2) ∧
    decode 0xF4013A00#32 = .ok (.dtime 0 4 116) ∧ decode 0xF4008281#32 = .ok (.lblr 0 2 5) ∧
    decode 0xF41D0182#32 = .ok (.lblraise 0 116 3) := ⟨rfl, rfl, rfl, rfl, rfl⟩
theorem test_dec_adverbs : decode 0xFC2468AC#32 = .ok (.advImm 0x2468AC) ∧ decode 0xFE000001#32 = .ok (.advRound 0 0 1) ∧
    decode 0xFE400003#32 = .ok (.advXopnd 3) := ⟨rfl, rfl, rfl⟩
/-- R8: the first byte is the least significant one. -/
theorem test_dec_byte_order : decodeTableWord 32 0x7E024403 = some (.shflDown 0 9 8 3) := rfl

/-! ## Values: the spec's worked examples, and corners worked by hand from its rules. -/

/-- A state about to run the instruction, the first after reset, in thread 1024 of group 16 of workgroup 1. -/
def ready (i : Instr) : State := State.reset.withFetchWord 32 ((encode i).getD 0).toNat

/-- With v-registers set in that thread. -/
def withRegs (l : List (Nat × Word)) (s : State) : State :=
  s.modThr 1024 fun x => { x with regs := l.foldl (fun m e => sset {} m e.1 { val := e.2 }) x.regs }

/-- With adverbs before the word. -/
def withAdvs (f : Advs → Advs) (s : State) : State := s.modBundle 0 fun b => { b with advs := f b.advs }

/-- The state after a step. -/
def stepped (s : State) : State := match step s with | .next t => t | .fault _ => s | .refused _ => s

/-- The state after an instruction. -/
def after (i : Instr) (s : State) : State := match exec i s with | .next t => t | .fault _ => s | .refused _ => s

/-- A register of the thread after a step. -/
def out (s : State) (f : Nat) : Word := (sget {} ((stepped s).thr 1024).regs f).val

/-- The flags of the thread after a step: i, u, o, z, v from bit 4 down as sr.fpflags has them. -/
def flags (s : State) : BitVec 5 := ((stepped s).thr 1024).fpflags

theorem test_iadd_wraps : out (withRegs [(2, 0xFFFFFFFF#32), (3, 2)] (ready (.iadd 0 1 2 3))) 1 = 1 := by decide +kernel
theorem test_imulh_signs : out (withRegs [(2, 0xFFFFFFFF#32), (3, 2)] (ready (.imulhI32 0 1 2 3))) 1 = 0xFFFFFFFF#32 ∧
    out (withRegs [(2, 0xFFFFFFFF#32), (3, 2)] (ready (.imulhN32 0 1 2 3))) 1 = 1 := by decide +kernel
/-- R23: the spec's MOVI v2, #0x12345678. -/
theorem test_movi_wide : out (withAdvs (fun a => { a with imm := some 0x2468AC }) (ready (.movi 0 2 0x78))) 2 = 0x12345678#32 := by decide +kernel
theorem test_sar_beyond : out (withRegs [(2, 0x80000000#32), (3, 32)] (ready (.sar 0 1 2 3))) 1 = 0xFFFFFFFF#32 ∧
    out (withRegs [(2, 0x80000000#32), (3, 32)] (ready (.shr 0 1 2 3))) 1 = 0 := by decide +kernel
/-- R83: the spec's BFI and BFE. -/
theorem test_bfi : out (withRegs [(1, 0x12345678#32), (2, 0xAB), (3, 0x418)] (ready (.bfi 0 1 2 3))) 1 = 0x1B345678#32 := by decide +kernel
theorem test_bfe : out (withRegs [(2, 0x1B345678#32), (3, 0x418)] (ready (.bfe 0 1 2 3))) 1 = 0xB ∧
    out (withRegs [(2, 0x1B345678#32), (3, 0x10418)] (ready (.bfe 0 1 2 3))) 1 = 0xFFFFFFFB#32 := by decide +kernel
theorem test_clz_zero : out (ready (.clz 0 1 2)) 1 = 32 ∧ out (withRegs [(2, 1)] (ready (.brev 0 1 2))) 1 = 0x80000000#32 := by decide +kernel
/-- R10: z discards a write. -/
theorem test_z_discards : out (withRegs [(2, 7)] (ready (.iadd 0 116 2 2))) 116 = 0 := by decide +kernel
/-- A destination that is also a source of a wide word. -/
theorem test_iadd64_carry : out (withRegs [(2, 0xFFFFFFFF#32), (3, 0), (4, 1), (5, 0)] (ready (.iadd64 0 2 2 4))) 2 = 0 ∧
    out (withRegs [(2, 0xFFFFFFFF#32), (3, 0), (4, 1), (5, 0)] (ready (.iadd64 0 2 2 4))) 3 = 1 := by decide +kernel
/-- R89: FMIN takes -0 before +0. -/
theorem test_fmin_zeros : out (withRegs [(2, 0), (3, 0x80000000#32)] (ready (.fmin 0 1 2 3))) 1 = 0x80000000#32 := by decide +kernel
/-- R87: the exact error of a product (the spec's worked example): 1 + 2^-11 rounds down, and the error is 2^-24. -/
theorem test_fmul_tie : out (withRegs [(1, 0x3F800800#32), (2, 0x3F800800#32)] (ready (.fmul 0 3 1 2))) 3 = 0x3F801000#32 := by decide +kernel
theorem test_ffms_error : out (withAdvs (fun a => { a with xopnd := some 3 })
    (withRegs [(1, 0x3F800800#32), (2, 0x3F800800#32), (3, 0x3F801000#32)] (ready (.ffms 0 4 1 2)))) 4 = 0x33800000#32 := by decide +kernel
/-- 0.1 in BF16, FP16 and E4M3, from FP32 (R60, R64). -/
theorem test_pack_tenth : packF bf16 {} 0x3DCCCCCD = (0x3DCD, flagX) ∧ packF f16 {} 0x3DCCCCCD = (0x2E66, flagX) ∧
    packF e4m3 {} 0x3DCCCCCD = (0x1D, flagX) := by decide +kernel
/-- R99: the spec's PACK.e4m3x4 v20, v8. -/
theorem test_pack_e4m3 :
    out (withRegs [(8, 0x3F800000#32), (9, 0xC0533333#32), (10, 0x43FA0000#32), (11, 0x7FC00001#32)] (ready (.packE4m3x4 0 20 8))) 20 =
      0x7F7FC538#32 := by decide +kernel
/-- R106, R107: the spec's draw for a zero key and counter. -/
theorem test_rng4 : (List.range 4).map (fun k => out (ready (.rng4 0 16 20 6)) (16 + k)) =
    [0x6627E8D5#32, 0xE169C58D#32, 0xBC57AC4C#32, 0x9B00DBD8#32] := by decide +kernel
/-- R120: the tree forms 1 + 1 first (the spec's example). -/
theorem test_red_float : redTree 1 6 ([0x3F800000, 0x3F800000, 0x4B800000] ++ List.replicate 61 0) 0 = (0x4B800001, 0) := by decide +kernel
/-- R237, R244: the spec's four-step E4M3 block: the cells 1536, -80, 6, 384 and 128, 512, -1024, 0 drain to 149504. -/
theorem test_drain : drained [1536, -80, 6, 384] [128, 512, -1024, 0] = 149504 := by decide +kernel
/-- R384: nearer nodes first. -/
theorem test_list_order : (placeNode { idx := none, depth := 2, p0 := 0, p1 := 0, flags := 0, seq := 0 }
    [{ idx := none, depth := 1, p0 := 0, p1 := 0, flags := 0, seq := 0 }, { idx := none, depth := 3, p0 := 0, p1 := 0, flags := 0, seq := 0 }]).map
      (·.depth) = [1, 2, 3] := by decide +kernel
/-- R31: BRA with offset 0 goes to its own sentence start. -/
theorem test_bra_target : ((stepped (ready (.bra 0 0))).thr 1024).jump = some 0x10004#64 := by decide +kernel
/-- R136: TRAP #9 in a thread with no handler halts its workgroup. -/
theorem test_trap_halts : ((stepped (ready (.trap 0 9))).wg 1).halted = true := by decide +kernel
theorem test_exit_ends : ((stepped (ready (.exit 0))).thr 1024).picker = .exited := by decide +kernel
/-- R149: an address in no range traps; with no handler the workgroup halts. -/
theorem test_ldg_range : ((stepped (withRegs [(5, 0x10000)] (ready (.ldg 0 9 4 2 0)))).wg 1).halted = true := by decide +kernel
/-- R166: a scratchpad store and the bytes it leaves. -/
theorem test_stsp_bytes : readBytes ((stepped (withRegs [(2, 8), (3, 0x11223344#32)] (ready (.stsp 0 3 2 2 0)))).wg 1).mem.spad 8 4 =
    [0x44#8, 0x33#8, 0x22#8, 0x11#8] := by decide +kernel
/-- R25: PERIOD ends the sentence. -/
theorem test_period_ends : ((stepped (ready (.period 116 116 116))).thr 1024).pc = 0x10008#64 := by decide +kernel
/-- R137: SRD of sr.gwidth, 64. -/
theorem test_srd_width : out (ready (.srd 0 2 0)) 2 = 64 := by decide +kernel

/-! ## Every word has a state in which it is clear: the first step after reset. -/

/-- For IntegerResults and LogicBitAndSelectResults. -/
theorem witness_IntegerResults : (([.iadd 0 8 8 8, .iaddImm 0 8 8 8, .movi 0 8 8, .isub 0 8 8 8, .imul 0 8 8 8, .imulhI32 0 8 8 8, .imulhN32 0 8 8 8,
     .imad 0 8 8 8, .iminI32 0 8 8 8, .iminN32 0 8 8 8, .imaxI32 0 8 8 8, .imaxN32 0 8 8 8, .iadd64 0 8 8 8, .isub64 0 8 8 8,
     .lea 0 8 8 0 0, .and32 0 8 8 8, .or32 0 8 8 8, .xor32 0 8 8 8, .andn 0 8 8 8, .shl 0 8 8 8, .shr 0 8 8 8, .sar 0 8 8 8,
     .shlImm 0 8 8 0, .shrImm 0 8 8 0, .sarImm 0 8 8 0, .bfe 0 8 8 8, .bfi 0 8 8 8, .mov 0 8 8, .iabs 0 8 8, .popc 0 8 8,
     .clz 0 8 8, .brev 0 8 8, .mov64 0 8 8, .icmp 0 1 0 8 8, .sel 0 8 8 8, .fadd 0 8 8 8, .fsub 0 8 8 8] :
    List Instr).all fun i => clear i (ready i)) = true := by decide +kernel

/-- For LogicBitAndSelectResults, ConversionAndRandomResults and FpWordResults. -/
theorem witness_ConversionAndRandomResults : (([.fmul 0 8 8 8, .ffma 0 8 8 8, .ffms 0 8 8 8, .ffnma 0 8 8 8, .fmin 0 8 8 8, .fmax 0 8 8 8, .fneg 0 8 8, .fabs 0 8 8,
     .fclass 0 8 8, .fcmp 0 1 0 8 8, .hadd2F16 0 8 8 8, .hadd2Bf16 0 8 8 8, .hmul2F16 0 8 8 8, .hmul2Bf16 0 8 8 8,
     .hfma2F16 0 8 8 8, .hfma2Bf16 0 8 8 8, .hmin2F16 0 8 8 8, .hmin2Bf16 0 8 8 8, .hmax2F16 0 8 8 8, .hmax2Bf16 0 8 8 8,
     .cvtToFloat 0 8 8 1 0, .cvtToInt 0 8 8 1 8, .packF16x2 0 8 8 8, .packBf16x2 0 8 8 8, .packE4m3x4 0 8 8, .packE5m2x4 0 8 8,
     .packI8x4 0 8 8, .packN8x4 0 8 8, .packI4x8 0 8 8, .packN4x8 0 8 8, .unpack 0 8 8 1 1, .rcp 0 8 8, .rsq 0 8 8, .sqrt 0 8 8,
     .ex2 0 8 8, .lg2 0 8 8, .sin 0 8 8, .cos 0 8 8, .rng4 0 8 8 0, .shflRot 0 8 8 8, .shflXor 0 8 8 8, .shflUp 0 8 8 8,
     .shflDown 0 8 8 8] :
    List Instr).all fun i => clear i (ready i)) = true := by decide +kernel

theorem test_clear_lanes_and_memory : (([.permset 0 1 2, .perm 0 8 8 1, .red 0 8 8 1, .scan 0 8 8 1 0, .voteAny 0 1 1, .voteAll 0 1 1, .voteBallot 0 8 1, .voteEq 0 1 1,
     .gbcast 0 8 8 8, .xgsend 0 8 0, .xgrecv 0 8 0, .ldg 0 8 8 1 0, .stg 0 8 8 1 0, .ldsp 0 8 8 1 0, .stsp 0 8 8 1 0,
     .pfetch 0 8 1, .atomI32 0 8 8 1 0, .atomN32 0 8 8 1 0, .atomI64 0 8 8 1 0, .atomN64 0 8 8 1 0, .atomF32 0 8 8 0,
     .atomrI32 0 8 8 1 0, .atomrN32 0 8 8 1 0, .atomrI64 0 8 8 1 0, .atomrN64 0 8 8 1 0, .atomrF32 0 8 8 0, .qput 0 8 0 0,
     .qputRemote 0 8 0 0 1, .qputNb 0 8 1 0 0 0 0, .qget 0 8 0 0, .qgetNb 0 8 1 0 0, .qpeek 0 8 0 0, .qpeekNb 0 8 1 0 0,
     .fence 0 3, .fenceSc 0 13, .wait 0 0 0 0 0, .cwait 0 8 8 3, .bar 0, .lbar 1, .xcpy 0 8 8, .gang 0 8, .mxfence, .mxop 0 8 8 1,
     .mxprog 0 8, .mxprogClr 0, .amalloc 0 8 8, .amfree 0 8 8, .amrd 0 8 8, .amwr 0 8 8, .amzero 0 8 8] :
    List Instr).all fun i => clear i (ready i)) = true := by decide +kernel

theorem test_clear_rest : (([.tex 0 8 8, .texL 0 8 8, .texB 0 8 8, .texG 0 8 8, .texGather 0 8 8, .texqMinlod 0 8 8, .texqSize 0 8 8, .trace 0 8 8,
     .traceAppend 0 8 8, .ocenter 0 8, .ocleave 0, .ocskip 0, .flset 0 8 8, .flins 0 8 8, .flwalk 0 8 8, .pixout 0 8 1,
     .interp 0 8 0 0, .discard 0, .bra 0 0, .call 0 0, .brx 0 8 8 8, .callx 0 8, .ret 0, .exit 0, .nop 0, .yield 0, .land 0,
     .period 8 8 8, .trap 0 8, .tret, .bkpt 0, .ctxyield, .srd 0 8 8, .swr 0 8 2, .dtime 0 8 8, .lblr 0 8 8, .lblraise 0 8 8,
     .gate 0 8 8, .advImm 0, .advRound 0 0 0, .advMemhint 0 0, .advXopnd 8, .advSched 1 0] :
    List Instr).all fun i => clear i (ready i)) = true := by decide +kernel

/-! ## A state for the hypotheses of each statement. -/

/-- Change the thread. -/
def withThr (f : Thread → Thread) (s : State) : State := s.modThr 1024 f
/-- Change its group. -/
def withGrp (f : Group → Group) (s : State) : State := s.modGrp 16 f
/-- Change its workgroup. -/
def withWg (f : Workgroup → Workgroup) (s : State) : State := s.modWg 1 f
/-- Change the bundle. -/
def withBundle (f : Bundle → Bundle) (s : State) : State := s.modBundle 0 f
/-- What is next. -/
def next (a : Act) : State := { State.reset with agenda := [a] }
/-- CU c pins a line. -/
def pinned (c line : Nat) (s : State) : State :=
  s.modCu c fun u => { u with pins := [{ line := line, bytes := leBytes 7 64, label := 0, dom := 0, wg := 1, tid := 1024, pc := 0 }] }
/-- An access in flight, number 0. -/
def inFlight (a : Access) (s : State) : State := { s with accs := [(0, a)], fresh := s.fresh + 1 }
/-- A thread that has a handler: its trap vector is the word after the PERIOD at 0x10000 (R135). -/
def handled (s : State) : State := withGrp (fun g => { g with tvec := 0x10004 }) s
/-- A small state with a range, a thread, its group, workgroup, launch and context, and no bundle: the thread waits as said. -/
def idle (f : Thread → Thread) : State := { withThr f (ready (.nop 0)) with pipes := [], agenda := [] }

/-- The word that the pipe's fetch brings. -/
def fetched (s : State) : Option Word :=
  match fetchFor { s with agenda := s.agenda.tail } 0 s.bundle with
  | .word _ w => some w
  | .wait _ | .trap _ => none
/-- No copy of any line, and two backed pages. -/
def inMemory (s : State) : State := { s with cus := [], cores := [], pages := [(0, { b := true }), (1, { b := true })] }
theorem pages_here (l : Table Page) (h : l.all (fun e => decide (e.2.tier = 0)) = true) (k : Nat) : ((tfind l k).getD {}).tier = 0 := by
  induction l with
  | nil => rfl
  | cons e r ih =>
    simp only [List.all_cons, Bool.and_eq_true, decide_eq_true_eq] at h
    simp only [tfind]
    split
    · exact h.1
    · exact ih h.2
/-- Memory with no failed grain, whose pages are all on this device, is sound. -/
theorem memory_sound (s : State) (h : s.grains = [] ∧ s.sectors = []) (hp : s.pages.all (fun e => decide (e.2.tier = 0)) = true) : soundMemory s :=
  ⟨h.1, h.2, fun ia => by
    have : (s.page ia).tier = 0 := pages_here s.pages hp _
    simp [linkDown, this]⟩
/-- The memory side lets the access go on, and nothing has changed. -/
def memOk (s : State) : Side → Bool
  | .ok s' => decide (s' = { s with agenda := s.agenda.tail })
  | .retry _ | .refused _ => false

theorem witness_StepRunsDecodedInstruction :
    (let s := ready (.iadd 0 1 2 3)
     s.pkg.booted = true ∧ s.agenda.head? = some (.issue 0) ∧ (tfind s.pipes 0).isSome = true ∧ bundleFrozen s s.bundle = false ∧
     fetched s = some 0x00004103#32 ∧ (decode 0x00004103#32).toOption = some (.iadd 0 1 2 3) ∧ (s.launchOf 1).replay = false ∧ (s.launchOf 1).requeued = false ∧
     (liveCopy s 0 (s.ctx 0).dom 0x400).any (fun c => c.bytes.length == 64) = true ∧ ownPin s 0 0x400 = none ∧
     (let c := inMemory s
      (rangeOf c 0 c.bundle.pc).any (fun r => permX r.2 && decide (spaceOf r.2 = .mem ∧ iaOf r.2 c.bundle.pc = 0x10004) &&
        memOk c (memSide { c with agenda := c.agenda.tail } 0 (c.ctx 0).dom .mem r.2 0x10004 false 0)) = true ∧
      pinHolders c 0x400 = [] ∧ liveCopy c 0 (c.ctx 0).dom 0x400 = none ∧ peerLine c 0x400 = false ∧ fetched c = some 0x00004103#32) ∧
     (let c := s.modCu 0 fun u => { u with pins := [{ line := 0x400, bytes := leBytes (0x00004103 * 2 ^ 32) 64, label := 0, dom := 0, wg := 1, tid := 1024, pc := 0 }] }
      (ownPin c 0 0x400).isSome = true ∧ fetched c = some 0x00004103#32)) ∧
    (let s := State.reset.withFetchWord 32 0x36000000
     s.agenda.head? = some (.issue 0) ∧ fetched s = some 0x36000000#32 ∧ (decode 0x36000000#32).toOption.isNone = true) ∧
    (let s := withBundle (fun b => { b with pc := 0x100000000 }) (ready (.nop 0))
     bundleFrozen s s.bundle = false ∧ rangeOf s 0 s.bundle.pc = none) ∧
    (let s := (ready (.nop 0)).modCtx 0 fun c => { c with ranges := [(0, [0, 0xFFFF0000#64, 0, 0xE000000000000000#64])] }
     bundleFrozen s s.bundle = false ∧ (rangeOf s 0 s.bundle.pc).any (fun r => !permX r.2) = true) ∧
    (let s := (ready (.nop 0)).modCtx 0 fun c => { c with resident := false }
     s.agenda.head? = some (.issue 0) ∧ bundleFrozen s s.bundle = true) ∧
    (next (.issue 0)).agenda.head? = some (.issue 0) ∧ tfind (next (.issue 0)).pipes 0 = none ∧
    (shape (.queuePoll 0 0)).word = false ∧ frozen (next (.event (.queuePoll 0 0))) (.queuePoll 0 0) = false ∧
    (next (.tick 5)).agenda.head? = some (.tick 5) ∧ (next (.upset .mismatch)).agenda.head? = some (.upset .mismatch) := by decide +kernel

theorem witness_held_in_reset :
    let s : State := { pkg := { booted := false } }
    s.pkg.booted = false ∧ ∀ a b c d, nextAct s ≠ .event (.powerOnBoot a b c d) := by
  refine ⟨rfl, fun a b c d h => ?_⟩
  have : isBoot (nextAct ({ pkg := { booted := false } } : State)) = false := by decide +kernel
  rw [h] at this
  cases this

theorem witness_EncodeThenDecode : (Instr.iadd 0 1 2 3).canonical = true ∧ encode (.iadd 0 1 2 3) = some 0x00004103#32 ∧
    decode 0x00004103#32 = .ok (.iadd 0 1 2 3) := ⟨rfl, rfl, rfl⟩

/-- Memory that a write has changed is in canonical form, and a step from there answers. -/
theorem witness_MemoryStaysCanonical : memoryWf (ready (.iadd 0 1 2 3)) = true ∧ (ready (.iadd 0 1 2 3)).mem ≠ [] ∧
    step (ready (.iadd 0 1 2 3)) = .next (stepped (ready (.iadd 0 1 2 3))) := ⟨by decide +kernel, by decide +kernel, rfl⟩

theorem witness_NumbersStayFresh : freshNumbers (stepped (ready (.ldsp 0 3 2 2 0))) = true ∧ (stepped (ready (.ldsp 0 3 2 2 0))).accs ≠ [] := by
  decide +kernel

theorem witness_ContextLabelNeverFalls :
    let s := withGrp (fun g => { g with ctx := 1 }) (ready (.nop 0))
    exec (.nop 0) s = .next (after (.nop 0) s) ∧ (tfind s.groups 16).isSome = true ∧ (tfind (after (.nop 0) s).groups 16).isSome = true := by
  refine ⟨rfl, by decide +kernel, by decide +kernel⟩

/-- A lane whose sum is inexact and whose thread enables x: the trap branch of a floating-point word. -/
theorem witness_FpWordResults :
    let i : Instr := .fadd 0 1 2 3
    let s := withThr (fun x => { x with fpctl := 31 }) (withRegs [(2, 0x3F800000#32), (3, 0x33000000#32)] (ready i))
    clear i s = true ∧ enabledLanes i s (fun u => (f32.add (rndOf s.bundle.advs) (rv s u 2).toNat (rv s u 3).toNat).2) ≠ [] := by decide +kernel

theorem witness_FpValueRules : decide (0x7F800000 < 0x7FA00000 % 2 ^ 31) = true ∧ 0x7F800000 % 2 ^ 31 = 0x7F800000 ∧ 0xFF800000 % 2 ^ 31 = 0x7F800000 ∧
    0x7F800000 ≠ 0xFF800000 ∧ 0x80000000 % 2 ^ 31 = 0 ∧ 0x7F7FFFFF < 0x7F800000 ∧ 2 * (3 * 2 ^ 4 % 2 ^ 5) = 2 ^ 5 := by decide

theorem witness_special_functions :
    (let s := ready (.rcp 0 8 8)
     clear (.rcp 0 8 8) s = true ∧ ∀ u ∈ lanes (.rcp 0 8 8) s, (s.thr u).fpctl = 0) ∧
    (let s := withThr (fun x => { x with fpctl := 1 }) (ready (.rcp 0 8 8))
     clear (.rcp 0 8 8) s = true ∧ ∃ u ∈ lanes (.rcp 0 8 8) s, (s.thr u).fpctl ≠ 0) := by decide +kernel

/-- Results that arrive: of a special function, of a scratchpad load, of an acquire of scope core; and one that is not there yet. -/
theorem witness_LateResults :
    let s := ready (.nop 0)
    let good := fun (a : Access) => (tfind (inFlight a s).threads a.tid).isSome && (tfind (inFlight a s).groups (gidOf a.tid)).isSome &&
      decide (a.dest.Nodup ∧ (∀ f ∈ a.dest, f < 112) ∧ a.pred = none)
    good { kind := .special, tid := 1024, dest := [8], result := [{ val := 1 }], stage := .returned } = true ∧
    good { kind := .load, tid := 1024, dest := [8, 9], result := [{ val := 1 }, { val := 2 }], stage := .returned } = true ∧
    good { kind := .load, tid := 1024, dest := [111], order := { kind := .acquire, scope := .core }, stage := .returned } = true ∧
    good { kind := .load, tid := 1024, dest := [0], stage := .issued } = true ∧ delivers .load = true ∧
    isAcq { kind := .acquire, scope := .core } = true := by decide +kernel

/-- Two lanes in the bundle. -/
def twoLanes (s : State) : State :=
  { s with threads := tput s.threads 1025 (s.thr 1024), pipes := tmod s.pipes 0 fun b => { b with tids := [1024, 1025] } }
/-- A poisoned register. -/
def poisoned (f : Nat) (s : State) : State := withThr (fun x => { x with regs := sset {} x.regs f { val := 0, poison := true } }) s

theorem witness_ShuffleAndVoteResults :
    (let s := poisoned 3 (ready (.shflRot 0 1 2 3))
     clear (.shflRot 0 1 2 3) s = true ∧ (lanes (.shflRot 0 1 2 3) s).filter (fun u => (readReg s u 3).poison) ≠ []) ∧
    (let s := twoLanes (withThr (fun x => { x with preds := [(5, { val := true, poison := true })] }) (ready (.voteAny 0 2 5)))
     clear (.voteAny 0 2 5) (twoLanes (ready (.voteAny 0 2 5))) = true ∧ clear (.voteAny 0 2 5) s = true ∧
     (lanes (.voteAny 0 2 5) s).filter (fun u => s.bundle.tids.any fun t => (readPred s t 5).poison && decide (t ≠ u)) ≠ []) := by decide +kernel

theorem witness_PermutationResults :
    (let i : Instr := .permset 0 1 2
     let bad := fun s => (lanes i s).filter fun u => permPoison s (gidOf u) 2
     let s := withGrp (fun g => { g with g := sset {} g.g 2 { val := 1, plo := true } }) (ready i)
     clear i (ready i) = true ∧ bad (ready i) = [] ∧ clear i s = true ∧ bad s ≠ []) ∧
    (let i : Instr := .perm 0 20 21 1
     let s := twoLanes (poisoned 21 (ready i))
     let src := fun u => permFrom (sget ({} : CCell) (s.grp (gidOf u)).c 1).val (laneOf u)
     clear i s = true ∧ present s 1025 (src 1025) = true) := by decide +kernel

theorem witness_ReductionResults :
    (let i : Instr := .red 0 6 4 1
     let s := twoLanes (poisoned 4 (ready i))
     clear i (ready i) = true ∧ (lanes i (ready i)).filter (fun u => consumesOf (ready i) 4 u 64) = [] ∧
     clear i s = true ∧ (lanes i s).filter (fun u => consumesOf s 4 u 64) ≠ []) ∧
    (let i : Instr := .scan 0 6 4 0 1
     clear i (ready i) = true ∧ (lanes i (ready i)).filter (fun u => consumesOf (ready i) 4 u 0) = []) := by decide +kernel

theorem witness_RedIsLastLaneOfScan : (∀ i : Nat, (fun _ : Nat => 0xFFFFFFFF) i < 2 ^ 32) ∧ (0 : Nat) ≠ 1 ∧ 63 < 64 :=
  ⟨fun _ => by show 0xFFFFFFFF < 2 ^ 32; decide, by decide, by decide⟩

/-- A slot as said, in a state about to run the instruction. -/
def withSlot (x : XSlot) (s : State) : State := modSlot s 1 3 fun _ => x
def sent (g : Nat) : XData := { gid := g, data := [(0, { val := 7 })], label := 1, since := 0 }
def posted (g : Nat) : Posted := { gid := g, reg := 7, tids := [1024], label := 0, whole := true, pc := 0x10004 }

theorem witness_GroupTransfers :
    (let i : Instr := .xgsend 0 4 3
     (tfind (ready i).wgs 1).isSome = true ∧ clear i (ready i) = true ∧ (slotOf (ready i) 1 3).full = none ∧ (slotOf (ready i) 1 3).senders = [] ∧
     clear i (withSlot { full := some (sent 17) } (ready i)) = true ∧ (slotOf (withSlot { full := some (sent 17) } (ready i)) 1 3).full ≠ none) ∧
    (let i : Instr := .xgrecv 0 7 3
     clear i (ready i) = true ∧ (slotOf (ready i) 1 3).posted = none ∧ clear i (withSlot { posted := some (posted 17) } (ready i)) = true ∧
     (slotOf (withSlot { posted := some (posted 17) } (ready i)) 1 3).posted ≠ none) ∧
    (let s := withSlot { senders := [sent 16, sent 17] } (idle id)
     tfind s.wgs 1 = some (s.wg 1) ∧ (tfind (s.wg 1).mem.slots 3).any (fun x => x.full.isNone && x.senders.contains (sent 16) &&
       x.senders.all fun e => decide (e = sent 16 ∨ (sent 16).gid < e.gid)) = true ∧ (s.threads.map (·.1)).Nodup) ∧
    (let s := withSlot { full := some (sent 17), posted := some (posted 16) } (idle id)
     (tfind (s.wg 1).mem.slots 3).any (fun x => x.full.isSome && x.posted.any fun p => decide (p.tids.Nodup ∧ p.reg < 112) &&
       p.tids.all fun u => (tfind s.threads u).isSome && alive (s.thr u)) = true) := by decide +kernel

/-- A base of 0x1000 in v4 and v5, and a value in v9. -/
def based (s : State) : State := withRegs [(4, 0x1000), (9, 0x11223344#32)] s
/-- The lane's span can be read or written, is aligned, and its base is sound. -/
def okSpan (i : Instr) (s : State) (b : BitVec 7) (n : Nat) (need : Need) : Bool :=
  (lanes i s).all fun u => decide (spanCause s (wordAt i s).vf (globalAddr s u b) n need = none ∧ (globalAddr s u b).toNat % n = 0) &&
    !anyPoison (readOpnd s u (.pair b))

theorem witness_LoadAndPrefetchWords :
    (let i : Instr := .ldg 0 9 4 2 3
     let s := based (ready i)
     clear i s = true ∧ canIssue i s .load = true ∧ okSpan i s 4 4 { rd := true } = true ∧
     (let s := withRegs [(4, 0x1001)] (ready i)
      clear i s = true ∧ canIssue i s .load = true ∧ okSpan i s 4 4 { rd := true } = false) ∧
     (let s := s.modCu 0 fun u => { u with pins := [{ line := 0x40, bytes := leBytes 7 64, label := 0, dom := 0, wg := 1, tid := 1024, pc := 0 }] }
      clear i s = true ∧ canIssue i s .load = true ∧ okSpan i s 4 4 { rd := true } = true ∧ (s.wg 1).mode = .plain ∧
      ((after i s).accs.any fun e => decide (e.2.stage = .returned)) = true) ∧
     (let s := withThr (fun x => { x with octLoad := 255 }) s
      clear i s = true ∧ canIssue i s .load = false)) ∧
    (let i : Instr := .pfetch 0 4 3
     let late := inFlight { kind := .load, tid := 1024, order := { kind := .acquire } } (ready i)
     clear i late = true ∧ (lanes i late).any (acquirePending late) = true) ∧
    (let i : Instr := .pfetch 0 4 3
     let s := based (ready i)
     clear i s = true ∧ (lanes i s).any (acquirePending s) = false ∧ (∀ u ∈ lanes i s, anyPoison (readOpnd s u (.pair 4)) = false) ∧
     clear i (poisoned 4 s) = true ∧ ¬ (∀ u ∈ lanes i (poisoned 4 s), anyPoison (readOpnd (poisoned 4 s) u (.pair 4)) = false)) := by decide +kernel

theorem witness_StoreWordIssues :
    let i : Instr := .stg 0 9 4 2 8
    let s := based (ready i)
    clear i s = true ∧ (∀ u ∈ lanes i s, (s.wg (wgOf u)).mode = .plain) ∧ freshNumbers s = true ∧ canIssue i s .store = true ∧
    okSpan i s 4 4 { wr := true } = true ∧ (lanes i s).all (fun u => !anyPoison (readOpnd s u (sizedOpnd 2 9))) = true ∧
    (let s := twoLanes s
     clear i s = true ∧ canIssue i s .store = true ∧ lanes i s = [1024, 1025] ∧ okSpan i s 4 4 { wr := true } = true ∧ globalAddr s 1024 4 = globalAddr s 1025 4) ∧
    (let s := withRegs [(5, 0x10000)] s
     clear i s = true ∧ canIssue i s .store = true ∧ okSpan i s 4 4 { wr := true } = false) ∧
    (let s := withThr (fun x => { x with octStore := 255 }) s
     clear i s = true ∧ canIssue i s .store = false) := by decide +kernel

theorem witness_ScratchpadWords :
    (let i : Instr := .ldsp 0 9 2 2 0
     let ok := fun (s : State) => (lanes i s).all fun u => decide (saOf s (wordAt i s) u 2 + 4 ≤ spadSize s (wgOf u) ∧ saOf s (wordAt i s) u 2 % 4 = 0)
     let s := withRegs [(2, 0x3FFC)] (ready i)
     clear i s = true ∧ canIssue i s .spLoad = true ∧ ok s = true ∧ ok (withRegs [(2, 0x4000)] (ready i)) = false ∧
     canIssue i (withThr (fun x => { x with octLoad := 255 }) s) .spLoad = false) ∧
    (let i : Instr := .stsp 0 9 2 2 0
     let s := withWg (fun g => { g with mem := { g.mem with copy := {} } }) (withRegs [(2, 0x3FFC)] (ready i))
     clear i s = true ∧ canIssue i s .spStore = true ∧ (lanes i s).all (fun u => decide (saOf s (wordAt i s) u 2 + 4 ≤ spadSize s (wgOf u)) &&
       (copyWords s (wgOf u)).isNone && (tfind s.wgs (wgOf u)).isSome) = true ∧
     clear i (withRegs [(2, 2)] s) = true ∧ (lanes i s).all (fun u => decide (saOf (withRegs [(2, 2)] s) (wordAt i s) u 2 % 4 = 0)) = false) := by decide +kernel

theorem witness_AtomicWords :
    (let i : Instr := .atomrI32 0 6 4 7 13
     let s := withAdvs (fun a => { a with xopnd := some 9 }) (based (ready i))
     clear i s = true ∧ freshNumbers s = true ∧ canIssue i s .atomr = true ∧ okSpan i s 4 4 { rd := true, wr := true } = true) ∧
    (let i : Instr := .atomF32 0 6 4 0
     let s := based (ready i)
     clear i s = true ∧ (∀ u ∈ lanes i s, (s.wg (wgOf u)).mode = .plain) ∧ canIssue i s .atom = true ∧
     (s.launchOf (wgOf (s.bundle.tids.headD 0))).det = false ∧ okSpan i s 4 4 { wr := true } = true ∧
     clear i (withRegs [(4, 2)] s) = true ∧ okSpan i (withRegs [(4, 2)] s) 4 4 { wr := true } = false) := by decide +kernel

/-- A ring of the workgroup, changed. -/
def withRing (q : Nat) (f : Ring → Ring) (s : State) : State := withWg (fun g => { g with mem := { g.mem with rings := tmod g.mem.rings q f } }) s
/-- A ring with nothing added this cycle from a later pipe. -/
def steadyRing (s : State) (q : Nat) : Bool :=
  (tfind s.wgs 1).isSome && (tfind (s.wg 1).mem.rings q).isSome && (s.ring 1 q).puts.isEmpty && (s.ring 1 q).claims.isEmpty
def entry (a : Option Nat) : PutEntry := { data := [1, 2, 3, 4], label := 0, acc := a }

theorem witness_RingPuts :
    (let i : Instr := .qput 0 8 3 0
     let s := ready i
     clear i s = true ∧ canIssue i s .ringPut = true ∧ steadyRing s 3 = true ∧ wgsOf (lanes i s) = [1] ∧
     (lanes i s).filter (fun u => anyPoison (readOpnd s u (.r 8))) = [] ∧ (s.ring 1 3).puts.length + (lanesIn i s 1).length ≤ 64 ∧
     (let s := withRing 3 (fun r => { r with puts := List.replicate 64 { entry none with at_ := 5 } }) s
      clear i s = true ∧ canIssue i s .ringPut = true ∧ (∀ e ∈ (s.ring 1 3).puts, e.at_ ≠ s.now.toNat) ∧ ¬ (s.ring 1 3).puts.length + (lanesIn i s 1).length ≤ 64) ∧
     clear i (poisoned 8 s) = true ∧ (lanes i (poisoned 8 s)).filter (fun u => anyPoison (readOpnd (poisoned 8 s) u (.r 8))) ≠ []) ∧
    (let i : Instr := .qputNb 0 8 1 3 0 0 0
     let s := withRing 3 (fun r => { r with free := 1 }) (ready i)
     clear i s = true ∧ steadyRing s 3 = true ∧ (lanesIn i s 1).length ≤ (s.ring 1 3).free ∧
     (let s := withRing 3 (fun r => { r with free := 0 }) s
      clear i s = true ∧ steadyRing s 3 = true ∧ ¬ (lanesIn i s 1).length ≤ (s.ring 1 3).free)) := by decide +kernel

theorem witness_remote_puts :
    let i : Instr := .qputRemote 0 10 3 1 5
    let s := ready i
    let rich := s.modCu 0 fun u => { u with credits := [(creditKey 5 3, { credit := 1, reported := true })] }
    clear i s = true ∧ canIssue i s .ringPut = true ∧ (∀ u ∈ lanes i s, (s.wg (wgOf u)).mode = .plain) ∧ freshNumbers s = true ∧
    (∀ u ∈ lanes i s, s.cidOf u = 0 ∧ anyPoison (readOpnd s u (.pair 10)) = false) ∧ (creditOf s 0 5 3).absent = false ∧
    ¬ ((lanes i s).length : Int) ≤ (creditOf s 0 5 3).credit ∧
    clear i rich = true ∧ ((lanes i rich).length : Int) ≤ (creditOf rich 0 5 3).credit := by decide +kernel

theorem witness_RingGets :
    (let i : Instr := .qget 0 8 3 0
     clear i (ready i) = true ∧ canIssue i (ready i) .ringGet = true ∧ freshNumbers (ready i) = true ∧ steadyRing (ready i) 3 = true ∧ wgsOf (lanes i (ready i)) = [1]) ∧
    (let i : Instr := .qpeekNb 0 8 1 3 0
     let s := withRing 3 (fun r => { r with filled := 1 }) (ready i)
     clear i s = true ∧ steadyRing s 3 = true ∧ (lanesIn i s 1).length ≤ (s.ring 1 3).filled ∧ ¬ (lanesIn i (ready i) 1).length ≤ ((ready i).ring 1 3).filled) := by
  decide +kernel

/-- The ring has a put next: whether it may be handed a slot, and is too long for one. -/
def handing (s : State) : Option (Bool × Bool) := (nextPut (s.ring 1 3)).map fun x => (putReady s x.1, tooLong (s.ring 1 3) x.1)
def claimed (peek : Bool) (n : Nat) : State := inFlight { kind := .ringGet, tid := 1024, dest := [8], aux := [0, 0] }
  (withRing 3 (fun r => { r with filled := n, claims := [{ peek := peek, accs := [0], words := 1, total := 1 }] }) (idle id))

theorem witness_RingSteps :
    (let s := fun e f => inFlight { kind := .ringPut, tid := 1024, order := { kind := .release, scope := .wg }, after := if f = 2 then [0] else [] }
       (withRing 3 (fun r => { r with puts := [e], free := f }) (idle id))
     let e := entry (some 0)
     let long : PutEntry := { e with data := leBytes 0 1000 }
     (tfind (s e 1).wgs 1).isSome = true ∧ (tfind ((s e 1).wg 1).mem.rings 3).isSome = true ∧ handing (idle id) = none ∧
     handing (s e 1) = some (true, false) ∧ handing (s e 0) = some (true, false) ∧ ((s e 0).ring 1 3).free = 0 ∧ handing (s e 2) = some (false, false) ∧
     handing (s long 1) = some (true, true)) ∧
    (((claimed false 1).ring 1 3).claims.head?.any (fun c => decide (c.accs = [0] ∧ c.peek = false)) = true ∧ 0 < ((claimed false 1).ring 1 3).filled ∧
     (tfind (claimed false 1).accs 0).isSome = true ∧ ((claimed false 0).ring 1 3).filled = 0 ∧ ((idle id).ring 1 3).claims = [] ∧
     ((claimed true 0).ring 1 3).filled < min 1 ((claimed true 0).ring 1 3).desc.n) ∧
    (let s := claimed true 1
     let r := s.ring 1 3
     (r.claims.head?).any (fun c => decide (c.peek = true ∧ c.accs.Nodup ∧ min c.total r.desc.n ≤ r.filled)) = true ∧
     (tfind s.accs 0).any (fun a => decide (a.aux[1]? = some 0 ∧ 0 < r.desc.n)) = true) ∧
    (let gen := ((idle id).wg 1).gen
     let put := fun g => Msg.put 1 0 3 g 0 (entry none) false
     let s : State := { withRing 3 (fun r => { r with desc := { r.desc with inbound := true } }) (idle id) with
       msgs := [(0, put gen), (1, put (gen + 7)), (2, .report 0 3 1 4 0 gen false)] }
     tfind s.msgs 0 = some (put gen) ∧ putEarlier s 0 1 0 3 = false ∧ putReady s (entry none) = true ∧ arrivalWg s 0 3 gen 0 false = some 1 ∧
     putEarlier s 1 1 0 3 = true ∧ (s.ring 1 3).inbound.length < 64 ∧ arrivalWg s 0 3 (gen + 7) 0 false = none ∧ (s.launch 0).det = false ∧
     64 ≤ ((withRing 3 (fun r => { r with inbound := List.replicate 64 (entry none) }) s).ring 1 3).inbound.length ∧
     tfind s.msgs 2 = some (.report 0 3 1 4 0 gen false)) := by decide +kernel

/-- `orderMet` as a computation. -/
def metB (s : State) (u : Nat) (o : Order) : Bool :=
  let quietB := fun (ks : List AccKind) => s.accs.all fun e => decide (e.2.tid = u → e.2.kind ∈ ks → e.2.stage = .retained)
  (!decide (o.kind = .acquire ∨ o.kind = .acqRel) || quietB [.load, .spLoad, .atomr, .ringGet]) &&
  (!decide (o.kind = .release ∨ o.kind = .acqRel) || (quietB [.store, .atom, .atomr, .ringPut, .insert] &&
    decide (o.scope = .dev ∨ o.scope = .part ∨ o.scope = .sys → (s.thr u).wct < s.now)))

theorem orderMet_iff (s : State) (u : Nat) (o : Order) : orderMet s u o ↔ metB s u o = true := by
  unfold orderMet quiet metB
  by_cases h1 : o.kind = .acquire ∨ o.kind = .acqRel <;> by_cases h2 : o.kind = .release ∨ o.kind = .acqRel <;>
    simp only [h1, h2, decide_true, decide_false, Bool.not_true, Bool.not_false, Bool.false_or, Bool.true_or, Bool.true_and, Bool.and_eq_true,
      List.all_eq_true, decide_eq_true_eq, true_implies, false_implies, and_true, true_and]

theorem witness_Fences :
    (let i : Instr := .fence 0 3
     clear i (ready i) = true ∧ lanes i (ready i) ≠ [] ∧ clear (.fence 1 3) (ready i) = true ∧ lanes (.fence 1 3) (ready i) = [] ∧
     (lanes i (ready i)).any (acquirePending (ready i)) = false ∧
     (let late := inFlight { kind := .load, tid := 1024, order := { kind := .acquire } } (ready i)
      clear i late = true ∧ (lanes i late).any (acquirePending late) = true)) ∧
    (let f : FenceHold := { order := { kind := .acqRel, scope := .dev }, sc := true, tids := [1024] }
     let s : State := { withBundle (fun b => { b with fence := some f }) (ready (.nop 0)) with now := 1 }
     let late := inFlight { kind := .load, tid := 1024 } s
     let bad := withThr (fun x => { x with deferred := some { cause := 3, pc := 0, ea := 0 } }) s
     (tfind s.pipes 0).any (fun b => decide (b.fence = some f)) = true ∧ (∀ u ∈ f.tids, orderMet s u f.order ∧ noPins s u f.order) ∧
     (∀ u ∈ f.tids, (s.thr u).deferred = none) ∧ scInOrder s 0 = true ∧ scInOrder { s with lastSc := some (1, 7) } 0 = false ∧
     (∃ u ∈ f.tids, ¬ orderMet late u { f.order with scope := .wg }) ∧
     (∀ u ∈ f.tids, orderMet bad u f.order ∧ noPins bad u f.order) ∧ (∃ u ∈ f.tids, (bad.thr u).deferred ≠ none)) := by
  simp only [orderMet_iff, noPins]
  decide +kernel

theorem witness_WaitWords :
    (let i : Instr := .wait 0 0 0 0 0
     let s := ready i
     let met := fun (s : State) => ∀ u ∈ lanes i s, (s.thr u).octLoad ≤ 0 ∧ (s.thr u).octStore ≤ 0 ∧ (s.thr u).octCopy ≤ 0 ∧ (s.thr u).octTile ≤ 0
     let bad := withThr (fun x => { x with deferred := some { cause := 3, pc := 0, ea := 0 } }) s
     let busy := withThr (fun x => { x with octLoad := 1 }) s
     clear i s = true ∧ met s ∧ (∀ u ∈ lanes i s, (s.thr u).deferred = none ∧ ∀ e ∈ (s.thr u).tiles, e.cause = none) ∧
     clear i bad = true ∧ met bad ∧ (∃ u ∈ lanes i bad, (bad.thr u).deferred ≠ none) ∧
     (let stopped := withThr (fun x => { x with tiles := [{ flags := 0, cause := some 6, label := 0, pc := 0, addr := 0 }] }) s
      clear i stopped = true ∧ met stopped ∧ ∃ u ∈ lanes i stopped, ∃ e ∈ (stopped.thr u).tiles, e.cause ≠ none) ∧ clear i busy = true ∧ ¬ met busy) ∧
    (let held := fun (s : State) => { s with frags := tmod s.frags 0 fun f => { f with holding := true } }
     let s := ready (.ocenter 0 8)
     clear (.bar 0) s = true ∧ s.bundle.tids.any (holdsClause s) = false ∧ clear (.bar 0) (held s) = true ∧ (held s).bundle.tids.any (holdsClause (held s)) = true ∧
     clear (.lbar 1) s = true ∧ clear (.lbar 1) (held s) = true) ∧
    (let i : Instr := .cwait 0 20 4 3
     let s := based (ready i)
     clear i s = true ∧ (∀ u ∈ lanes i s, (s.wg (wgOf u)).mode = .plain) ∧ (lanes i s).any (acquirePending s) = false ∧ okSpan i s 4 8 { rd := true } = true ∧
     clear i (withRegs [(4, 0x1004)] s) = true ∧ okSpan i (withRegs [(4, 0x1004)] s) 4 8 { rd := true } = false) ∧
    (let i : Instr := .dtime 0 4 8
     clear i (ready i) = true ∧ ∀ u ∈ lanes i (ready i), anyPoison (readOpnd (ready i) u (.pair 8)) = false) := by decide +kernel

/-- The thread held as said. -/
def held (h : Hold) : State := idle fun x => { x with picker := .held, holds := [h] }

theorem witness_BoundaryWaitsEnd :
    (let h : Hold := .wait 0 0 0 0 0x10004 0x10004 0 [1024] 0
     (tfind (held h).threads 1024).isSome = true ∧ ((held h).thr 1024).picker = .held ∧ ((held h).thr 1024).holds = [h] ∧
     waitMet ((held h).thr 1024) 0 0 0 0 = true ∧ ((held h).thr 1024).deferred = none ∧ ((held h).thr 1024).tiles = [] ∧
     waitMet ((idle fun x => { x with picker := .held, holds := [h], octLoad := 1 }).thr 1024) 0 0 0 0 = false ∧
     ((idle fun x => { x with picker := .held, holds := [h], deferred := some { cause := 3, pc := 0, ea := 0 } }).thr 1024).deferred ≠ none) ∧
    (let h : Hold := .cwait 0x1000 5 { kind := .acquire, scope := .wg } 1 none 0x10004
     let pin : Nat → Pin := fun v => { line := 0x40, bytes := leBytes v 64, label := 2, dom := 0, wg := 1, tid := 1024, pc := 0 }
     let s := fun v => (held h).modCu 0 fun u => { u with pins := [pin v] }
     ((s 5).thr 1024).holds = [h] ∧ (rangeOf (s 5) ((s 5).vfOf 1) 0x1000).any (fun r => decide (iaOf r.2 0x1000 = 0x1000 ∧ spaceOf r.2 = .mem)) = true ∧
     (∀ e ∈ (s 5).accs, e.2.tid ≠ 1024) ∧ ownPin (s 5) 0 0x40 = some (32, pin 5) ∧ 5 ≤ leNat (((pin 5).bytes.drop 0).take 8) ∧
     ownPin (s 4) 0 0x40 = some (32, pin 4) ∧ leNat (((pin 4).bytes.drop 0).take 8) < 5) ∧
    (let s := held (.bar 2)
     liveWg s 1 = [1024] ∧ (s.thr 1024).picker = .held ∧ (s.thr 1024).holds = [.bar 2] ∧ orderMet s 1024 { kind := .acqRel, scope := .wg } ∧
     (tfind s.wgs 1).isSome = true ∧ (let r := idle fun x => { x with picker := .running }
       liveWg r 1 ≠ [] ∧ ∃ u ∈ liveWg r 1, (r.thr u).picker = .running ∧ (r.thr u).frame.holds = [])) ∧
    (let s := { held (.lbar 1) with now := 1 }
     instanceWgs s 0 1 0 = [1] ∧ (s.wg 1).log = [] ∧ liveWg s 1 = [1024] ∧ (s.thr 1024).holds = [.lbar 1] ∧
     orderMet s 1024 { kind := .acqRel, scope := scopeOf ((((s.launch 0).levels[1]?).map (·.scope)).getD 0) } ∧
     noPins s 1024 { kind := .acqRel, scope := scopeOf ((((s.launch 0).levels[1]?).map (·.scope)).getD 0) }) ∧
    (((held (.dtime 0)).thr 1024).holds = [.dtime 0] ∧ (0 : DWord) ≤ (held (.dtime 0)).now ∧ (held (.dtime 1)).now < 1) ∧
    (((held (.await 7)).thr 1024).picker = .held ∧ sbBit ((held (.await 7)).thr 1024) 7 = false ∧
     sbBit ((idle fun x => { x with picker := .held, holds := [.await 7], sb := [(7, true)] }).thr 1024) 7 = true) := by
  simp only [orderMet_iff, noPins]
  decide +kernel

/-- A counter that CWAIT reads at its home: 5, or 4. -/
theorem witness_counter_at_home :
    let h : Hold := .cwait 0x1000 5 { kind := .acquire, scope := .wg } 1 none 0x10004
    let s : Byte → State := fun v => { inMemory (held h) with mem := writeBytes (held h).mem 0x1000 [v] }
    let bytes := fun v => (List.range 8).map fun j => (sget 0#8 (s v).mem (0x1000 + j), false)
    ((s 5).thr 1024).holds.head? = some h ∧ (tfind (s 5).groups 16).isSome = true ∧ pinHolders (s 5) 0x40 = [] ∧ liveCopy (s 5) 0 0 0x40 = none ∧
    ((s 5).launchOf 1).replay = false ∧ ((s 5).launchOf 1).requeued = false ∧ peerLine (s 5) 0x40 = false ∧
    (rangeOf (s 5) ((s 5).vfOf 1) 0x1000).any (fun r => memOk (s 5) (memSide (s 5) ((s 5).vfOf 1) ((s 5).grp 16).dom .mem r.2 0x1000 false 0)) = true ∧
    leNat ((forward (s 5) 1024 (s 5).fresh .mem 0x1000 (bytes 5)).1.map (·.1)) = 5 ∧
    leNat ((forward (s 4) 1024 (s 4).fresh .mem 0x1000 (bytes 4)).1.map (·.1)) = 4 := by decide +kernel

/-- `goodTarget` as a computation. -/
def goodB (s : State) (vf cid : Nat) (pc : DWord) : Bool :=
  (rangeOf s vf pc).any (fun r => permX r.2) && decide (pc.toNat % 4 = 0) && isPeriod (instrAt s vf cid (pc - 4))

theorem goodTarget_iff (s : State) (vf cid : Nat) (pc : DWord) : goodTarget s vf cid pc ↔ goodB s vf cid pc = true := by
  unfold goodTarget goodB
  rcases rangeOf s vf pc with _ | ⟨k, r⟩ <;> simp [and_assoc]

/-- Words at an address. -/
def withWords (a : Nat) (l : List Instr) (s : State) : State := { s with mem := putWords s.mem a (l.map fun i => (encode i).getD 0) }

/-- A BRX table in the CU's pin, and one at its home. -/
theorem witness_table_jumps :
    let j : Instr := .brx 0 3 6 16
    let s := inMemory (withRegs [(6, 1)] (withWords 0x10040 [.period 116 116 116] (ready j)))
    let line := readBytes s.mem 0x10040 64
    let c := s.modCu 0 fun u => { u with pins := [{ line := 0x401, bytes := line, label := 0, dom := 0, wg := 1, tid := 1024, pc := 0 }] }
    let r := ((rangeOf s 0 0x10048).map (·.2)).getD []
    let quiet := fun (s : State) => let x : Access := { kind := .load, tid := 1024, ea := 0x10048, ia := iaOf r 0x10048, space := spaceOf r }
      atomWaits s s.fresh x || loadWaits s s.fresh { x with inst := s.fresh }
    let copyAt := fun (s : State) => (cachedLine s 0 (s.wg 1).launch (s.grp 16).dom (spaceOf r) r (iaOf r 0x10048)).map (·.bytes)
    clear j s = true ∧ lanes j s = [1024] ∧ (lanes j s).any (acquirePending s) = false ∧ (readReg s 1024 6).poison = false ∧ (rv s 1024 6).toNat = 1 ∧
    tableRange s (wordAt j s) 3 6 16 1024 = some r ∧ spaceOf r = .mem ∧ iaOf r 0x10048 = 0x10048 ∧ quiet s = false ∧ copyAt s = none ∧
    (line.drop 8).take 4 = [0, 0, 0, 0] ∧ goodTarget s 0 0 0x10044 ∧ pinHolders s 0x401 = [] ∧ peerLine s 0x401 = false ∧
    (s.launchOf 1).replay = false ∧ (s.launchOf 1).requeued = false ∧ memOk s (memSide { s with agenda := s.agenda.tail } 0 (s.grp 16).dom .mem r 0x10048 false 0) = true ∧
    clear j c = true ∧ quiet c = false ∧ copyAt c = some line ∧ goodTarget c 0 0 0x10044 ∧
    rangeOf s 0 0x100000000 = none := by
  simp only [goodTarget_iff]
  decide +kernel

theorem witness_ControlTransfers :
    (let near := fun (s : State) (o : BitVec 21) => s.bundle.pc + o.signExtend 64 * 4
     let s := ready (.bra 0 0)
     let e := ready (.bra 0 5)
     clear (.bra 0 0) s = true ∧ (∀ u ∈ lanes (.bra 0 0) s, goodTarget s 0 0 (near s 0)) ∧
     clear (.bra 0 5) e = true ∧ lanes (.bra 0 5) e = [1024] ∧ ¬ goodTarget e 0 0 (near e 5)) ∧
    (let full := fun (s : State) (u : Nat) => (s.grp (gidOf u)).retdepth ≤ (s.thr u).rstack.length
     let s := ready (.call 0 0)
     let f := withGrp (fun g => { g with retdepth := 0 }) s
     clear (.call 0 0) s = true ∧ (∀ u ∈ lanes (.call 0 0) s, goodTarget s 0 0 (s.bundle.pc + 0) ∧ ¬ full s u) ∧
     clear (.call 0 0) f = true ∧ (∀ u ∈ lanes (.call 0 0) f, full f u)) ∧
    (let i : Instr := .brx 0 3 6 0
     let s := ready i
     clear i s = true ∧ (lanes i s).any (acquirePending s) = false ∧
     (∀ u ∈ lanes i (poisoned 6 s), (readReg (poisoned 6 s) u 6).poison = true) ∧ clear i (poisoned 6 s) = true ∧
     clear i (withRegs [(6, 4)] s) = true ∧ (∀ u ∈ lanes i s, (readReg s u 6).poison = false ∧ 3 < (rv (withRegs [(6, 4)] s) u 6).toNat)) ∧
    (let i : Instr := .callx 0 10
     let s := withWords 0x10040 [.period 116 116 116, .land 0x5A3C] (withRegs [(10, 0x10044), (11, 0x5A3C0000#32)] (ready i))
     let bad := withRegs [(11, 0x5A3D0000#32)] s
     clear i s = true ∧ (∀ u ∈ lanes i s, anyPoison (readOpnd s u (.pair 10)) = false ∧ goodTarget s 0 0 (d64 ((pv s u 10).toNat % 2 ^ 48)) ∧
       instrAt s 0 0 (d64 ((pv s u 10).toNat % 2 ^ 48)) = some (.land 0x5A3C#16) ∧ (pv s u 10).toNat / 2 ^ 48 = 0x5A3C) ∧
     (∀ u ∈ lanes i bad, goodTarget bad 0 0 (d64 ((pv bad u 10).toNat % 2 ^ 48)) ∧ (pv bad u 10).toNat / 2 ^ 48 = 0x5A3D) ∧ clear i bad = true ∧
     clear i (poisoned 10 s) = true ∧ (∀ u ∈ lanes i s, anyPoison (readOpnd (poisoned 10 s) u (.pair 10)) = true)) ∧
    (let i : Instr := .ret 0
     let s := withThr (fun x => { x with rstack := [(0x10004, 4)] }) (ready i)
     clear i s = true ∧ (∀ u ∈ lanes i s, (s.thr u).rstack = [(0x10004, 4)] ∧ goodTarget s 0 0 0x10004) ∧
     clear i (ready i) = true ∧ ∀ u ∈ lanes i (ready i), ((ready i).thr u).rstack = []) := by
  simp only [goodTarget_iff]
  decide +kernel


theorem witness_SentenceEndHintsAndAdverbs :
    (let s := ready (.period 8 9 116)
     let b := s.bundle
     tfind s.pipes s.turn = some b ∧ b.fence = none ∧ b.tids.Nodup ∧ (∀ u ∈ b.tids, (tfind s.threads u).isSome = true) ∧
     legal (.period 8 9 116) = true ∧ (∀ f ∈ [8, 9], allotOk (s.grp (gidOf (b.tids.headD 0))).vregs (s.grp (gidOf (b.tids.headD 0))).oregs f = true) ∧
     legal (.period 117 116 116) = false ∧
     (let s := withGrp (fun g => { g with vregs := 8 }) s
      ∃ f ∈ [8, 9], allotOk (s.grp (gidOf (b.tids.headD 0))).vregs (s.grp (gidOf (b.tids.headD 0))).oregs f = false)) ∧
    [Instr.nop 0, .land 0x5A3C, .yield 0, .advImm 5, .advRound 0 0 1, .advMemhint 1 0, .advXopnd 9, .advSched 1 1].all
      (fun i => clear i (match i with | .land _ => withBundle (fun b => { b with pos := 0 }) (ready i) | _ => ready i)) = true := by decide +kernel

/-- The special registers that SRD reads (R52), to an even register. -/
def readable : List (BitVec 7) :=
  [0x00, 0x01, 0x02, 0x03, 0x04, 0x05, 0x06, 0x07, 0x08, 0x09, 0x0A, 0x0B, 0x10, 0x11, 0x12, 0x13, 0x14, 0x15, 0x16, 0x17, 0x18, 0x19, 0x40, 0x7F]

theorem witness_SpecialRegisterReads : readable.all (fun n => clear (.srd 0 8 n) (ready (.srd 0 8 n))) = true := by decide +kernel

/-- The registers that SWR writes (R52). -/
def writable : List (BitVec 7) := [0x02, 0x03, 0x07, 0x0B, 0x11, 0x12, 0x15, 0x16, 0x17, 0x18, 0x19, 0x40, 0x7F]

theorem witness_SpecialRegisterWrites :
    writable.all (fun n => let i : Instr := .swr 0 8 n
      let s := ready i
      clear i s && s.accs.isEmpty && s.gids.all (holdsGroup s s.bundle.tids) && (lanes i s).all fun u =>
        decide (opndLabel s (gidOf u) ((wordAt i s).srcs.headD (.r 116#7)) &&& ~~~((s.grp (gidOf u)).ctx ||| (wordAt i s).guardLabel s (gidOf u)) = 0)) = true ∧
    (let i : Instr := .swr 0 8 0x11
     let s := withGrp (fun g => { g with lreg := [(8, 4)] }) (ready i)
     clear i s = true ∧ ∀ u ∈ lanes i s, opndLabel s (gidOf u) ((wordAt i s).srcs.headD (.r 116#7)) &&&
       ~~~((s.grp (gidOf u)).ctx ||| (wordAt i s).guardLabel s (gidOf u)) ≠ 0) ∧
    (let i : Instr := .swr 0 8 0x19
     let s := { ready i with threads := tput (ready i).threads 1025 ((ready i).thr 1024) }
     clear i s = true ∧ ∀ u ∈ s.bundle.tids, holdsGroup s s.bundle.tids (gidOf u) = false) ∧
    clear (.lblr 0 2 5) (ready (.lblr 0 2 5)) = true ∧
    ([116, 9, 121].all fun d => clear (.lblraise 0 d 3) (ready (.lblraise 0 d 3))) = true ∧
    (let i : Instr := .lblraise 0 116 3
     (∀ u ∈ lanes i (ready i), (readReg (ready i) u 3).poison = false) ∧ clear i (poisoned 3 (ready i)) = true ∧
     ∃ u ∈ lanes i (poisoned 3 (ready i)), (readReg (poisoned 3 (ready i)) u 3).poison = true) := by decide +kernel

theorem witness_TrapEntry :
    (let s := handled (ready (.nop 0))
     (∀ u ∈ [1024], (tfind s.threads u).isSome = true ∧ hasHandler s u) ∧ [1024].Nodup) ∧
    (let s := ready (.nop 0)
     alive (s.thr 1024) = true ∧ (s.grp 16).tvec = 0 ∧ (tfind s.wgs 1).isSome = true ∧ (s.wg 1).halted = false ∧
     (tfind s.launches (s.wg 1).launch).isSome = true) ∧
    (let i : Instr := .iadd 0 9 2 3
     let s := handled (ready i)
     let small := withGrp (fun g => { g with vregs := 8 }) s
     tfind s.pipes s.turn = some s.bundle ∧ s.bundle.fence = none ∧ s.bundle.tids.Nodup ∧
     (∀ u ∈ s.bundle.tids, (tfind small.threads u).isSome = true ∧ hasHandler small u) ∧ (shape i).word = true ∧
     wordCheck small (wordAt i small) = some 0x02 ∧ legal (.iadd 8 9 2 3) = false) := by
  simp only [hasHandler]
  decide +kernel

theorem witness_TrapWords :
    (let off := fun (i : Instr) => clear i (ready i) = true ∧ lanes i (ready i) = []
     let on := fun (i : Instr) => let s := handled (ready i)
       clear i s = true ∧ lanes i s ≠ [] ∧ ∀ u ∈ s.bundle.tids, hasHandler s u
     off (.trap 1 9) ∧ off (.bkpt 1) ∧ on (.trap 0 9) ∧ on (.bkpt 0)) ∧
    (let s := ready .tret
     let inside := withThr (fun x => { x with frame := { x.frame with inh := true, tfrpc := 0x10004 } }) s
     let lost := withThr (fun x => { x with frame := { x.frame with inh := true, tfrpc := 0x10008 } }) s
     clear .tret inside = true ∧ (∀ u ∈ inside.bundle.tids, (inside.thr u).frame.inh = true ∧ tretOk inside u = true ∧
       (inside.thr u).frame.tfrpc = 0x10004 ∧ (inside.thr u).frame.pos = 0 ∧ (inside.thr u).frame.holds = []) ∧
     clear .tret s = true ∧ (∀ u ∈ s.bundle.tids, (s.thr u).frame.inh = false) ∧
     clear .tret lost = true ∧ (∀ u ∈ lost.bundle.tids, (lost.thr u).frame.inh = true ∧ tretOk lost u = false)) ∧
    (let s := ready .ctxyield
     let inside := withThr (fun x => { x with cause := 0x17, frame := { x.frame with inh := true } }) s
     clear .ctxyield inside = true ∧ (∀ u ∈ inside.bundle.tids, (inside.thr u).frame.inh = true ∧ (inside.thr u).cause = 0x17) ∧
     clear .ctxyield s = true ∧ ∀ u ∈ s.bundle.tids, (s.thr u).frame.inh = false) := by
  simp only [hasHandler]
  decide +kernel

/-- A command in g8 to g11, and a counter base in g2. -/
def withCmd (q : List DWord) (base : DWord) (s : State) : State :=
  withGrp (fun g => { g with g := ((List.range 4).zip q).foldl (fun m e => sset {} m (8 + e.1) { val := e.2 }) (sset {} g.g 2 { val := base }) }) s
/-- The copy ring of the workgroup, changed. -/
def withCopy (f : CopyRing → CopyRing) (s : State) : State := withWg (fun g => { g with mem := { g.mem with copy := f g.mem.copy } }) s
/-- The page of IA 0 is backed. -/
def paged (s : State) : State := { s with pages := [(0, { b := true })] }

theorem witness_CopyWordsPublish :
    let regs : List DWord := [0x0004000000002000#64, 20, 0x0000000100000008#64, 0]
    let ok := fun (i : Instr) (s : State) (gate : Bool) => clear i s = true ∧ (∀ u ∈ lanes i s, (s.wg (wgOf u)).mode = .plain) ∧
      groupsOf (lanes i s) = [16] ∧ (tfind s.wgs 1).isSome = true ∧
      cmdFails s 1 (cmdOf s 16 8) (counterOf s 16 8 2) gate = [] ∧ cmdPoison s 16 8 2 = false
    let room := fun (i : Instr) (s : State) => octFull s .copy (lanes i s) = false ∧ 1 ≤ copyRoom s 1
    let full := withCopy fun c => { c with pub := 4 }
    (let i : Instr := .xcpy 0 8 2
     let s := withCmd regs 0x1000 (ready i)
     ok i s false ∧ room i s ∧ copyWords s 1 = some (0x1000, 4, 0x1100) ∧ 2 ^ 32 % 4 = 0 ∧ cKind (cmdOf s 16 8) = 4 ∧ cEmpty (cmdOf s 16 8) = false ∧
     liveOf s 16 = [1024] ∧ regsBusy s 1 (cmdOf s 16 8) = false ∧ ok i (full s) false ∧ ¬ room i (full s) ∧ copyRoom (full s) 1 = 0 ∧
     (let busy := withThr (fun x => { x with octCopy := 255 }) s
      ok i busy false ∧ octFull busy .copy (lanes i busy) = true) ∧
     clear i (withCmd regs 0x1001 s) = true ∧ cmdFails (withCmd regs 0x1001 s) 1 (cmdOf s 16 8) (counterOf (withCmd regs 0x1001 s) 16 8 2) false ≠ []) ∧
    (let i : Instr := .gate 0 8 2
     let s := withCmd [] 0x1000 (ready i)
     ok i s true ∧ room i s ∧ ok i (full s) true ∧ ¬ room i (full s) ∧
     clear i (withCmd regs 0x1000 s) = true ∧ cmdFails (withCmd regs 0x1000 s) 1 (cmdOf (withCmd regs 0x1000 s) 16 8) 0x1000 true ≠ []) := by
  decide +kernel

/-- A command of the copy engine, number 0. -/
def withCommand (c : CopyCmd) (s : State) : State := { s with cmds := [(0, c)], fresh := s.fresh + 1 }
/-- Eight zero bytes to VA 0x2000. -/
def fill : CopyCmd :=
  { wg := 1, gid := 16, gate := false, q := [0x0100000000000000#64, 0x2000, 0x0000000100000008#64, 0], counter := 0x1000, cmdLabel := 0, dataLabel := 0
    targets := [(0, 1, 1)], tids := [1024] }
/-- Eight zero bytes to v20 and v21. -/
def fillRegs : CopyCmd := { fill with q := [0x0104000000000000#64, 20, 0x0000000100000008#64, 0] }
/-- A command with nothing to write. -/
def empty : CopyCmd := { fill with q := [0, 0, 0, 0] }

theorem witness_CopyEngineSteps :
    (let s := idle id
     copyWords s 1 = some (0x1000, 4, 0x1100) ∧ (tfind s.wgs 1).isSome = true ∧ (s.wg 1).ended = false ∧ (s.wg 1).mem.copy.stop = false) ∧
    (let s := withCopy (fun c => { c with pub := 1, active := true }) (idle id)
     let bad := fun (s : State) => (cmdFails s 1 ((slotWords s 1 0x1000).take 4) (((slotWords s 1 0x1000).drop 4).headD 0) false).map (·.1) ++
       if spadBad s 1 0x1000 40 then [0x12] else []
     let odd := withWg (fun g => { g with mem := { g.mem with spad := writeBytes g.mem.spad 0x1000 (([0x0100000000000000, 0x2000, 0x0000000100000008, 0, 0x1001].map fun v => leBytes v 8).flatten) } }) s
     cmdsOf s 0 < 32 ∧ nextRing (idle id) 0 = none ∧ (targetsOf s 1 ((slotWords s 1 0x1000).take 4)).2 = false ∧ nextRing s 0 = some (0, 1) ∧ nextSlot s 1 = some (0, 0x1000) ∧ bad s = [] ∧
     sget false (s.wg 1).mem.copy.kind 0 = false ∧
     nextRing odd 0 = some (0, 1) ∧ nextSlot odd 1 = some (0, 0x1000) ∧ minOf (bad odd) = some 6) := by decide +kernel

/-- The first piece of a command's unit brings n bytes, and leaves the commands as they are. -/
def brings (s : State) (c : CopyCmd) (n : Nat) : Bool :=
  match cmdRead s c (unitAt c (unitOf c 0)) 0 with
  | .ok s2 bs _ _ => decide (bs.length = n ∧ s2.cmds = s.cmds)
  | .wait _ | .refused _ _ _ => false
/-- The cause its first piece is refused with. -/
def refusesRead (s : State) (c : CopyCmd) : Option Nat :=
  match cmdRead s c (unitAt c (unitOf c 0)) 0 with
  | .refused _ k _ => some k
  | .wait _ | .ok _ _ _ _ => none

theorem witness_copy_unit :
    (let s := paged (withCommand fill (idle id))
     let x := unitAt fill (unitOf fill 0)
     tfind s.cmds 0 = some fill ∧ cmdWritten fill = false ∧ fill.gate = false ∧ fill.buf.length < x.hi - x.lo ∧ cKind fill.q = 0 ∧
     brings s fill 8 = true ∧ 8 ≤ x.hi - x.lo ∧
     (rangeOf s (s.vfOf fill.wg) 0x2000).any (fun r => decide (spaceOf r.2 = .mem ∧ iaOf r.2 0x2000 = 0x2000)) = true ∧ pinHolders s (0x2000 / 64) = [] ∧
     (s.launchOf fill.wg).replay = false) ∧
    (let late : CopyCmd := { fill with cur := some 0, buf := (leBytes 0 8).map fun b => (b, false) }
     cmdWritten late = false ∧ (unitAt late (unitOf late 0)).hi - (unitAt late (unitOf late 0)).lo ≤ late.buf.length) ∧
    (let c : CopyCmd := { fill with q := [0x3004, 0x2000, 0x0000000100000010#64, 0] }
     let s := paged (withCommand c (idle id))
     brings s c 12 = true ∧ 12 < (unitAt c 0).hi - (unitAt c 0).lo ∧
     (let far : CopyCmd := { fill with q := [0x200000000#64, 0x2000, 0x0000000100000008#64, 0] }
      refusesRead (withCommand far (idle id)) far = some 4)) ∧
    (let c : CopyCmd := { fill with q := [0x0101000000000000#64, 0x2000, 0x0000000100000008#64, 0] }
     let s := withCommand c (idle id)
     (cKind c.q = 1 ∨ cKind c.q = 2) ∧ targetLive s (0, 1, 1) = true ∧ brings s c 8 = true) ∧
    (let c : CopyCmd := { fill with q := [0x0103000000000000#64, 3, 0x0000000100000008#64, 0] }
     let s := withCommand c (idle id)
     cKind c.q = 3 ∧ bit (cDest c.q) 12 = false ∧ (tfind (s.wg 1).mem.rings 3).any (fun r => !r.desc.copy && decide (r.puts.length < 64)) = true ∧ (s.wg 1).ended = false ∧ brings s c 8 = true) ∧
    (let s := withCommand fillRegs (idle id)
     tfind s.cmds 0 = some fillRegs ∧ cmdWritten fillRegs = false ∧ cKind fillRegs.q = 4 ∧ (tfind s.threads 1024).isSome = true ∧ alive (s.thr 1024) = true ∧
     1024 ∈ liveOf s 16 ∧ brings s fillRegs 8 = true ∧ 20 + cRowBytes fillRegs.q / 4 ≤ 112) ∧
    (let s := paged (withCommand empty (idle id))
     tfind s.cmds 0 = some empty ∧ cmdWritten empty = true ∧ empty.puts = [] ∧ empty.gate = false ∧ cScope empty.q < 2 ∧ counterFails s 0 empty.counter = [] ∧
     (rangeOf s (s.vfOf empty.wg) empty.counter).any (fun r => decide (spaceOf r.2 = .mem ∧ iaOf r.2 empty.counter = 0x1000)) = true ∧
     pinHolders s (0x1000 / 64) = [] ∧ (s.launchOf empty.wg).replay = false ∧ (s.launchOf empty.wg).requeued = false ∧ empty.tids.Nodup ∧
     (tfind s.threads 1024).isSome = true ∧ minOf ((counterFails s 0 0x1001).map (·.1)) = some 6) := by
  decide +kernel

/-- The memory side answers an unlabelled access to a backed page with no restriction. -/
theorem side_ok (s : State) (vf : Nat) (dom : BitVec 8) (r : List DWord) (ia : Nat) (wr : Bool) (h : s.page ia = { b := true })
    (hw : inWindows s (s.partOf vf) ia = true) : memSide s vf dom .mem r ia wr 0 = .ok s := by
  simp [memSide, h, hw, linkDown, backPage]

/-- So it answers such a unit, whatever the command has become, and such a counter. -/
theorem witness_copy_side (r : List DWord) :
    (∀ f : CopyCmd → CopyCmd, memSide ((paged (withCommand fill (idle id))).modCmd 0 f) 0 0 .mem r 0x2000 true 0 = .ok ((paged (withCommand fill (idle id))).modCmd 0 f)) ∧
    memSide (paged (withCommand empty (idle id))) 0 0 .mem r 0x1000 true 0 = .ok (paged (withCommand empty (idle id))) :=
  ⟨fun f => side_ok _ _ _ _ _ _ (show (paged (withCommand fill (idle id))).page 0x2000 = _ by decide +kernel)
      (show inWindows (paged (withCommand fill (idle id))) ((paged (withCommand fill (idle id))).partOf 0) 0x2000 = true by decide +kernel),
   side_ok _ _ _ _ _ _ (by decide +kernel) (by decide +kernel)⟩

/-- A gate transfer of no bytes, of a label, to a host range of principal 3; and its state with policies. -/
def gated (l : Label) : CopyCmd := { fill with gate := true, q := [0, 0x100000000#64, 0, 0], cmdLabel := l }
def gateState (l : Label) (p : List Policy) : State :=
  let s := withCommand (gated l) (idle id)
  let s := s.modCtx 0 fun c => { c with ranges := c.ranges ++ [(3, [0x100000000#64, 0x100000000#64, 0, 0xE430000000000000#64])] }
  { s with pkg := { s.pkg with policies := p } }
def allow : Policy := { dom := 0, label := 12, dests := 8, serial := 0, budget := 5, expiry := 5 }

/-- A gate transfer of 8 or 32 bytes from VA 0x3000. -/
def gateReads (n : Nat) : CopyCmd := { gated 0 with q := [0x3000, 0x100000000#64, d64 (0x100000000 + n), 0] }
def gateReading (n : Nat) : State := paged { gateState 0 [] with cmds := [(0, gateReads n)] }

theorem witness_GateDecides :
    (let r := fun n => (gateRead (gateReading n) (gateReads n)).2.map fun c => c.data.length
     (gateReads 8).data.length < 1 * 8 ∧ cRows (gateReads 8).q * cRowBytes (gateReads 8).q = 8 ∧ cEmpty (gateReads 8).q = false ∧
     r 8 = some 8 ∧ (gateRead (gateReading 8) (gateReads 8)).1.cmds = (gateReading 8).cmds ∧ r 32 = some 16 ∧
     (gateRead (pinned 0 0xC0 (gateReading 8)) (gateReads 8)).2.isNone = true) ∧
    (let s := gateState 8 []
     tfind s.cmds 0 = some (gated 8) ∧ (gated 8).gate = true ∧ (gated 8).decided = false ∧ (gated 8).status = 0 ∧ (gated 8).asked = false ∧
     cEmpty (gated 8).q = true ∧ s.vfOf 1 = 0 ∧ (s.wg 1).launch = 0 ∧ bit (s.part (s.partOf 0)).mode.toNat 4 = false ∧
     (rangeOf s 0 (d64 (bits (cDest (gated 8).q) 0 48))).any (fun r => decide (spaceOf r.2 = .host ∧ prinOf r.2 = 3)) = true ∧
     (rangeOf s 0 (d64 (bits (cDest empty.q) 0 48))).any (fun r => decide (spaceOf r.2 = .mem)) = true) ∧
    (8 &&& (8 - 1) = (0 : Label) ∧ 4 &&& ~~~(1#16 <<< 3) ≠ (0 : Label) ∧ 8 &&& ~~~(1#16 <<< 3) = (0 : Label) ∧ 12 &&& (12 - 1) ≠ (0 : Label)) ∧
    (let found := fun (s : State) => s.pkg.policies.find? fun p => decide (p.dom = (s.ctx 0).dom ∧ p.label = 12)
     found (gateState 12 []) = none ∧ found (gateState 12 [allow]) = some allow ∧ ¬ allow.expiry ≤ (gateState 12 [allow]).now ∧
     (gateState 12 [allow]).now < allow.expiry ∧ allow.expiry ≤ ({ gateState 12 [allow] with now := 5 } : State).now ∧
     allow.dests.getLsbD 3 = true ∧ ({ allow with dests := 4 } : Policy).dests.getLsbD 3 = false ∧ 0 ≤ allow.budget.toNat ∧
     allow.budget.toNat < 8) := by
  decide +kernel

theorem witness_MatrixWords :
    (let i : Instr := .gang 0 3
     let s := fun (v : GCell) => withGrp (fun g => { g with g := sset {} g.g 3 v }) (ready i)
     let good := fun (v : Nat) => bits v 39 25 = 0 ∧ bits v 35 1 = 0 ∧ 2 ≤ bits v 32 3 ∧ bits v 32 3 ≤ 6 ∧ bits v 36 3 < bits v 32 3
     let off : Instr := .gang 1 3
     clear off (withGrp (fun g => { g with g := sset {} g.g 3 { val := 0, plo := true } }) (ready off)) = true ∧
     lanes off (withGrp (fun g => { g with g := sset {} g.g 3 { val := 0, plo := true } }) (ready off)) = [] ∧
     clear i (s { val := 0x1200000005#64 }) = true ∧ lanes i (s { val := 0x1200000005#64 }) ≠ [] ∧ good 0x1200000005 ∧
     clear i (s { val := 0x2200000005#64 }) = true ∧ ¬ good 0x2200000005 ∧ clear i (s { val := 0, plo := true }) = true) ∧
    (let i : Instr := .mxprog 0 9
     clear i (ready i) = true) ∧
    (let i : Instr := .mxprogClr 0
     clear i (ready i) = true ∧ lanes i (ready i) ≠ []) ∧
    (let i : Instr := .mxop 0 12 3 0
     let s := ready i
     let member := withGrp (fun g => { g with conjN := 2 }) s
     let full := withThr (fun x => { x with octTile := 255 }) member
     clear i s = true ∧ lanes i s ≠ [] ∧ (s.grp 16).conjN = 0 ∧ clear i full = true ∧ (full.grp 16).conjN ≠ 0 ∧ octFull full .tile (lanes i full) = true ∧
     clear i member = true ∧ lanes i member ≠ [] ∧ 2 ≤ (member.grp 16).conjN.toNat ∧ (member.grp 16).mx = none ∧
     octFull member .tile (lanes i member) = false ∧ (∀ e ∈ member.groups, e.1 ≠ 16 → e.2.arrival = none) ∧ (member.groups.map (·.1)).Nodup ∧
     ∀ u ∈ liveOf member 16, u ∈ member.bundle.tids) := by decide +kernel

/-- A tile of one element of format 0 with A and B in scratchpad, of a depth. -/
def tile (k : Nat) : List DWord := [0, 0, d64 (2 ^ 41 + 2 ^ 42 + k * 2 ^ 18 + 2 ^ 9 + 1), 0]
/-- The workgroup holds bank 0. -/
def withBank (b : Bank) (s : State) : State := s.modCu 0 fun u => { u with banks := [(0, b)] }
/-- Two members at a rendezvous, with these descriptors. -/
def gang (d e : List DWord) : State :=
  let s := withBank { state := .held 1 } (idle id)
  let arr := fun (d : List DWord) => ({ word := [0, 3, 12], desc := d.map fun v => { val := v }, label := 0, counting := [], pc := 0x10004 } : MxArrival)
  let g := { s.grp 16 with conjN := 2 }
  { s with groups := tput (tput s.groups 16 { g with arrival := some (arr d) }) 17 { g with conjPos := 1, arrival := some (arr e) } }

theorem witness_gang_fires :
    (let s := gang (tile 4) (tile 4)
     [16, 17] ≠ [] ∧ [16, 17].Nodup ∧ (∀ q ∈ [16, 17], (tfind s.groups q).isSome = true ∧ (s.grp q).faulted = false) ∧
     (s.grp 16).arrival.any (fun a => decide (a.word = [0, 3, 12] ∧ a.desc.map (·.val) = tile 4)) = true ∧ mxFails s [16, 17] 0 4 (tile 4) = [] ∧
     (∀ q ∈ [16, 17], ∀ u ∈ liveOf s q, (tfind s.threads u).isSome = true)) ∧
    (let s := gang (tile 4) (tile 8)
     (s.grp 16).arrival.map (fun a => a.desc.map (·.val)) ≠ (s.grp 17).arrival.map fun a => a.desc.map (·.val)) ∧
    minOf ((mxFails (gang (tile 0) (tile 0)) [16, 17] 0 4 (tile 0)).map (·.1)) = some 0x18 := by decide +kernel

/-- An operation in flight, number 0, of group 16 on the array of CU 0. -/
def op (k : Nat) : MxOp :=
  { pc := 0x10004, fmt := 0, p := 4, desc := tile k, key := 5, n := 2, members := [16], hosts := [{ cid := 0, firstWg := 1 }], counting := [1024], label := 0 }
def withHost (h : MxHost) (o : MxOp) : MxOp := { o with hosts := [h] }
def started (o : MxOp) : MxOp := withHost { cid := 0, firstWg := 1, started := true, load := some { k := o.kdone } } o
def withOp (o : MxOp) : State := { withBank { state := .held 1 } (idle id) with mxops := [(0, o)], cycle := 1 }
/-- A unit of an operand, of one byte 3 and zeros, is what its unit's number says it read. -/
def operandUnit : MxUnit := { bytes := leBytes 3 16 }
/-- The block of an operation whose first host has read its units. -/
def readUp (o : MxOp) : MxLoad := { k := o.kdone, got := (mxUnits o 0 o.kdone).foldl (fun t u => tput t u operandUnit) [] }
/-- The block it sums then. -/
def summed (o : MxOp) : MxOp := withHost { cid := 0, firstWg := 1, started := true, full := some (sumBlock o 0 (readUp o)) } o

theorem witness_MatrixSteps :
    (let s := withOp (op 4)
     tfind s.mxops 0 = some (op 4) ∧ (op 4).at_ < s.cycle ∧ (∀ e ∈ s.mxops, e.1 = 0) ∧ dAcc (op 4).desc = false ∧ (op 4).resumed = false ∧
     ({ s with cycle := 0 } : State).cycle ≤ (op 4).at_) ∧
    (let o := started (op 4)
     let s := withOp o
     mxUnits o 0 0 = [1] ∧ (mxUnits { o with desc := o.desc.set 1 0x100 } 0 0).length = 2 ∧
     ((mxUnits o 0 0).all fun key =>
       let r := readUnit s (s.wg 1).launch (s.vfOf 1) 1 key
       r.unit.isSome && decide (r.st.mxops = s.mxops)) = true ∧ bankHolder (bankOf s 0 0).state = some 1) ∧
    (let x : BankWait := { zero := false, label := 0, gid := 16 }
     let s := withBank { state := .held 1, waits := [x] } (idle id)
     let busy := withBank { state := .held 1, waits := [x] } (withOp (started (op 4)))
     (bankOf s 0 0).waits = [x] ∧ bankHolder (bankOf s 0 0).state = some 1 ∧ mxWrites s 0 0 = false ∧ mxWrites busy 0 0 = true) := by decide +kernel

theorem witness_matrix_blocks :
    (∀ k ∈ [4, 8], let o := summed (op k)
     let s := withOp o
     let b := sumBlock o 0 (readUp o)
     tfind s.mxops 0 = some o ∧ ((hostSums o 0 (o.hosts.headD { cid := 0, firstWg := 1 })).full.map fun x => x.k) = some o.kdone ∧
     b.passes.all passOk = true ∧ b.fails = [] ∧ b.spadFails = [] ∧ tileBad s o 0 0 = false ∧ (o.hosts.map (·.cid)).Nodup ∧
     ((b.passes[0]?).map fun p => (p.rows.length, p.cols.length)) = some (1, 1) ∧
     (∀ q ∈ o.members, (tfind s.groups q).isSome = true ∧ (s.grp q).arrival = none)) ∧
    (let o := op 4
     let b := readUp o
     (loadedLanes o 0 b false)[0]?.isSome = true ∧ (loadedLanes o 0 b true)[0]?.isSome = true) ∧
    (let o := summed (op 4)
     let upset := fun (p : MxPass) => { p with rows := p.rows.map fun e => { e with res := e.res + 1 } }
     ((sumBlock o 0 (readUp o)).passes.map upset).all passOk = false ∧ o.members.Nodup ∧ o.counting.Nodup ∧
     ∀ u ∈ o.counting, (tfind (withOp o).threads u).isSome = true ∧ alive ((withOp o).thr u) = true) ∧
    (let o := summed (op 4)
     let b := readUp o
     let broken := { b with got := b.got.map fun e => (e.1, { e.2 with bad := [(0, 0x40)] }) }
     minOf (sumBlock o 0 broken).spadFails = some 0x40 ∧ (sumBlock o 0 broken).fails = []) := by decide +kernel

theorem witness_DrainIsInnerProduct : ([3, -2] : List Int).length = ([5, 7] : List Int).length ∧
    (1 : Int) = ((([3, -2] : List Int).zip [5, 7]).map fun e => e.1 * e.2).sum ∧ -(2 ^ 30 : Int) ≤ 1 ∧ (1 : Int) < 2 ^ 30 := by decide

/-- The header declares AM banks. -/
def declared (n : Nat) (s : State) : State := withWg (fun g => { g with hdr := { g.hdr with ambanks := n } }) s

theorem witness_AccumulatorWords :
    (let i : Instr := .amalloc 0 9 4
     let run := fun (s : State) (b : Nat) => b + 4 ≤ 32 ∧ ∀ k, k < 4 → (bankOf s 0 (b + k)).state = .free
     let s := declared 8 (ready i)
     let taken := s.modCu 0 fun u => { u with banks := (List.range 8).map fun k => (4 * k, { state := .held 9 }) }
     clear i s = true ∧ lanes i s ≠ [] ∧ banksHeld s 1 + 4 ≤ (s.wg 1).hdr.ambanks ∧ run s 0 ∧
     clear i taken = true ∧ banksHeld taken 1 + 4 ≤ (taken.wg 1).hdr.ambanks ∧ (∀ b, b ≤ 28 → ¬ run taken b) ∧
     clear i (declared 3 s) = true ∧ (((declared 3 s).wg 1).hdr.ambanks < banksHeld (declared 3 s) 1 + 4)) ∧
    ([Instr.amfree 0 9 1, .amzero 0 9 1].all fun i =>
      let s := withBank { state := .held 1 } (ready i)
      clear i s && clear i (poisoned 9 s) && decide (minOf (lanes i s) = some 1024 ∧ (readReg s 1024 9).poison = false ∧
        (readReg (poisoned 9 s) 1024 9).poison = true ∧ mxWrites s 0 0 = false ∧ bankHolder (bankOf s 0 0).state = some 1)) = true ∧
    (let i : Instr := .amrd 0 9 10
     let reach := fun (s : State) => amAccess s 1024 0 0 0
     let s := ready i
     let held := withBank { state := .held 1 } s
     let band := withGrp (fun g => { g with conjKey := 5, conjN := 2, conjPos := 1 }) (withBank { state := .tagged 1 5 2 0 0 8 } s)
     clear i s = true ∧ (∀ e ∈ s.cus, e.2.amBad = []) ∧ kindFull s .amRead (lanes i s) = false ∧ (readReg s 1024 10).poison = false ∧ reach s = some false ∧
     clear i held = true ∧ reach held = some true ∧ clear i band = true ∧ reach band = none ∧
     clear i (poisoned 10 s) = true ∧ (readReg (poisoned 10 s) 1024 10).poison = true) ∧
    (let i : Instr := .amwr 0 9 10
     let reach := fun (s : State) => amAccess s 1024 0 0 0
     let held := withBank { state := .held 1 } (ready i)
     let band := withGrp (fun g => { g with conjKey := 5, conjN := 2, conjPos := 1 }) (withBank { state := .tagged 1 5 2 0 0 8 } (ready i))
     clear i held = true ∧ reach held = some true ∧ (readReg held 1024 9).poison = false ∧ clear i band = true ∧ reach band = none) := by decide +kernel

theorem witness_TextureAndWalkWords :
    ([Instr.tex 0 20 8, .texL 0 20 8, .texB 0 20 8, .texG 0 20 8, .texGather 0 20 8, .texqMinlod 0 20 8, .texqSize 0 20 8, .trace 0 20 8,
      .flwalk 0 20 8].all fun i =>
        let s := ready i
        let k : AccKind := match i with | .trace _ _ _ | .flwalk _ _ _ => .walk | _ => .tex
        clear i s && !kindFull s k (lanes i s) && !(readReg s 1024 8).poison && clear i (poisoned 8 s) && (readReg (poisoned 8 s) 1024 8).poison &&
        clear i (withThr (fun x => { x with octLoad := 255 }) s) && kindFull (withThr (fun x => { x with octLoad := 255 }) s) k (lanes i s)) = true ∧
    clear (.flwalk 0 20 116) (ready (.flwalk 0 20 116)) = true ∧
    (∀ k ∈ [AccKind.tex, .walk],
     let a : Access := { kind := k, tid := 1024, op := 1, dest := [20, 21, 22, 23] }
     let s := inFlight a (idle id)
     tfind s.accs 0 = some a ∧ a.dest.Nodup ∧ a.dest.length = 4 ∧ (∀ f ∈ a.dest, f < 112) ∧ a.pred = none ∧ (tfind s.threads a.tid).isSome = true ∧
     (tfind s.groups (gidOf a.tid)).isSome = true ∧ (s.wg (wgOf a.tid)).textab = 0 ∧ (s.wg (wgOf a.tid)).astab = 0) := by decide +kernel

/-- The thread's launch lies in a pass of one pixel with lists. -/
def withLists (s : State) : State :=
  { s.modLaunch 0 fun l => { l with pass := some 0 } with passes := [(0, { loadPass 0 with lists := true })] }

theorem witness_ListWordsAndOrder :
    ([Instr.flset 0 9 8, .flins 0 9 8, .traceAppend 0 9 8, .flins 0 116 8].all fun i =>
        let s := withLists (ready i)
        let full := withThr (fun x => { x with octStore := 255 }) s
        clear i s && !kindFull s .insert (lanes i s) && decide (lanes i s = [1024]) && !(readReg s 1024 8).poison && clear i full &&
        kindFull full .insert (lanes i s) && clear i (poisoned 8 s) && clear i (poisoned 9 s)) = true ∧
    listLane (withLists (ready (.flins 0 9 8))) 9 1024 = some 0 ∧ listLane (ready (.flins 0 9 8)) 9 1024 = none := by decide +kernel

/-- The thread's fragment, changed. -/
def withFrag (f : Frag → Frag) (s : State) : State := { s with frags := tmod s.frags 0 f }

theorem witness_ClauseAndThreadEndWords :
    (let i : Instr := .ocenter 0 116
     let s := withFrag (fun f => { f with registered := true }) (ready i)
     clear i s = true ∧ (fragOf s 1024).any (fun e => decide ((keyIn? s 1024 116).map keyOf = some (keyOf (fragKey e.2))) && e.2.registered && !e.2.popped) = true ∧
     clear i (ready i) = true ∧ (fragOf (ready i) 1024).any (fun e => !e.2.registered) = true ∧
     (let j : Instr := .ocenter 0 9
      clear j (poisoned 9 (ready j)) = true ∧ (readReg (poisoned 9 (ready j)) 1024 9).poison = true)) ∧
    (let i : Instr := .ocleave 0
     let s := withFrag (fun f => { f with registered := true }) (ready i)
     let busy := inFlight { kind := .store, tid := 1024 } s
     clear i s = true ∧ (∀ u ∈ lanes i s, registeredNow s u = true ∧ storesDone s u = true ∧ narrowPins s (wgOf u) .core = []) ∧
     clear i busy = true ∧ ∃ u ∈ lanes i busy, registeredNow busy u = true ∧ storesDone busy u = false) ∧
    clear (.ocskip 0) (ready (.ocskip 0)) = true ∧
    ([Instr.exit 0, .discard 0].all fun i => clear i (ready i) && decide (∀ u ∈ lanes i (ready i), registeredNow (ready i) u = false) &&
      decide (∀ e ∈ (ready i).threads, e.2.picker ≠ .parked)) = true := by decide +kernel

theorem witness_FragmentWords :
    (let i : Instr := .pixout 0 20 0
     clear i (ready i) = true ∧ lanes i (ready i) = [1024] ∧ anyPoison (readOpnd (ready i) 1024 (.quad 20)) = false ∧
     clear i (poisoned 20 (ready i)) = true ∧ anyPoison (readOpnd (poisoned 20 (ready i)) 1024 (.quad 20)) = true ∧
     (fragOf (ready i) 1024).isSome = true) ∧
    (let one := [0#32, 0, 0x3F800000#32]
     let tr : Tri := { seq := 0, zplane := one, wplane := one, attrs := [one], lin := [one], flat := [7], front := true }
     ∀ m ∈ [0, 1, 2, 3], let i : Instr := .interp 0 9 m 0
     let s := { (ready i).modLaunch 0 fun l => { l with draw := List.replicate 39 1 } with tris := [(0, [tr])] }
     clear i s = true ∧ (fragOf s 1024).any (fun e => decide (triOf s e.2 = some tr) && (passOf s e.2.launch).isSome &&
       decide (0 < (s.launch e.2.launch).nattr)) = true) := by decide +kernel

/-! ## Accesses at their home. -/

/-- An unlabelled access to a backed page is let through. -/
theorem through (s : State) (a : Access) (wr : Bool) (h : pinHolders s (lineOf a.space a.ia) = [] ∧ (s.launchOf (wgOf a.tid)).replay = false ∧
    (s.launchOf (wgOf a.tid)).requeued = false ∧ a.space = .mem ∧ s.page a.ia = { b := true } ∧
    inWindows s (s.partOf (s.vfOf (wgOf a.tid))) a.ia = true) : letThrough s a wr 0 := by
  obtain ⟨h1, h2, h3, h4, h5, h6⟩ := h
  refine ⟨h1, h2, h3, ?_⟩
  rw [h4]
  exact side_ok _ _ _ _ _ _ h5 h6

/-- A page that may be neither read nor written refuses an access. -/
theorem side_bad (s : State) (vf : Nat) (dom : BitVec 8) (r : List DWord) (ia : Nat) (wr : Bool) (l : Label) (h : s.page ia = { b := true, nr := true, nw := true }) :
    memSide s vf dom .mem r ia wr l = .refused 4 := by
  cases wr <;> simp [memSide, h]

def homeLoad : Access := { kind := .load, tid := 1024, ia := 0x1000, ea := 0x1000, dest := [9] }
def homeStore : Access := { kind := .store, tid := 1024, ia := 0x1000, ea := 0x1000, data := 7 }
def homeAtomic : Access := { kind := .atomr, tid := 1024, ia := 0x1000, ea := 0x1000, data := 7, dest := [9], engine := some 0 }
def atHome (a : Access) : State := paged (inFlight a (idle id))
/-- With a page that refuses. -/
def closed (s : State) : State := { s with pages := [(0, { b := true, nr := true, nw := true })] }

theorem witness_HomePerformsAccesses :
    letThrough (atHome homeLoad) homeLoad false 0 ∧ soundMemory (atHome homeLoad) ∧ letThrough (atHome homeStore) homeStore true 0 ∧
    (∀ wr l r, memSide (closed (atHome homeLoad)) 0 0 .mem r 0x1000 wr l = .refused 4) ∧
    (tfind (atHome homeLoad).accs 0 = some homeLoad ∧ fetchEnabled (atHome homeLoad) 0 homeLoad = true ∧ fetchGroup (atHome homeLoad) homeLoad = [(0, homeLoad)] ∧
     fetchEnabled (closed (atHome homeLoad)) 0 homeLoad = true ∧
     tfind (atHome homeStore).accs 0 = some homeStore ∧ writeEnabled (atHome homeStore) 0 homeStore = true ∧ writeEnabled (closed (atHome homeStore)) 0 homeStore = true ∧
     (let pin : Pin := { line := 0x40, bytes := leBytes 5 64, label := 0, dom := 0, wg := 2, tid := 2048, pc := 0 }
      let s := (atHome homeStore).modCu 16 fun u => { u with pins := [pin] }
      writeEnabled s 0 homeStore = true ∧ ownPin s (s.cidOf 1024) 0x40 = none ∧ pinnedElsewhere s (ownHolders (s.cidOf 1024)) 0x40 = true)) := by
  refine ⟨through _ _ _ ?_, memory_sound _ ?_ ?_, through _ _ _ ?_, fun wr l r => side_bad _ _ _ _ _ _ _ ?_, ?_⟩ <;> decide +kernel

theorem witness_home_pins :
    (let s := pinned 0 0x40 (atHome homeLoad)
     (ownPin s (s.cidOf 1024) 0x40).isSome = true ∧ fetchEnabled s 0 homeLoad = true ∧ (∀ e ∈ fetchGroup s homeLoad, e.2.fwd = none) ∧
     skipsL1 homeLoad = false ∧ peerLine s 0x40 = false) ∧
    (let s := pinned 16 0x40 (atHome homeLoad)
     ownPin s (s.cidOf 1024) 0x40 = none ∧ pinnedElsewhere s (ownHolders (s.cidOf 1024)) 0x40 = true ∧ fetchEnabled s 0 homeLoad = true) ∧
    (let a := { homeStore with order := { kind := .release, scope := .wg }, engine := some 32 }
     let s := atHome a
     writeEnabled s 0 a = true ∧ mergeGroup s 0 a = [(0, a)] ∧ (s.wg 1).ended = false ∧ (pinsOf s 32).length < 64 ∧ a.space = lineSpace 0x40 ∧
     a.ia / 64 * 64 = lineBase 0x40) ∧
    (let s := pinned 0 0x40 (atHome homeStore)
     writeEnabled s 0 homeStore = true ∧ mergeGroup s 0 homeStore = [(0, homeStore)] ∧ (ownPin s (s.cidOf 1024) 0x40).isSome = true) ∧
    (let a : Access := { homeLoad with kind := .fetch, dest := [] }
     fetchEnabled (atHome a) 0 a = true ∧ fetchGroup (atHome a) a = [(0, a)]) := by decide +kernel

theorem witness_AccessStepsComplete :
    letThrough (atHome homeAtomic) homeAtomic true 0 ∧ soundMemory (atHome homeAtomic) ∧
    (mayServe (atHome homeAtomic) 0 0 = true ∧ mayServe (atHome homeAtomic) 1 0 = false ∧ pins homeAtomic.order = false ∧ homeAtomic.fwd = none ∧
     ((atHome homeAtomic).wg 1).ended = false ∧ (pinsOf (atHome homeAtomic) 0).length < 64 ∧ homeAtomic.space = lineSpace 0x40 ∧
     (let a := { homeAtomic with order := { kind := .acqRel, scope := .core } }
      pins a.order = true ∧ mayServe (atHome a) 0 0 = true) ∧
     (let s := fun n => (atHome homeAtomic).modCore 0 fun x => { x with ownRun := n }
      mayServe (s 8) 0 0 = true)) ∧
    (let a := { homeStore with stage := .returned, wct := 9 }
     tfind (atHome a).accs 0 = some a ∧ (tfind (atHome a).threads 1024).isSome = true) ∧
    (let a := { homeStore with stage := .held, order := { kind := .release, scope := .dev }, after := [5] }
     let late := withThr (fun x => { x with wct := 9 }) (atHome a)
     let busy : State := { atHome a with accs := [(0, a), (5, homeStore)], now := 1 }
     (∀ k ∈ a.after, tfind (atHome a).accs k = none) ∧ narrowPins (atHome a) 1 a.order.scope = [] ∧ (late.now ≤ (late.thr 1024).wct) ∧
     (({ atHome a with now := 1 } : State).thr 1024).wct < 1 ∧ (∃ k ∈ a.after, tfind busy.accs k ≠ none)) ∧
    (let pin : Pin := { line := 0x40, bytes := leBytes 5 64, label := 0, dom := 0, wg := 1, tid := 1024, pc := 7, waitSince := some 0 }
     let s := (idle id).modCu 0 fun u => { u with pins := [pin] }
     pinAt s 32 0x40 = some pin ∧ (s.launch (s.wg 1).launch).replay = false ∧ (s.now - 0).toNat < 64000 ∧ 64000 ≤ ((64000 : DWord) - 0).toNat) ∧
    (let a := { homeLoad with stage := .refused 4 }
     a.retained = false ∧ ((atHome a).wg 1).twin = none ∧ alive ((atHome a).thr 1024) = true ∧ a.order.kind = .relaxed ∧ a.dest.Nodup ∧ ∀ f ∈ a.dest, f < 112) := by
  refine ⟨through _ _ _ ?_, memory_sound _ ?_ ?_, ?_⟩ <;> decide +kernel

/-! ## Pickers, queues, launches, render passes. -/

theorem witness_PickerFormsBundles :
    (let s := idle fun x => { x with picker := .ready }
     tfind s.pipes (0 * 4 + 0) = none ∧ parkedChoice s 0 = none ∧ readyOf s 0 = [1024] ∧ (s.threads.map (·.1)).Nodup) ∧
    (tfind State.reset.pipes 0 = none ∧ parkedChoice State.reset 0 = none ∧ readyOf State.reset 0 = []) ∧
    (let s := idle fun x => { x with picker := .parked }
     groupRuns s 16 = true ∧ pipeFree s 16 0 = true ∧ parkedChoice s (s.wg (16 / 16)).cid = some 16 ∧ tfind s.pipes (0 * 4 + 0) = none) := by decide +kernel

/-- A queue of VF 0. -/
def withQueue (q : Queue) (s : State) : State := s.modQueue 0 0 fun _ => q
/-- An enabled queue of four slots, its indices at VA 0x1000. -/
def openQueue : Queue := { w1 := 0x8020000000001000#64 }

/-- The device reaches these bytes at once, and nothing changes. -/
def touches (s : State) (va n : Nat) : Bool :=
  match devTouch s 0 va n with
  | .ok t => decide (t = s)
  | .error _ => false

theorem witness_QueuesAndEvents :
    (let s := paged (withQueue openQueue (idle id))
     let far := { s with mem := writeBytes s.mem 0x1000 [9] }
     awake s 0 = true ∧ vfBound s 0 = true ∧ queueOn (s.queue 0 0) = true ∧ bits (s.queue 0 0).w1.toNat 4 44 * 16 = 0x1000 ∧ touches s 0x1000 8 = true ∧
     devReadable s 0 0x1000 8 = true ∧ leNat (vaBytes s 0 0x1000 8) ≤ queueSlots (s.queue 0 0) ∧
     touches far 0x1000 8 = true ∧ devReadable far 0 0x1000 8 = true ∧ queueSlots (far.queue 0 0) < leNat (vaBytes far 0 0x1000 8) ∧
     bit (s.queue 0 0).w1.toNat 63 = true) ∧
    (let s := idle id
     awake s 0 = true ∧ (∀ q, q < 16 → (s.queue 0 q).head = none ∧ queueOn (s.queue 0 q) = false) ∧ bit (s.queue 0 0).w1.toNat 63 = false ∧
     (let a : HostAcc := .eventSet 0 0 1
      portReady s s.pkg.waiting a = true ∧ portReady (s.modPart 0 fun p => { p with power := 1 }) [] a = false ∧ portReady s [a] a = false)) ∧
    (let s := paged (idle id)
     let s1 := s.modQueue 0 0 fun y => { y with w1 := 0x8020000000001000#64 &&& 0x80F7FFFFFFFFFFF0#64 }
     touches s1 0x1008 8 = true ∧ (0x8020000000001000#64).getLsbD 63 = true ∧ (0x1000#64).getLsbD 63 = false) ∧
    nextCandidate (withQueue { openQueue with head := some 0 } (idle id)) 0 = some (0, 0) := by decide +kernel

/-- The launch of the state, changed; every workgroup gone, one core in the partition. -/
def emptyWith (f : Launch → Launch) : State :=
  { ((idle id).modLaunch 0 fun l => f { l with levels := [], nlev := 0, total := 2, next := 0, header := { roles := [{ entry := 0x10004 }] } }).modPart 0
      fun p => { p with w0 := 1 } with threads := [], groups := [], wgs := [] }

theorem witness_WorkgroupsAndLaunches :
    (let s := emptyWith id
     let la := s.launch 0
     placing s 0 = true ∧ keptByOther s 0 0 = false ∧ comesFirst s 0 = false ∧ coLevel la = none ∧ la.paired = false ∧ la.ckpt = false ∧ la.det = false ∧
     la.next + 1 < la.total ∧ 3 ∈ partCus s (s.partOf la.vf) ∧ fitsCu s la.vf 3 la.header = true ∧ domainOk s 0 la.next 3 = true ∧
     inboundRings la.header = [] ∧ (∀ r ∈ la.header.roles, r.threads ≤ 64) ∧ (groupRoles la.header)[0]? = some (0, { entry := 0x10004 })) ∧
    (let s := emptyWith fun l => { l with waitSince := some 0, header := { spad := 127 } }
     (s.launch 0).waitSince = some 0 ∧ waitsToPlace s 0 = true ∧ workFits s 0 = false ∧ (s.now - 0).toNat < 20000 ∧
     20000 ≤ (({ s with now := 20000 } : State).now - 0).toNat) ∧
    (let s := (idle fun x => { x with picker := .exited }).modLaunch 0 fun l => { l with total := 2 }
     let g := s.wg 1
     (tfind s.wgs 1).isSome = true ∧ g.ended = false ∧ g.halted = false ∧ g.mode = .plain ∧ g.tile = none ∧ liveWg s 1 = [] ∧ outboundDone s 1 = true ∧
     (∀ h ∈ [32 + g.cid, g.cid / 8], ∀ p ∈ pinsOf s h, p.heldBy 1 = false) ∧ inboundRings g.hdr = [] ∧ (∀ e ∈ g.mem.rings, e.2.inbound = []) ∧
     (tfind s.launches g.launch).isSome = true ∧ (s.launch g.launch).next ≠ (s.launch g.launch).total) := by decide +kernel

/-- A launch whose one workgroup has ended, with a status word. -/
def ending : State := paged ((withWg (fun g => { g with ended := true }) (idle fun x => { x with picker := .exited })).modLaunch 0 fun l => { l with status := 0x1000 })

theorem witness_launch_ends :
    (∀ r, memSide ending 0 0 .mem r 0x1000 true 0 = .ok ending) ∧
    (let s := ending
     let la := s.launch 0
     (tfind s.wgs 1).isSome = true ∧ (s.wg 1).ended = true ∧ (s.wg 1).launch = 0 ∧ la.phase = .admitted ∧ allEnded s 0 = true ∧ drawDone s 0 = true ∧
     nextLog s (wgsOfLaunch s 0) = none ∧ launchDrained s 0 = true ∧ la.replay = false ∧ la.endDraw = false ∧ la.label = 0 ∧ la.vf = 0 ∧ la.status = 0x1000 ∧
     (rangeOf s 0 0x1000).any (fun r => decide (spaceOf r.2 = .mem ∧ iaOf r.2 0x1000 = 0x1000) && permits { wr := true } r.2) = true ∧
     pinHolders s (0x1000 / 64) = [] ∧ tfind s.launches noLaunch = none ∧ ∀ q, q < 16 → (s.queue 0 q).head = none ∧ queueOn (s.queue 0 q) = false) := by
  refine ⟨fun r => side_ok _ _ _ _ _ _ ?_ ?_, ?_⟩ <;> decide +kernel

/-- A pass in tile mode with lists, its one tile loaded; a list insertion in flight; a fragment at its key. -/
def listing (a : Access) : State :=
  inFlight a { withLists (idle id) with
    passes := [(0, { loadPass 0 with lists := true, tileMode := true, tiles := [(0, { loaded := true })] })] }
def insertion (op : Nat) (aux : List Nat) : Access := { kind := .insert, tid := 1024, op := op, ia := 0, aux := aux }

/-- A list step ends with the insertion still in flight. -/
def lists (i : Access) (o : Dev ListOut) : Bool := match o with | .ok r => decide (tfind r.st.accs 0 = some i) | .error _ => false

theorem witness_ListClauseAndBinSteps :
    (let i := insertion 1 [5]
     let s := listing i
     tfind s.accs 0 = some i ∧ firstAtKey s 0 i = true ∧ (listPass s 1024).any (fun e => decide (keyPlace e.2 0 = some (0, 0) ∧ s.pass? e.1 = some e.2) &&
       (e.2.tile 0).loaded) = true ∧ lists i (setStep s 0 0 0 0 5 0) = true ∧
     (let later : State := { s with accs := [(0, i), (1, i)] }
      tfind later.accs 1 = some i ∧ firstAtKey later 1 i = false)) ∧
    (let i := insertion 0 [7, 8, 9, 1, 3]
     lists i (insertStep (listing i) 0 0 0 0 { idx := none, depth := 7, p0 := 8, p1 := 9, flags := 1, seq := 3 } 0) = true) ∧
    (let f : Frag := { launch := 0, tile := 0, x := 0, y := 0, sample := 0, seq := 1, cov := 1, front := true, px := 0, py := 0, depth := 0
                       tid := some 1024, registered := true }
     let s : State := { idle (fun x => { x with picker := .held, holds := [.clause], frag := some 3 }) with frags := [(3, f)] }
     let second : State := { s with frags := [(2, { f with seq := 0 }), (3, f)] }
     fragOf s 1024 = some (3, f) ∧ (s.thr 1024).picker = .held ∧ (s.thr 1024).holds = [.clause] ∧ headsKey s 3 f = true ∧ fragOf second 1024 = some (3, f) ∧
     headsKey second 3 f = false) ∧
    (let s := paged { (withWg (fun g => { g with ended := true }) (idle id)).modLaunch 0 fun l => { l with pass := some 0, binned := false, endDraw := true } with
       passes := [(0, loadPass 0)] }
     let la := s.launch 0
     (passOf s 0).any (fun e => !e.2.ended) = true ∧ la.phase = .admitted ∧ la.binned = false ∧ allEnded s 0 = true ∧ la.endDraw = true ∧
     touches s (recN la.draw 0x10 6) (3 * la.ntri * recN la.psrec 0x04 2) = true) := by decide +kernel

/-- A pass of one loaded tile, with tile-work units of four; its one draw is binned, its workgroup has ended. -/
def onTile (p : Pass → Pass) (f : Launch → Launch) : State :=
  { (withWg (fun g => { g with ended := true }) (idle id)).modLaunch 0 (fun l =>
      f { l with pass := some 0, endDraw := true, draw := List.replicate 32 0 ++ [0x40], fragHdr := { roles := [{ entry := 0x10004 }] } }) with
    passes := [(0, p { loadPass 0 with record := List.replicate 20 0 ++ [4] ++ List.replicate 235 0, tiles := [(0, { loaded := true })], closed := true })] }
/-- A fragment of it. -/
def shard : Frag := { launch := 0, tile := 0, x := 0, y := 0, sample := 0, seq := 1, cov := 1, front := true, px := 0, py := 0, depth := 0 }

/-- The device comes to a state that a predicate holds of. -/
def comesTo {α : Type} (x : Dev α) (f : α → Bool) : Bool := match x with | .ok a => f a | .error _ => false

theorem witness_FragmentAndTileSteps :
    (let s := { onTile id id with frags := [(5, shard)] }
     let la := s.launch 0
     (passOf s 0).any (fun e => fragTurn s e.2 0 0 && decide (nextFrags s e.2 0 0 (min 1 16) = [(5, shard)])) = true ∧ la.binned = true ∧
     (passOf s 0).any (fun e => shadingOn s la (decide (0 < (e.2.tile 0).unit)) && comesTo (startTile s e.1 0) fun t => comesTo (earlyTests t e.1 la [(5, shard)]) fun k =>
       !k.2.isEmpty) = true ∧ (nextFrags { s with frags := [] } ((s.pass? 0).getD (loadPass 0)) 0 0 1).isEmpty = true ∧
     comesFirst s 0 = false ∧ keptByOther s 0 0 = false ∧ la.late = true ∧ la.ckpt = false ∧ la.paired = false ∧
     (la.fragHdr.roles.map (·.threads)) = [64] ∧ inboundRings la.fragHdr = [] ∧ fitsCu s la.vf 0 la.fragHdr = true ∧ la.clause = false) ∧
    (let f := { shard with ended := true, tid := some 1024 }
     let s := { (onTile id fun l => { l with total := 2 }) with frags := [(5, f)] }
     let second := { s with frags := [(4, { f with seq := 0 }), (5, f)] }
     tfind s.frags 5 = some f ∧ committed s f = true ∧ outputTurn s f = true ∧ allEnded s 0 = false ∧
     (passOf s 0).any (fun e => comesTo (fragOutput s e.1 (s.launch 0) f) fun t => !allEnded t 0) = true ∧
     tfind second.frags 5 = some f ∧ outputTurn second f = false) ∧
    (let s := onTile (fun p => { p with record := List.replicate 40 0 ++ [4] ++ List.replicate 215 0, resolveHdr := { roles := [{ entry := 0x10004 }] } }) id
     (passOf s 0).any (fun e => e.2.resolves && tileDone s e.2 0 && decide ((e.2.tile 0).resolve = none) && fitsCu s 0 9 e.2.resolveHdr &&
       decide (inboundRings e.2.resolveHdr = []) && e.2.resolveHdr.roles.all fun r => decide (r.threads ≤ 64)) = true ∧
     shadingOn s (s.launch 0) false = true ∧ comesFirst s 0 = false ∧ keptByOther s 0 1 = false ∧ 9 ∈ partCus s 0) ∧
    (let s := onTile id fun l => { l with total := 2 }
     (passOf s 0).any (fun e => tileDone s e.2 0 && !e.2.resolves && !(e.2.tile 0).stored) = true ∧ allEnded s 0 = false) ∧
    (let s := onTile (fun p => { p with tileMode := true }) fun l => { l with total := 2 }
     (passOf s 0).any (fun e => tileDone s e.2 0 && !e.2.resolves && comesTo (storeTile s e.1 e.2 0) fun t => !allEnded t 0 && (t.pass? e.1).isSome) = true) := by
  decide +kernel

/-! ## Partitions, pre-emption, recovery. -/

/-- A CU that delivers the trap, its context being pre-empted. -/
def saving (f : Thread → Thread) : State :=
  ((idle f).modCtx 0 fun c => { c with preempting := some 0 }).modCu 0 fun u => { u with save := { delivering := true } }
/-- A second context of the partition, with an admitted launch. -/
def second (s : State) : State :=
  { s with ctxs := tput s.ctxs 1 { binding := 0x8000000000000000#64 }, launches := tput s.launches 7 { vf := 1, phase := .admitted } }

theorem witness_PreemptionSteps :
    (let s := idle fun x => { x with picker := .ready }
     let c := s.ctx 0
     runnables s (s.partOf 0) = [0] ∧ runnables (second s) ((second s).partOf 0) ≠ [0] ∧ (∀ e ∈ ctxWgs (second s) 0, e.2.mode = .plain) ∧
     inSlice c = true ∧ inSlice ((second s).ctx 0) = true ∧ max 1 (bits c.binding.toNat 32 16) * 1000 ≤ ((1000 : DWord) - c.sliceStart).toNat ∧
     (s.now - c.sliceStart).toNat < max 1 (bits c.binding.toNat 32 16) * 1000) ∧
    (let s := withGrp (fun g => { g with tvec := 0x10004 }) (saving fun x => { x with picker := .ready, signalled := true })
     hasHandler s 1024 ∧ (tfind s.threads 1024).isSome = true ∧ (∀ e ∈ s.pipes, 1024 ∉ e.2.tids) ∧ (s.thr 1024).signalled = true ∧ (s.thr 1024).saved = false ∧
     (s.thr 1024).pos = 0 ∧ (s.thr 1024).picker = .ready ∧ delivering s (s.cidOf 1024) = true ∧ budgetOver s (wgOf 1024) = false) ∧
    (let ok := fun (s : State) => delivering s 0 = true ∧ unitsOpen s 0 = false ∧ accessesDone s 0 = true ∧ (s.cu 0).pins = [] ∧ (s.core (0 / 8)).pins = [] ∧ (s.wgs.map (·.1)).Nodup
     let s := saving fun x => { x with picker := .ready }
     let y := saving fun x => { x with picker := .ready, signalled := true, saved := true, pos := 0 }
     ok s ∧ forced s 0 = true ∧ allYielded s 0 = false ∧ ok y ∧ allYielded y 0 = true ∧ savedThreads y 0 = [1024]) ∧
    (let away := (idle id).modCtx 0 fun c => { c with resident := false, cuSave := [(0, { am := [(3, 5)] })] }
     residentOf away 0 = none ∧ nextContext away 0 none = some 0 ∧ ((away.ctx 0).cuSave.map (·.1)).Nodup) ∧
    (let s := second ((saving id).modCu 0 fun u => { u with save := { u.save with saved := true } })
     residentOf s 0 = some 0 ∧ mayLeave s 0 0 = true ∧ nextContext s 0 (some 0) = some 1) ∧
    (let s := saving id
     let w := s.modCtx 0 fun c => { c with binding := 0x8000000000050000#64 }
     (s.ctx 0).preempting = some 0 ∧ bits (s.ctx 0).binding.toNat 16 16 = 0 ∧ (w.ctx 0).preempting = some 0 ∧ bits (w.ctx 0).binding.toNat 16 16 = 5 ∧
     (w.now - 0).toNat < 5000) := by
  simp only [hasHandler]
  decide +kernel

theorem witness_pre_emption_ends :
    (let s := (saving id).modCu 0 fun u => { u with save := { u.save with saved := true } }
     residentOf s 0 = some 0 ∧ mayLeave s 0 0 = true ∧ nextContext s 0 (some 0) = none ∧ (s.ctx 0).preempting.isSome = true) ∧
    (let s := saving fun x => { x with picker := .ready, signalled := true }
     (s.thr 1024).frame.inh = false ∧ alive (s.thr 1024) = true ∧ (s.grp (gidOf 1024)).tvec = 0 ∧ portReady s s.pkg.waiting (.preempt 0 1) = true) ∧
    (let s := withCommand { fill with wg := 1, gate := true } (saving id)
     let t := withCommand { fill with wg := 1 } s
     (s.cmds.map (·.1)).Nodup ∧ accessesDone s 0 = true ∧ accessesDone t 0 = true ∧ (savedWgs s 0).any (fun e => decide (e.1 = 1)) = true ∧
     cKind fill.q ≠ 3 ∧ fill.decided = false) := by decide +kernel

/-- The check value of CRC-64/ECMA-182: the nine digits. -/
theorem test_crc_check_value : ((upto 9).map fun i => BitVec.ofNat 8 (0x31 + i)).foldl crcByte 0 = 0x6C40DF5F0B497347#64 := by decide +kernel

/-- A checkpointed workgroup whose interval has ended, with one store in its buffer. -/
def interval (m : WgMode) : State :=
  inFlight { homeStore with stage := .retained, retained := true }
    (withWg (fun g => { g with mode := m, endAt := some {}, retained := [{ tid := 1024, acc := 0, addr := 0x1000, size := 4, data := 7 }] })
      (idle fun x => { x with picker := .held, holds := [.bar 0] }))
/-- Its anaphor, workgroup 2, which has stored the same, or another value. -/
def twinned (v : Nat) : State :=
  let s := withWg (fun g => { g with twin := some 2 }) (interval .ante)
  { s with
    wgs := tput s.wgs 2 { s.wg 1 with mode := .ana, twin := some 1, cid := 1, retained := [{ tid := 2048, acc := 1, addr := 0x1000, size := 4, data := v }] }
    groups := tput s.groups 32 (s.grp 16), threads := tput s.threads 2048 (s.thr 1024)
    accs := tput s.accs 1 { homeStore with tid := 2048, data := v, stage := .retained, retained := true } }

theorem witness_CommitAndRollbackSteps :
    (let s := interval .ckpt
     (s.wg 1).mode = .ckpt ∧ endReady s 1 = true ∧ ((s.wg 1).retained.map (·.acc)).Nodup ∧
     (∀ r ∈ (s.wg 1).retained, (tfind s.accs r.acc).any (fun a => decide (a.kind = .store) && !isRel a.order) = true) ∧
     endReady (withWg (fun g => { g with endAt := none }) s) 1 = false) ∧
    (let s := idle id
     let h : Shadow := { threads := [(1024, s.thr 1024)], groups := [(16, s.grp 16)], mem := (s.wg 1).mem }
     let s := withWg (fun g => { g with mode := .ckpt, retry := true, shadow := some h }) s
     (s.wg 1).retry = true ∧ (s.wg 1).halted = false ∧ flushing s 1 = false ∧ (s.wg 1).mode = .ckpt ∧ (s.wg 1).twin = none ∧ (s.wg 1).shadow = some h ∧
     (tfind s.threads 1024).isSome = true ∧ (tfind h.threads 1024).isSome = true ∧ (tfind s.groups 16).isSome = true ∧ (tfind h.groups 16).isSome = true) ∧
    (∀ v ∈ [7, 8], let s := twinned v
     (s.wg 1).twin = some 2 ∧ (tfind s.wgs 2).isSome = true ∧ (s.wg 1).mode = .ante ∧ (s.wg 1).halted = false ∧ (s.wg 2).halted = false ∧ endReady s 1 = true ∧
     anaReady s 1 2 = true ∧ (pairAgrees s 1 2 = decide (v = 7)) ∧ (((s.wg 1).retained ++ (s.wg 2).retained).map (·.acc)).Nodup ∧
     (∀ r ∈ (s.wg 1).retained ++ (s.wg 2).retained, (tfind s.accs r.acc).any (fun a => decide (a.kind = .store) && !isRel a.order) = true) ∧
     (∀ r ∈ (s.wg 2).retained, (tfind s.accs r.acc).any (fun a => decide (wgOf a.tid = 2) && (tfind s.threads a.tid).isSome) = true)) ∧
    (let s := withWg (fun g => { g with endAt := none }) (interval .ante)
     (s.wg 1).mode = .ante ∧ (s.wg 1).endAt = none ∧ (s.wg 1).halted = false ∧ (s.wg 1).ended = false ∧ (s.wg 1).final = false ∧ flushing s 1 = false ∧
     s.now.toNat - (s.wg 1).since < 64000 ∧ 64000 ≤ (64000 : DWord).toNat - (s.wg 1).since) := by decide +kernel

theorem witness_PartitionCommandsAndResets :
    (let s := State.reset
     let used := s.modPart 3 fun p => { p with w0 := 0x0000000100000001#64 }
     let on := s.modPart 3 fun p => { p with w1 := 0x8000000000000000#64 }
     let held := { on with ctxs := [(0, { binding := 0x8300000000000000#64, resident := true })] }
     bit (on.part 3).w1.toNat 63 = true ∧ bit (s.part 3).w1.toNat 63 = false ∧ (0 < 2 ∧ s.pkg.power ≠ 4) ∧
     ownedElsewhere used 4 0x1 = true ∧ ownedElsewhere used 4 0x2 = false ∧ ownedElsewhere used 4 0x0000000100000000#64 = true ∧ partHeld held 3 = true ∧ partHeld on 3 = false) ∧
    (let s := (idle id).modLaunch 0 fun l => { l with phase := .ended }
     openLaunches s (partVfs s 0) = [] ∧ (∀ v ∈ partVfs s 0, ∀ q, q < 16 → (s.queue v q).head = none ∧ queueOn (s.queue v q) = false) ∧ (partVfs s 0).Nodup ∧
     (s.accs.map (·.1)).Nodup ∧ partVfs s 0 = [0]) ∧
    (channelEntry 0 192 0 = false ∧ channelEntry 1 191 63 = true ∧
     ownersServed { owners := sset 0 [] 5 (0x23#8 &&& 0x3F#8) } = false ∧ ownersServed { nextSlots := [(0, 0x83)], owners := sset 0 [] 5 (0x23#8 &&& 0x3F#8) } = true ∧
     ownersServed { nextSlots := sset 0 [] 5 (0x83#8 &&& 0x9F#8) } = true) := by decide +kernel

/-- A page at IA 0 in a frame of the local tier. -/
def resident (p : Page) : State := { State.reset with pages := [(0, { p with b := true })] }

/-- Some channels of this device belong to partition 0: a bank of channel 0. -/
def stocked (s : State) : State := { s with channels := [(0, { owners := [(0, 0x20)] })] }

theorem witness_PagesAndBandwidthSlots :
    (let s := stocked (resident { goal := some (0, none), free := true })
     let p := s.page 0
     (∀ line, pinHolders s line = []) ∧ p.b = true ∧ p.lg = false ∧ (takeFrame s p.part 0 none).isSome = true ∧ p.goal = some (0, none) ∧
     p.free = true ∧ (0 < 2 ∧ s.pkg.power ≠ 4) ∧ ((resident {}).page 0).free = false ∧ p.retired = false ∧
     (let wide := stocked { State.reset with pages := (List.range 32).map fun k => (k, { b := true, lg := true, goal := some (0, none), free := true }) }
      (∀ line, pinHolders wide line = []) ∧ (wide.page 0).lg = true ∧ (takeLarge wide 0 0 none).isSome = true ∧ (wide.page 0).goal = some (0, none) ∧
      ∀ i, i < 32 → (wide.page (65536 * i)).b = true)) ∧
    (∃ d, d < 64 ∧ ∀ s : State, partSpans s 0 d = true ∧ devOf (BitVec.ofNat 6 d) = none) ∧
    (let x : Scrub := { part := 0, tier := 0, dev := some 3, frame := 1, ticket := 1 }
     [x].find? (fun x => decide (devNum x.dev = 3)) = some x ∧ homePool { x with dev := none } = (.cell 0, 1)) ∧
    (let s := State.reset.modPart 2 fun p => { p with migrate := 5, nextHalve := some 0 }
     (s.part 2).nextHalve = some 0 ∧ (0 : DWord) ≤ s.now ∧ 0 < halvePeriod (s.part 2) ∧ ∀ e ∈ s.pages, e.2.cnt = 0) ∧
    (pendingIn (stocked (atHome homeLoad)) 0 0 = [0] ∧ ∀ q, q < 32 → q ≠ 0 → pendingIn (stocked (atHome homeLoad)) 0 q = []) := by
  refine ⟨⟨fun _ => rfl, by decide +kernel, by decide +kernel, by decide +kernel, by decide +kernel, by decide +kernel, by decide +kernel, by decide +kernel,
      by decide +kernel, fun _ => rfl, by decide +kernel⟩,
    ⟨Config.devIndex.toNat, Config.devIndex.isLt, fun s => by simp [partSpans, devOf]⟩, by decide +kernel, by decide +kernel,
    by decide +kernel⟩

/-! ## The host. -/

/-- The BAR2 window of VF 0 open at VA 0, for principal 3. -/
def windowed : State := paged ((idle id).modCtx 0 fun c => { c with bar2 := 0x8003000000000000#64 })

/-- A host read of some bytes is answered with zeros without a label, or refused with a cause. -/
def hostReads (s : State) (va n : Nat) (cause : Option Nat) : Bool :=
  comesTo (devTouch s 0 va n) fun t => comesTo (hostGet t 0 (lineParts va n)) fun x =>
    decide (x.2.1 = cause ∧ x.2.2.1 = (if cause.isSome then [] else leBytes 0 n) ∧ x.2.2.2 = 0)

theorem witness_HostWindowAccesses :
    (∀ r, memSide windowed 0 0 .mem r 0x1000 true 0 = .ok windowed) ∧
    (let s := windowed
     let host : Label := 1#16 <<< bits (s.ctx 0).bar2.toNat 48 4
     let busy := { s with pkg := { s.pkg with waiting := [.bar2Read 0 0 8] } }
     portReady s s.pkg.waiting (.bar2Read 0 0x1000 8) = true ∧ portReady s s.pkg.waiting (.bar2Write 0 0x1000 8 0) = true ∧
     portReady busy busy.pkg.waiting (.bar2Read 0 0x1000 8) = false ∧ portReady busy busy.pkg.waiting (.bar2Write 0 0x1000 8 0) = false ∧
     (s.ctx 0).bar2.getLsbD 63 = true ∧ bits (s.ctx 0).bar2.toNat 38 10 = 0 ∧ host = 8 ∧ ((idle id).ctx 0).bar2.getLsbD 63 = false ∧
     spanCause s 0 0x1000 8 { rd := true } = none ∧ spanCause s 0 0x1000 8 { wr := true } = none ∧ spanCause s 0 0x10000000000#64 8 { rd := true } = some 3 ∧
     spanCause s 0 0x10000000000#64 8 { wr := true } = some 3 ∧
     (4 : Label) &&& ~~~host ≠ 0 ∧ (8 : Label) &&& ~~~host = 0 ∧ (0 : Label) &&& ~~~host = 0 ∧
     (let late := { s with pkg := { s.pkg with hostWct := [(portOf 0, 9)] } }
      sget 0 late.pkg.hostWct (portOf 0) ≠ 0 ∧ late.now ≤ sget 0 late.pkg.hostWct (portOf 0)) ∧ sget 0 s.pkg.hostWct (portOf 0) = 0) ∧
    (let s := windowed
     (rangeOf s 0 0x1000).any (fun r => decide (iaOf r.2 0x1000 = 0x1000 ∧ spaceOf r.2 = .mem)) = true ∧ 0x1000 % 64 + 8 ≤ 64 ∧ pinHolders s (0x1000 / 64) = [] ∧
     touches s 0x1000 8 = true ∧ (s.page 0x1000).label = 0 ∧ (∀ i, i < 8 → byteBad s (0x1000 + i) = false) ∧
     hostReads s 0x1000 8 none = true ∧ comesTo (hostPuts s 0 0x1000 8 0) (fun _ => true) = true ∧
     hostReads { s with pages := [(0, { b := true, nr := true })] } 0x1000 8 (some 4) = true ∧
     (let held := pinned 0 0x40 s
      comesTo ((devTouch held 0 0x1000 8).bind fun t => hostGet t 0 (lineParts 0x1000 8)) (fun _ => true) = false ∧
      comesTo (hostPuts held 0 0x1000 8 0) (fun _ => true) = false)) := by
  refine ⟨fun r => side_ok _ _ _ _ _ _ ?_ ?_, ?_, ?_⟩ <;> decide +kernel

/-- The memory side answers the host's write of its own label too. -/
theorem witness_host_write (r : List DWord) : memSide windowed 0 0 .mem r 0x1000 true 8 = .ok windowed := by
  have h : windowed.page 0x1000 = { b := true } ∧ inWindows windowed (windowed.partOf 0) 0x1000 = true := by decide +kernel
  simp [memSide, h.1, h.2, linkDown, backPage]

/-- A fault-event ring of two slots. -/
def ringed (f : FaultRing → FaultRing) : State := State.reset.modCtx 0 fun c => { c with ring := f { w0 := 0x4000, w1 := 0x8000000000000001#64 } }

theorem witness_registers_ready (o : Nat) : portReady State.reset State.reset.pkg.waiting (.register 0 o 0) = true := rfl

theorem witness_HostRegistersAndEvents :
    (anyPlaced State.reset 0 = false ∧ anyPlaced (idle id) 0 = true ∧ ¬ ((0x4000000000000000#64).getLsbD 61 = true ∧ (0x4000000000000000#64).getLsbD 60 = true) ∧
     (0x3000000000000000#64).getLsbD 61 = true ∧ (0x3000000000000000#64).getLsbD 60 = true) ∧
    (let s := State.reset
     let busy : State := { s with pkg := { s.pkg with waiting := [.causes 0 0] } }
     portReady s s.pkg.waiting (.counters 0 1) = true ∧ portReady busy busy.pkg.waiting (.counters 0 1) = false ∧
     portReady busy busy.pkg.waiting (.register 0 8 0) = false) ∧
    (bit (State.reset.part 3).w1.toNat 63 = false ∧ bit ((State.reset.modPart 3 fun p => { p with w1 := 0x8000000000000000#64 }).part 3).w1.toNat 63 = true) ∧
    (ringRoom (ringed id) ((ringed id).ctx 0).ring = true ∧ ringRoom (ringed fun r => { r with prod := 2 }) ((ringed fun r => { r with prod := 2 }).ctx 0).ring = false ∧
     (let e : FaultEvent := { type := 1 }
      let s := ringed fun r => { r with waiting := [e] }
      (s.ctx 0).ring.waiting = [e] ∧ ringRoom s (s.ctx 0).ring = true)) ∧
    (let e : FaultEvent := { type := 6, seq := 4, detail := 0, reply := true }
     let s := withCommand fill (ringed fun r => { r with outstanding := [e] })
     outstanding s 0 3 = none ∧ outstanding s 0 4 = some (0, e) ∧ (tfind s.cmds e.detail.toNat).isSome = true ∧ s.pkg.power ≠ 4) := by decide +kernel

/-- The body of a policy of domain 0 for principals 2 and 3, of a serial number. -/
def body (serial : Word) : List Word := [0x4750, 0, 0x0008000C#32, serial, 5, 0, 5, 0] ++ List.replicate 24 0
/-- The slots of those principals are bound, and some policies installed. -/
def policed (l : List Policy) : State :=
  { State.reset with pkg := { State.reset.pkg with policies := l, domains := [(0, [(2, { bound := true }), (3, { bound := true })])] } }

theorem witness_PolicyAndOtherCommands :
    State.reset.pkg.power ≠ 4 ∧ (policed []).pkg.power ≠ 4 ∧
    (let w := fun (b : List Word) (k : Nat) => ((b[k]?).getD (0 : BitVec 32)).toNat
     (body 7).length = 32 ∧ w (body 7) 0 = 0x4750 ∧ w (body 7) 1 / 2 ^ 8 = 0 ∧ (∀ k, k < 32 → 8 ≤ k → w (body 7) k = 0) ∧
     w [0x4751] 0 ≠ 0x4750 ∧ (0x000C#16 = BitVec.ofNat 16 (w (body 7) 2)) ∧
     2 ≤ ((List.range 16).countP fun k => (0x000C#16).getLsbD k) ∧ ¬ 2 ≤ ((List.range 16).countP fun k => (0x0008#16).getLsbD k)) ∧
    (∀ k, k < 16 → (0x000C#16).getLsbD k = true → ((tfind (policed []).pkg.domains 0).bind fun d => tfind d k).any (·.bound) = true) ∧
    (¬ ∀ k, k < 16 → (0x000C#16).getLsbD k = true → ((tfind State.reset.pkg.domains 0).bind fun d => tfind d k).any (·.bound) = true) ∧
    (let old : Policy := { allow with serial := 7 }
     let found := fun (s : State) => s.pkg.policies.find? fun q => decide (0#8 = q.dom ∧ 12#16 = q.label)
     found (policed [old]) = some old ∧ (7 : Word).toNat ≤ old.serial.toNat ∧ old.serial.toNat < (8 : Word).toNat ∧ found (policed []) = none ∧
     (policed []).pkg.policies.length < 1024 ∧ (let full := policed (List.replicate 1024 { old with label := 3 })
       found full = none ∧ 1024 ≤ full.pkg.policies.length) ∧
     policyOf (policed [old]) 0 12 = some old ∧ policyOf (policed []) 0 12 = none) ∧
    allIdle State.reset = true ∧ allIdle (idle id) = false := by decide +kernel

/-- Partition 0 enabled, with a route of port 2 for pid 0. -/
def routed (f : Partition → Partition) : State :=
  State.reset.modPart 0 fun p => f { p with w0 := 0x0000000400000001#64, w1 := 0x8000000000000000#64, routes := true }

theorem witness_PowerAndLinkSteps :
    (let s := routed id
     let p := fun (s : State) => s.part 0
     (p s).w1.getLsbD 63 = true ∧ (p s).power = 0 ∧ (p s).waking = false ∧ partIdle s 0 = true ∧ 100000 ≤ (({ s with now := 100000 } : State).now - (p s).idleSince).toNat ∧
     (s.now - (p s).idleSince).toNat < 100000 ∧ (p s).tol.toNat < 40) ∧
    (let s := routed fun p => { p with waking := true, power := 1 }
     (s.part 0).waking = true ∧ s.pkg.power ≠ 4 ∧ s.pkg.hotReset = false ∧ (s.part 0).power ≠ 3 ∧ s.pkg.waiting = [] ∧
     (let a : HostAcc := .eventClear 0 0 0
      let s1 := { s with pkg := { s.pkg with waiting := [] } }.modPart 0 fun q => { q with power := 0, waking := false, idleSince := s.now }
      portReady s1 [] a = true ∧ comesTo (makeAccess s1 a) (fun _ => true) = true) ∧ ((routed fun p => { p with waking := true, power := 3 }).part 0).power = 3) ∧
    (let s := { routed (fun p => { p with power := 4 }) with pkg := { State.reset.pkg with power := 4 } }
     s.pkg.power = 4 ∧ s.pkg.waiting = [] ∧ enabledParts s = [0]) ∧
    (let s := routed id
     let asleep := routed fun p => { p with power := 1 }
     s.pkg.portsDown.getLsbD 2 = false ∧ flitPart s 2 0 = some 0 ∧ flitPart State.reset 2 0 = none ∧ s.pkg.waiting = [] ∧ partAwake s 0 = true ∧ flitPart asleep 2 0 = some 0 ∧ partAwake asleep 0 = false ∧
     ({ s with pkg := { s.pkg with portsDown := 4 } } : State).pkg.portsDown.getLsbD 2 = true) ∧
    (let s := State.reset
     1000000 ≤ (({ s with now := 1000000 } : State).now - s.pkg.windowStart).toNat ∧ (s.now - s.pkg.windowStart).toNat < 1000000 ∧
     s.pkg.powerLimit < (0xFFFF#16).toNat ∧ (0#16).toNat ≤ s.pkg.powerLimit ∧ 900 < s.pkg.clk.toNat ∧ s.pkg.hotReset = false ∧
     (let held := { routed id with pkg := { s.pkg with hotReset := true } }
      held.pkg.waiting = [] ∧ ∀ p ∈ enabledParts held, ∀ v ∈ partVfs held p, ∀ q, q < 16 → (held.queue v q).head = none ∧ queueOn (held.queue v q) = false)) := by decide +kernel
end Sys2Proof.Tests
end

/-! Proofs about boot, power states, links and temperature. -/
section
namespace Sys2Proof.Machine

/-! Enabled partitions, and changes of many partitions at once. -/

/-- A bit of a word, read as a number's. -/
theorem bit_toNat {w : Nat} (v : BitVec w) (k : Nat) : bit v.toNat k = v.getLsbD k := by
  rw [bit, BitVec.getLsbD, Nat.testBit_eq_decide_div_mod_eq]

theorem mem_enabledParts {s : State} {p : Nat} : p ∈ enabledParts s ↔ p < 32 ∧ (s.part p).w1.getLsbD 63 = true := by
  simp [enabledParts, upto, bit_toNat]

/-- One enabled partition that is not in PL2 keeps the device out of PL3 (R456). -/
theorem enterPl3_of_not_pl2 {s : State} {p : Nat} (hp : p ∈ enabledParts s) (h : (s.part p).power ≠ 2) : enterPl3 s = s := by
  have hall : ¬ ∀ k ∈ enabledParts s, ((s.part k).power = 2 ∧ (s.part k).waking = false) ∧ 800 ≤ (s.part k).tol.toNat :=
    fun hk => h (hk p hp).1.1
  rw [enterPl3, if_neg]
  simpa using fun _ => by simpa using hall

/-- The partitions of a list are active from now on. -/
def wakeParts (s : State) (l : List Nat) : State :=
  l.foldl (fun s p => s.modPart p fun q => { q with power := 0, waking := false, idleSince := s.now }) s

theorem wakeParts_cons (s : State) (p : Nat) (l : List Nat) :
    wakeParts s (p :: l) = wakeParts (s.modPart p fun q => { q with power := 0, waking := false, idleSince := s.now }) l := rfl

theorem wakeParts_rest (s : State) (l : List Nat) : wakeParts s l = { s with parts := (wakeParts s l).parts } := by
  induction l generalizing s with
  | nil => rfl
  | cons p r ih => rw [wakeParts_cons, ih]; rfl

theorem wakeParts_part (s : State) (l : List Nat) (k : Nat) :
    (wakeParts s l).part k = if k ∈ l then { s.part k with power := 0, waking := false, idleSince := s.now } else s.part k := by
  induction l generalizing s with
  | nil => rfl
  | cons p r ih =>
    rw [wakeParts_cons, ih, State.modPart_part]
    by_cases hk : k = p
    · subst hk; simp
    · simp [hk, Ne.symm hk]

theorem activate_eq (s : State) (l : List Nat) : activate s l = drainPorts (wakeParts s l) := rfl

theorem drainPorts_of_none {s : State} (h : s.pkg.waiting = []) : drainPorts s = s := by
  have hs : s.modPkg (fun k => { k with waiting := [] }) = s := by
    show { s with pkg := { s.pkg with waiting := [] } } = s
    rw [← h]
  simp only [drainPorts, h, makeAccesses, List.foldl_nil, hs]

/-- With one access that waits and can be made now, it is made and nothing waits on. -/
theorem drainPorts_of_one {s s' : State} {a : HostAcc} (h : s.pkg.waiting = [a])
    (hr : portReady (s.modPkg fun k => { k with waiting := [] }) [] a = true)
    (hm : makeAccess (s.modPkg fun k => { k with waiting := [] }) a = .ok s') : drainPorts s = s' := by
  simp [drainPorts, h, makeAccesses, hr, hm]

theorem activate_of_none {s : State} (h : s.pkg.waiting = []) (l : List Nat) : activate s l = wakeParts s l := by
  rw [activate_eq, drainPorts_of_none]
  rw [wakeParts_rest]; exact h

/-! Boot (R453). -/

/-- A power-on leaves only what lies outside the package; the first step that fails holds the device. -/
theorem powerOnBoot_state (s : State) (a b c d : Bool) : let ok := a && b && c && d
    ∃ t, exec (.powerOnBoot a b c d) s = .next t ∧ t.pkg.booted = ok ∧ t.hostMem = s.hostMem ∧ t.wgs = [] ∧ t.mem = [] ∧ t.ctxs = [] ∧ t.parts = [] ∧ t.now = 0 ∧
      t.pkg.bootStep = if ok then 0 else if !a then 1 else if !b then 2 else if !c then 3 else 4 := by
  refine ⟨_, rfl, ?_⟩
  cases a with
  | false => exact ⟨rfl, rfl, rfl, rfl, rfl, rfl, rfl, rfl⟩
  | true => cases b with
    | false => exact ⟨rfl, rfl, rfl, rfl, rfl, rfl, rfl, rfl⟩
    | true => cases c with
      | false => exact ⟨rfl, rfl, rfl, rfl, rfl, rfl, rfl, rfl⟩
      | true => cases d <;> exact ⟨rfl, rfl, rfl, rfl, rfl, rfl, rfl, rfl⟩

/-! Power states (R456, R457). -/

theorem idleState_of_lt {tol : Nat} (h : tol < 40) : idleState tol = if 2 ≤ tol then 1 else 0 := by
  rw [idleState, if_neg (by omega)]

theorem idlePowerEntry_sleeps {s : State} {p : Nat} (hp : p < 32) (hon : (s.part p).w1.getLsbD 63 = true) (hpow : (s.part p).power = 0)
    (hwake : (s.part p).waking = false) (hidle : partIdle s p = true) (htime : 100000 ≤ (s.now - (s.part p).idleSince).toNat)
    (htol : (s.part p).tol.toNat < 40) :
    exec (.idlePowerEntry p) s = .next (s.modPart p fun q => { q with power := if 2 ≤ (s.part p).tol.toNat then 1 else 0 }) := by
  show execIdlePowerEntry p s = _
  rw [execIdlePowerEntry, if_pos (by simp [bit_toNat, hon, hpow, hwake, hidle, htime, -BitVec.toNat_sub]), idleState_of_lt htol,
    enterPl3_of_not_pl2 (p := p)]
  · simp [mem_enabledParts, State.modPart_part, hp, hon]
  · rw [State.modPart_part, if_pos rfl]
    dsimp only
    split <;> decide

theorem idlePowerEntry_early {s : State} {p : Nat} (h : (s.now - (s.part p).idleSince).toNat < 100000) :
    exec (.idlePowerEntry p) s = .next s := by
  show execIdlePowerEntry p s = _
  rw [execIdlePowerEntry, if_neg (by simp [h, -BitVec.toNat_sub])]

theorem powerStateExit_of_not_waking {s : State} {p : Nat} (h : (s.part p).waking = false) : exec (.powerStateExit p) s = .next s := by
  show execPowerStateExit p s = _
  rw [execPowerStateExit, if_neg (by simp [h])]

theorem powerStateExit_of_waking {s : State} {p : Nat} (h : (s.part p).waking = true) (h4 : s.pkg.power ≠ 4) (hr : s.pkg.hotReset = false) :
    exec (.powerStateExit p) s = .next (activate s (if (s.part p).power = 3 then enabledParts s else [p])) := by
  show execPowerStateExit p s = _
  rw [execPowerStateExit, if_pos (by simp [h, h4, hr])]


/-- PL0 from now on: the exit of one partition, and then what waited. -/
theorem powerStateExit_one {s : State} {p : Nat} (h : (s.part p).waking = true) (h4 : s.pkg.power ≠ 4) (hr : s.pkg.hotReset = false)
    (h3 : (s.part p).power ≠ 3) :
    let s1 := { s with pkg := { s.pkg with waiting := [] } }.modPart p fun q => { q with power := 0, waking := false, idleSince := s.now }
    (s.pkg.waiting = [] → exec (.powerStateExit p) s = .next s1 ∧
      s1.part p = { s.part p with power := 0, waking := false, idleSince := s.now }) ∧
    (∀ a s2, s.pkg.waiting = [a] → portReady s1 [] a = true → makeAccess s1 a = .ok s2 → exec (.powerStateExit p) s = .next s2) := by
  rw [powerStateExit_of_waking h h4 hr, if_neg h3]
  refine ⟨fun hw => ⟨?_, ?_⟩, fun a s2 hw hready hmade => ?_⟩
  · have hpkg : { s.pkg with waiting := [] } = s.pkg := by rw [← hw]
    rw [activate_of_none hw, hpkg]
    rfl
  · rw [State.modPart_part, if_pos rfl]
    rfl
  · exact congrArg _ (drainPorts_of_one (s := wakeParts s [p]) hw hready hmade)

theorem powerStateExit_pl3 {s : State} {p : Nat} (h : (s.part p).waking = true) (h4 : s.pkg.power ≠ 4) (hr : s.pkg.hotReset = false)
    (h3 : (s.part p).power = 3) (hw : s.pkg.waiting = []) : ∃ t, exec (.powerStateExit p) s = .next t ∧
      (∀ k ∈ enabledParts s, t.part k = { s.part k with power := 0, waking := false, idleSince := s.now }) ∧ t = { s with parts := t.parts } := by
  refine ⟨wakeParts s (enabledParts s), ?_, fun k hk => ?_, wakeParts_rest _ _⟩
  · rw [powerStateExit_of_waking h h4 hr, if_pos h3, activate_of_none hw]
  · rw [wakeParts_part, if_pos hk]

theorem pcieWake_of_awake {s : State} (x : DWord) (h : s.pkg.power ≠ 4) : exec (.pcieWake x) s = .next s := by
  show execPcieWake x s = _
  rw [execPcieWake, if_neg h]

/-- The package out of PL4, with device time resynchronised; it never runs backwards. -/
def resynced (s : State) (x : DWord) : State := { s with now := if s.now < x then x else s.now, pkg := { s.pkg with power := 0 } }

theorem pcieWake_wakes {s : State} (x : DWord) (h : s.pkg.power = 4) (hw : s.pkg.waiting = []) :
    ∃ t, exec (.pcieWake x) s = .next t ∧ t.pkg.power = 0 ∧ t.now = (if s.now < x then x else s.now) ∧
      (∀ p ∈ enabledParts s, (t.part p).power = 0) ∧ t.mem = s.mem := by
  refine ⟨wakeParts (resynced s x) (enabledParts s), ?_, ?_, ?_, fun p hp => ?_, ?_⟩
  · rw [← activate_of_none (s := resynced s x) hw]
    show execPcieWake x s = _
    rw [execPcieWake, if_pos h]
    rfl
  · rw [wakeParts_rest]
    rfl
  · rw [wakeParts_rest]
    rfl
  · rw [wakeParts_part, if_pos hp]
  · rw [wakeParts_rest]
    rfl

/-! Links (R400, R444, R451, R452). -/

@[simp] theorem countPf_portsDown (s : State) (word : Nat) : (countPf s word).pkg.portsDown = s.pkg.portsDown := rfl

theorem countPf_counter (s : State) (word : Nat) :
    sget 0#64 (countPf s word).pkg.pfCounters word = satField (sget 0 s.pkg.pfCounters word) 0 64 := sget_sset_self _ _ _ _

theorem flitArrival_down {s : State} {port : Nat} (pid src dst : Nat) (crc route : Bool) (h : s.pkg.portsDown.getLsbD port = true) :
    exec (.flitArrival port pid src dst crc route) s = .next s := by
  show execFlitArrival port pid src dst crc route s = _
  rw [execFlitArrival, if_pos (.inr h)]

/-- What a flit does that arrives on a port in service. -/
theorem flitArrival_up {s : State} {port : Nat} (pid src dst : Nat) (crc route : Bool) (hp : port < 16)
    (h : s.pkg.portsDown.getLsbD port = false) :
    exec (.flitArrival port pid src dst crc route) s = .next (if !crc then countPf s 0
      else (if route then flitPart s port pid else none).elim (countPf s 3)
        fun p => portStep s (.flit p port src dst) (.ok (deliverFlit s port src dst))) := by
  show execFlitArrival port pid src dst crc route s = _
  rw [execFlitArrival, if_neg (by simp [h]; omega)]
  cases (if route then flitPart s port pid else none) <;> rfl

theorem portReady_flit (s : State) (p port src dst : Nat) :
    portReady s s.pkg.waiting (.flit p port src dst) = true ↔ partAwake s p = true ∧ ∀ b ∈ s.pkg.waiting, b.port ≠ 2 + port := by
  have hport : (HostAcc.flit p port src dst).port = 2 + port := rfl
  simp [portReady, wakes, hport, and_comm]

theorem flitArrival_states {s : State} {port : Nat} (pid src dst : Nat) (hp : port < 16) (h : s.pkg.portsDown.getLsbD port = false) :
    (∀ route, ∃ t, exec (.flitArrival port pid src dst false route) s = .next t ∧ sget 0#64 t.pkg.pfCounters 0 = satField (sget 0 s.pkg.pfCounters 0) 0 64 ∧
      t.pkg.delivered = s.pkg.delivered ∧ t = { s with pkg := t.pkg }) ∧
    (∃ t, exec (.flitArrival port pid src dst true false) s = .next t ∧ sget 0#64 t.pkg.pfCounters 3 = satField (sget 0 s.pkg.pfCounters 3) 0 64 ∧ t.pkg.delivered = s.pkg.delivered ∧
      t = { s with pkg := t.pkg }) ∧
    (flitPart s port pid = none → ∃ t, exec (.flitArrival port pid src dst true true) s = .next t ∧ sget 0#64 t.pkg.pfCounters 3 = satField (sget 0 s.pkg.pfCounters 3) 0 64 ∧
      t.pkg.delivered = s.pkg.delivered ∧ t = { s with pkg := t.pkg }) ∧
    (∀ p, flitPart s port pid = some p → let ready := partAwake s p = true ∧ ∀ b ∈ s.pkg.waiting, b.port ≠ 2 + port
      (ready → ∃ t, exec (.flitArrival port pid src dst true true) s = .next t ∧ t.pkg.delivered = s.pkg.delivered ++ [(port, src, dst)] ∧ t = { s with pkg := t.pkg }) ∧
      (¬ ready → ∃ t, exec (.flitArrival port pid src dst true true) s = .next t ∧ t.pkg.waiting = s.pkg.waiting ++ [.flit p port src dst] ∧ t.pkg.delivered = s.pkg.delivered ∧
        (t.part p).waking = true ∧ t = { s with parts := t.parts, pkg := t.pkg })) := by
  simp only [flitArrival_up pid src dst _ _ hp h]
  refine ⟨fun _ => ⟨_, rfl, countPf_counter s 0, rfl, rfl⟩, ⟨_, rfl, countPf_counter s 3, rfl, rfl⟩, fun hnone => ?_, fun p hsome => ⟨fun hready => ?_, fun hready => ?_⟩⟩
  · exact ⟨countPf s 3, by simp [hnone], countPf_counter s 3, rfl, rfl⟩
  · refine ⟨deliverFlit s port src dst, ?_, rfl, rfl⟩
    simp [hsome, portStep, (portReady_flit s p port src dst).2 hready]
  · refine ⟨waitForExit s (.flit p port src dst), ?_, rfl, rfl, ?_, rfl⟩
    · simp [hsome, portStep, mt (portReady_flit s p port src dst).1 hready]
    · simp [waitForExit, wakes, State.modPart_part]

theorem portTrainDown_state (s : State) {port : Nat} (hp : port < 16) : ∃ t, exec (.portTrainDown port) s = .next t ∧
    t.pkg.portsDown.getLsbD port = true ∧ (∀ k, k ≠ port → t.pkg.portsDown.getLsbD k = s.pkg.portsDown.getLsbD k) ∧ t = { s with pkg := t.pkg } := by
  refine ⟨s.modPkg fun k => { k with portsDown := k.portsDown ||| 1#16 <<< port }, ?_, ?_, fun k hk => ?_, rfl⟩
  · show execPortTrainDown port s = _
    rw [execPortTrainDown, if_pos hp]
  · simp [State.modPkg, hp]
  · have hbit : (1#16 <<< port).getLsbD k = false := by simp; omega
    simp [State.modPkg, hbit]

theorem linkRetrain_state (s : State) {port : Nat} (hp : port < 16) : ∃ t, exec (.linkRetrain port) s = .next t ∧
    t.pkg.portsDown.getLsbD port = false ∧ sget 0#64 t.pkg.pfCounters 2 = satField (sget 0 s.pkg.pfCounters 2) 0 64 ∧ t = { s with pkg := t.pkg } := by
  let s1 := s.modPkg fun k => { k with portsDown := k.portsDown &&& ~~~(1#16 <<< port) }
  refine ⟨countPf s1 2, ?_, ?_, countPf_counter s1 2, rfl⟩
  · show execLinkRetrain port s = _
    simp only [execLinkRetrain, if_pos hp]
    rw [if_pos (by omega)]
  · simp [s1, State.modPkg, hp]

/-! Power and temperature (R458). -/

theorem powerWindow_early {s : State} (w : BitVec 16) (h : (s.now - s.pkg.windowStart).toNat < 1000000) : exec (.powerWindow w) s = .next s := by
  show execPowerWindow w s = _
  rw [execPowerWindow, if_neg (by omega)]

/-- The clock of the next window: 100 MHz less over the power limit, not below 900 MHz. -/
def nextClock (k : Package) (w : BitVec 16) : BitVec 16 :=
  if k.powerLimit < w.toNat ∧ 900 < k.clk.toNat then (if k.clk.toNat < 1000 then 900#16 else k.clk - 100) else k.clk

theorem nextClock_over {k : Package} {w : BitVec 16} (hw : k.powerLimit < w.toNat) (hc : 900 < k.clk.toNat) :
    (nextClock k w).toNat = max 900 (k.clk.toNat - 100) := by
  rw [nextClock, if_pos ⟨hw, hc⟩]
  split
  · simp; omega
  · rw [BitVec.toNat_sub_of_le (by simp [BitVec.le_def]; omega)]
    simp; omega

theorem powerWindow_end {s : State} (w : BitVec 16) (h : 1000000 ≤ (s.now - s.pkg.windowStart).toNat) :
    ∃ t, exec (.powerWindow w) s = .next t ∧ t.pkg.pkgw = w ∧ t.pkg.windowStart = s.now ∧
      (w.toNat ≤ s.pkg.powerLimit → t.pkg.clk = s.pkg.clk) ∧ (s.pkg.powerLimit < w.toNat → 900 < s.pkg.clk.toNat → t.pkg.clk.toNat = max 900 (s.pkg.clk.toNat - 100)) ∧
      (s.pkg.clk.toNat ≤ 900 → t.pkg.clk = s.pkg.clk) ∧ t = { s with pkg := t.pkg } := by
  refine ⟨s.modPkg fun k => { k with pkgw := w, windowStart := s.now, clk := nextClock k w }, ?_, rfl, rfl, fun hw => ?_, nextClock_over, fun hc => ?_, rfl⟩
  · show execPowerWindow w s = _
    rw [execPowerWindow, if_pos h]
    rfl
  · exact if_neg fun hn => by omega
  · exact if_neg fun hn => by omega

theorem candidates_of_idle {s : State} {v : Nat} (h : idleQueues s v) : candidates s v = [] := by
  simp only [candidates, upto, List.filterMap_eq_nil_iff, List.mem_range]
  intro q hq
  rw [(h q hq).1]

/-- Where no queue of a context is enabled and none has a head, a pass has nothing to do. -/
theorem eventPass_of_idle {s : State} {v : Nat} (h : idleQueues s v) : eventPass s v = s := by
  have hfree : (upto 16).find? (headFree s v) = none := by
    simp only [upto, List.find?_eq_none, List.mem_range]
    intro q hq
    simp [headFree, (h q hq).2]
  have hheld : queueStep s v = .error .held := by
    simp [queueStep, hfree, unasked, nextCandidate, candidates_of_idle h]
  have hsettle : ∀ n, settle v n s = s := fun n => by
    cases n with
    | zero => rfl
    | succ n => simp only [settle, hheld, devWaits]
  rw [eventPass, hsettle, ite_self]

theorem foldl_eventPass_of_idle {s : State} {l : List Nat} (h : ∀ v ∈ l, idleQueues s v) : l.foldl eventPass s = s := by
  induction l with
  | nil => rfl
  | cons v r ih =>
    rw [List.foldl_cons, eventPass_of_idle (h v List.mem_cons_self)]
    exact ih fun u hu => h u (List.mem_cons_of_mem _ hu)

theorem foldl_parts_eventPass_of_idle {s : State} {l : List Nat} (h : ∀ p ∈ l, ∀ v ∈ partVfs s p, idleQueues s v) :
    l.foldl (fun s p => (partVfs s p).foldl eventPass s) s = s := by
  induction l with
  | nil => rfl
  | cons p r ih =>
    rw [List.foldl_cons, foldl_eventPass_of_idle (h p List.mem_cons_self)]
    exact ih fun k hk => h k (List.mem_cons_of_mem _ hk)

/-- With nothing waiting and every queue idle, letting the partitions go changes only the package and the partitions' power states. -/
theorem letGo_of_idle {s : State} (hw : s.pkg.waiting = []) (h : ∀ p ∈ enabledParts s, ∀ v ∈ partVfs s p, idleQueues s v) :
    ∃ l, letGo s = wakeParts (s.modPkg fun k => { k with hotReset := false }) l := by
  have hpass := foldl_parts_eventPass_of_idle (s := s.modPkg fun k => { k with hotReset := false }) h
  refine ⟨(enabledParts s).filter fun p => decide ((s.part p).power = 0), ?_⟩
  rw [← activate_of_none (s := s.modPkg fun k => { k with hotReset := false }) hw]
  exact congrArg (fun x => activate x ((enabledParts x).filter fun p => decide ((x.part p).power = 0))) hpass

/-- The temperature is noted, and the clock is halved from 105 °C on. -/
def heated (s : State) (c : BitVec 8) : State := s.modPkg fun k => { k with tj := c, hot := decide (105 ≤ c.toNat) }

theorem junctionTemperature_eq (s : State) (c : BitVec 8) : exec (.junctionTemperature c) s =
    .next (if 115 ≤ c.toNat then (if s.pkg.hotReset then heated s c else holdAll (heated s c))
      else if s.pkg.hotReset then letGo (heated s c) else heated s c) := rfl

theorem heated_of_hot {s : State} {c : BitVec 8} (h : 115 ≤ c.toNat) : heated s c = { s with pkg := { s.pkg with tj := c, hot := true } } := by
  simp [heated, State.modPkg, show 105 ≤ c.toNat by omega]

theorem junctionTemperature_states (s : State) (c : BitVec 8) :
    (c.toNat < 115 → s.pkg.hotReset = false → ∃ t, exec (.junctionTemperature c) s = .next t ∧ t.pkg.tj = c ∧ t.pkg.hot = decide (105 ≤ c.toNat) ∧ t = { s with pkg := t.pkg }) ∧
    (115 ≤ c.toNat → s.pkg.hotReset = false → exec (.junctionTemperature c) s =
      .next (reportSmbus ((enabledParts s).foldl resetPart { s with pkg := { s.pkg with tj := c, hot := true, hotReset := true } }) 115)) ∧
    (115 ≤ c.toNat → s.pkg.hotReset = true → exec (.junctionTemperature c) s = .next { s with pkg := { s.pkg with tj := c, hot := true } }) ∧
    (c.toNat < 115 → s.pkg.hotReset = true → s.pkg.waiting = [] → (∀ p ∈ enabledParts s, ∀ v ∈ partVfs s p, idleQueues s v) → ∃ t, exec (.junctionTemperature c) s = .next t ∧
      t.pkg = { s.pkg with tj := c, hot := decide (105 ≤ c.toNat), hotReset := false } ∧ t = { s with pkg := t.pkg, parts := t.parts }) := by
  rw [junctionTemperature_eq]
  refine ⟨fun hc hr => ?_, fun hc hr => ?_, fun hc hr => ?_, fun hc hr hw hq => ?_⟩
  · exact ⟨heated s c, by simp [hr, show ¬ 115 ≤ c.toNat by omega], rfl, rfl, rfl⟩
  · simp only [if_pos hc, hr, heated_of_hot hc]
    rfl
  · simp only [if_pos hc, hr, if_true, heated_of_hot hc]
  · obtain ⟨l, hl⟩ := letGo_of_idle (s := heated s c) hw hq
    refine ⟨letGo (heated s c), by simp [hr, show ¬ 115 ≤ c.toNat by omega], ?_, ?_⟩
    · rw [hl, wakeParts_rest]
      rfl
    · rw [hl, wakeParts_rest]
      rfl

/-- Settles O59: part by part, from what each step of power, link and temperature does. -/
theorem powerAndLinkSteps : Obligations.PowerAndLinkSteps := by
  intro s
  refine ⟨powerOnBoot_state s, fun p => ⟨fun hp hon hpow hwake hidle htime htol => ?_, idlePowerEntry_early, powerStateExit_one, powerStateExit_pl3,
    powerStateExit_of_not_waking⟩, fun x => pcieWake_wakes x, fun x => pcieWake_of_awake x, fun port pid src dst hp => flitArrival_states pid src dst hp,
    fun port pid src dst crc route _ => flitArrival_down pid src dst crc route, fun port hp => ⟨portTrainDown_state s hp, linkRetrain_state s hp⟩,
    fun w => ⟨powerWindow_end w, powerWindow_early w⟩, junctionTemperature_states s⟩
  exact ⟨_, idlePowerEntry_sleeps hp hon hpow hwake hidle htime htol, by rw [State.modPart_part, if_pos rfl], rfl⟩

end Sys2Proof.Machine
end

/-! Proofs about a step as a whole: every instruction answers a next state, the fetch of a word, the acts. -/
section
namespace Sys2Proof.Machine

/-! Every instruction answers a next state. -/

theorem execPeriod_next (x y z : BitVec 7) (s : State) : ∃ t, execPeriod x y z s = .next t := by
  unfold execPeriod
  split
  · exact ⟨_, rfl⟩
  · dsimp only
    split
    · exact ⟨_, rfl⟩
    · split
      · exact ⟨_, rfl⟩
      · split <;> exact ⟨_, rfl⟩

theorem execBundlePick_next (cid pipe : Nat) (s : State) : ∃ t, execBundlePick cid pipe s = .next t := by
  unfold execBundlePick
  split
  · split <;> exact ⟨_, rfl⟩
  · exact ⟨_, rfl⟩

/-- A word goes through the shared front end, and a step of the table says its next state outright; PERIOD and the picker's step alone
choose among several. -/
theorem exec_next (i : Instr) (s : State) : ∃ t, exec i s = .next t := by
  cases i with
  | period x y z => exact execPeriod_next x y z s
  | bundlePick cid pipe => exact execBundlePick_next cid pipe s
  | _ => first
    | exact runWord_next _ _ _
    | exact ⟨_, rfl⟩

/-! The bytes of a line, and the word at an address. -/

theorem readBytes_getElem? (m : Table Byte) (a n k : Nat) (h : k < n) : (readBytes m a n)[k]? = some (sget 0#8 m (a + k)) := by
  induction n generalizing a k with
  | zero => omega
  | succ n ih =>
    cases k with
    | zero => rfl
    | succ k =>
      rw [readBytes, List.getElem?_cons_succ, ih (a + 1) k (by omega), Nat.add_right_comm]
      rfl

/-- The byte j places past an address in the bytes of its line. -/
def codeByte (ia : Nat) (l : List Byte) (j : Nat) : Byte := (l[ia % 64 + j]?).getD 0

/-- The word of four bytes, least significant first (R5). -/
def wordOfBytes (byte : Nat → Byte) : Word := byte 3 ++ byte 2 ++ byte 1 ++ byte 0

theorem toNat_append_byte {w : Nat} (x : BitVec w) (y : Byte) : (x ++ y).toNat = x.toNat * 256 + y.toNat := by
  rw [BitVec.toNat_append, ← Nat.shiftLeft_add_eq_or_of_lt y.isLt, Nat.shiftLeft_eq]

theorem ofNat_leNat_four (a b c d : Byte) : BitVec.ofNat 32 (leNat [a, b, c, d]) = d ++ c ++ b ++ a := by
  apply BitVec.eq_of_toNat_eq
  simp only [toNat_append_byte, BitVec.toNat_ofNat, leNat]
  omega

theorem take_four_drop (l : List Byte) (k : Nat) (h : k + 4 ≤ l.length) :
    (l.drop k).take 4 = [(l[k]?).getD 0, (l[k + 1]?).getD 0, (l[k + 2]?).getD 0, (l[k + 3]?).getD 0] := by
  rw [List.drop_eq_getElem_cons (by omega), List.drop_eq_getElem_cons (by omega), List.drop_eq_getElem_cons (by omega),
    List.drop_eq_getElem_cons (by omega), List.getElem?_eq_getElem (by omega), List.getElem?_eq_getElem (by omega),
    List.getElem?_eq_getElem (by omega), List.getElem?_eq_getElem (by omega)]
  rfl

/-- An aligned word lies within its line. -/
theorem LineView.word_eq (v : LineView) {ia : Nat} (hlen : v.bytes.length = 64) (hia : ia % 4 = 0) :
    v.word ia = wordOfBytes (codeByte ia v.bytes) := by
  rw [LineView.word, take_four_drop _ _ (by omega), ofNat_leNat_four]
  rfl

theorem codeByte_readBytes (m : Table Byte) {ia j : Nat} (hj : ia % 64 + j < 64) :
    codeByte ia (readBytes m (ia / 64 * 64) 64) j = sget 0#8 m (ia + j) := by
  rw [codeByte, readBytes_getElem? _ _ _ _ hj, Option.getD_some]
  congr 1
  omega

/-! A line fetched from memory with nothing in its way (R32, R279). -/

theorem mem_of_tfind {α : Type} {m : Table α} {k : Nat} {v : α} (h : tfind m k = some v) : (k, v) ∈ m := by
  induction m with
  | nil => simp at h
  | cons e r ih =>
    obtain ⟨x, u⟩ := e
    rw [tfind_cons] at h
    split at h
    · rename_i hx
      cases h
      rw [hx]
      exact List.mem_cons_self
    · exact List.mem_cons_of_mem _ (ih h)

/-- A pin that is found has its holder among the line's. -/
theorem mem_pinHolders_of_pinAt {s : State} {h line : Nat} {p : Pin} (hp : pinAt s h line = some p) : h ∈ pinHolders s line := by
  have hline := List.find?_some hp
  have hmem := List.mem_of_find?_eq_some hp
  simp only [pinHolders, List.mem_append, List.mem_map, List.mem_filter, List.any_eq_true]
  by_cases hcore : h < 32
  · rw [pinsOf, if_pos hcore, State.core] at hmem
    cases hc : tfind s.cores h with
    | none => rw [hc] at hmem; cases hmem
    | some c =>
      rw [hc] at hmem
      exact .inl ⟨(h, c), ⟨mem_of_tfind hc, p, hmem, hline⟩, rfl⟩
  · rw [pinsOf, if_neg hcore, State.cu] at hmem
    cases hc : tfind s.cus (h - 32) with
    | none => rw [hc] at hmem; cases hmem
    | some c =>
      rw [hc] at hmem
      exact .inr ⟨(h - 32, c), ⟨mem_of_tfind hc, p, hmem, hline⟩, Nat.add_sub_of_le (Nat.le_of_not_lt hcore)⟩

theorem ownPin_of_no_holder {s : State} {line : Nat} (h : pinHolders s line = []) (cid : Nat) : ownPin s cid line = none := by
  have hnone : ∀ k, pinAt s k line = none := fun k => by
    cases hp : pinAt s k line with
    | none => rfl
    | some p => exact absurd (mem_pinHolders_of_pinAt hp) (by simp [h])
  simp [ownPin, hnone]

theorem correctGrains_nil (ks : List Nat) : correctGrains ks [] = [] := by
  unfold correctGrains
  induction ks with
  | nil => rfl
  | cons k r ih => exact ih

/-- Grains that are good leave nothing to count or report. -/
theorem foldl_noteGrain_good (vf : Nat) (s : State) (l : List Nat) (g : State → Nat → Grain) (a : Nat → Nat) (h : ∀ k, g s k = .good) :
    l.foldl (fun s k => noteGrain vf s (g s k) (a k)) s = s := by
  induction l with
  | nil => rfl
  | cons k r ih => rw [List.foldl_cons, h k]; exact ih

theorem noteSectors_of_sound {s : State} (h : s.sectors = []) (vf : Nat) (cs : List Nat) : noteSectors s vf cs = s := by
  rw [noteSectors, foldl_noteGrain_good vf s cs (fun s k => sget .good s.sectors k) _ fun k => by rw [h]; rfl]
  simp only [h, correctGrains_nil]
  rw [← h]

theorem detectMem_of_sound {s : State} (hg : s.grains = []) (hs : s.sectors = []) (vf : Nat) (sp : Space) (ia n : Nat) :
    detectMem s vf sp ia n = s := by
  unfold detectMem
  split
  · rfl
  · dsimp only
    rw [foldl_noteGrain_good vf s _ (fun s k => sget .good s.grains k) _ fun k => by rw [hg]; rfl]
    have hkeep : { s with grains := correctGrains (dedup ((upto n).map fun i => (ia + i) / 8)) s.grains } = s := by
      rw [hg, correctGrains_nil, ← hg]
    rw [hkeep, noteSectors_of_sound hs]

theorem State.modPage_rest (s : State) (ia : Nat) (f : Page → Page) : s.modPage ia f = { s with pages := (s.modPage ia f).pages } := by
  by_cases h : (f (s.page ia)).lg = true <;> simp only [State.modPage, h, if_true, if_false, Bool.false_eq_true]

/-- An access to a line that no other device holds is counted in its page entry (R356). -/
theorem countAccess_rest {s : State} {sp : Space} {ia : Nat} (h : peerLine s (lineOf sp ia) = false) (hia : ia < 2 ^ 52) :
    countAccess s sp ia = { s with pages := (countAccess s sp ia).pages } := by
  cases sp with
  | host => rfl
  | foreign => rfl
  | mem =>
    have hspace : lineSpace (lineOf .mem ia) = .mem := if_pos (show ia / 64 < 2 ^ 48 by omega)
    have hpage : s.page (64 * lineOf .mem ia) = s.page ia := by
      unfold State.page
      congr 2
      show 64 * (ia / 64) / 65536 = ia / 65536
      omega
    have hdev : (s.page ia).dev.isSome = false := by simpa [peerLine, hspace, hpage] using h
    simp only [countAccess, hdev, Bool.false_eq_true, if_false]
    exact State.modPage_rest _ _ _

theorem grantLease_rest (s : State) (line k : Nat) : (grantLease s line k).1 = { s with cores := (grantLease s line k).1.cores } := rfl

theorem memRead_of_plain {s : State} {l : Nat} (hreplay : (s.launch l).replay = false) (hrequeue : (s.launch l).requeued = false) (sp : Space) (ia n : Nat) :
    memRead s l sp ia n = readBytes (s.store sp) ia n := by
  cases sp <;> simp [memRead, shadowOf, argPatch, hreplay, hrequeue, State.store]

theorem fillCopies_rest (s : State) (cid line : Nat) (c : CopyLine) :
    fillCopies s cid line c false = { s with cus := (fillCopies s cid line c false).cus, cores := (fillCopies s cid line c false).cores } := by
  simp only [fillCopies, Bool.false_and, Bool.false_eq_true, if_false]
  split <;> rfl

/-- The CU that fetches a line has a copy of it from then on. -/
theorem fillCopies_l1 (s : State) (cid line : Nat) (c : CopyLine) :
    ∃ c', tfind ((fillCopies s cid line c false).cu cid).l1 line = some c' ∧ c'.bytes = c.bytes := by
  refine ⟨{ c with seen := (performedStores s (cid / 8) line).map (·.1) }, ?_, rfl⟩
  have hcu : (fillCopies s cid line c false).cu cid =
      (s.modCu cid fun u => { u with l1 := tput u.l1 line { c with seen := (performedStores s (cid / 8) line).map (·.1) } }).cu cid := by
    simp only [fillCopies, Bool.false_and, Bool.false_eq_true, if_false]
    split <;> rfl
  rw [hcu, State.modCu_cu, if_pos rfl, tfind_tput, if_pos rfl]

/-- The home has counted a fetch and granted its lease (R279, R356). -/
def granted (s : State) (sp : Space) (ia : Nat) : State := (grantLease (countAccess s sp ia) (lineOf sp ia) 0).1

theorem granted_rest {s : State} {sp : Space} {ia : Nat} (h : peerLine s (lineOf sp ia) = false) (hia : ia < 2 ^ 52) :
    granted s sp ia = { s with pages := (countAccess s sp ia).pages, cores := (granted s sp ia).cores } := by
  rw [granted, grantLease_rest, countAccess_rest h hia]

/-- The line that the home answers a launch's fetch with. -/
def homeView (s : State) (lch : Nat) (sp : Space) (r : List DWord) (ia : Nat) : LineView :=
  { bytes := memRead (granted s sp ia) lch sp (ia / 64 * 64) 64, bad := failedGrains s sp (ia / 64 * 64)
    label := storedLabel (granted s sp ia) sp r ia }

/-- The copy that the fetching CU keeps of it. -/
def homeCopy (s : State) (lch : Nat) (sp : Space) (r : List DWord) (ia : Nat) : CopyLine :=
  { bytes := (homeView s lch sp r ia).bytes, label := (homeView s lch sp r ia).label, bad := (homeView s lch sp r ia).bad
    leaseEnd := (grantLease (countAccess s sp ia) (lineOf sp ia) 0).2, dom := ((granted s sp ia).page ia).dom }

theorem homeView_bytes {s : State} {lch : Nat} {sp : Space} {ia : Nat} (r : List DWord) (h : peerLine s (lineOf sp ia) = false) (hia : ia < 2 ^ 52)
    (hreplay : (s.launch lch).replay = false) (hrequeue : (s.launch lch).requeued = false) :
    (homeView s lch sp r ia).bytes = readBytes (s.store sp) (ia / 64 * 64) 64 := by
  rw [homeView, granted_rest h hia,
    memRead_of_plain (s := { s with pages := (countAccess s sp ia).pages, cores := (granted s sp ia).cores }) hreplay hrequeue]
  cases sp <;> rfl

/-- A fetch with no pin on the line, let through by the memory side, from memory without a failed grain: the line's 64 bytes, of which
the CU keeps a copy; only page entries, leases and copies change. -/
theorem fetchLine_of_sound {s : State} {vf : Nat} {dom : BitVec 8} {lch : Nat} {sp : Space} {r : List DWord} {ia : Nat} (who : Waiter) (cid : Nat)
    (hia : ia < 2 ^ 52) (hpin : pinHolders s (lineOf sp ia) = []) (hreplay : (s.launch lch).replay = false) (hrequeue : (s.launch lch).requeued = false)
    (hpeer : peerLine s (lineOf sp ia) = false) (hg : s.grains = []) (hs : s.sectors = []) (hside : memSide s vf dom sp r ia false 0 = .ok s) :
    ∃ t v, fetchLine s who vf dom cid lch sp r ia 0 false = .ok t v ∧ v.bytes = readBytes (s.store sp) (ia / 64 * 64) 64 ∧
      t = { s with pages := t.pages, cus := t.cus, cores := t.cores } ∧ ∃ c, tfind (t.cu cid).l1 (lineOf sp ia) = some c ∧ c.bytes = v.bytes := by
  have helse : pinnedElsewhere s (ownHolders cid) (lineOf sp ia) = false := by simp [pinnedElsewhere, hpin]
  refine ⟨fillCopies (granted s sp ia) cid (lineOf sp ia) (homeCopy s lch sp r ia) false, homeView s lch sp r ia, ?_,
    homeView_bytes r hpeer hia hreplay hrequeue, ?_, fillCopies_l1 _ cid (lineOf sp ia) (homeCopy s lch sp r ia)⟩
  · simp only [fetchLine, ownPin_of_no_holder hpin, helse, hside, hreplay, detectMem_of_sound hg hs]
    rfl
  · rw [fillCopies_rest, granted_rest hpeer hia]

/-! The fetch of a word (R32; log entry 6). -/

section fetch

variable {s : State} {p : Nat} {b : Bundle}

theorem fetchFor_no_range (h : rangeOf s (bundleVf s b) b.pc = none) : fetchFor s p b = .trap 3 := by
  simp only [fetchFor, h]

variable {k : Nat} {r : List DWord} (hr : rangeOf s (bundleVf s b) b.pc = some (k, r))

include hr

theorem fetchFor_no_execute (hx : permX r = false) : fetchFor s p b = .trap 4 := by
  simp [fetchFor, hr, hx]

theorem fetchFor_cached (hx : permX r = true) {v : LineView}
    (hv : cachedLine s (p / 4) (s.wg (wgOf (b.tids.headD 0))).launch (s.ctx (bundleVf s b)).dom (spaceOf r) r (iaOf r b.pc) = some v) :
    fetchFor s p b = .word s (v.word (iaOf r b.pc)) := by
  simp only [fetchFor, hr, hx, hv, Bool.not_true, Bool.false_eq_true, if_false]

theorem fetchFor_fetched (hx : permX r = true)
    (hv : cachedLine s (p / 4) (s.wg (wgOf (b.tids.headD 0))).launch (s.ctx (bundleVf s b)).dom (spaceOf r) r (iaOf r b.pc) = none)
    {t : State} {v : LineView}
    (hf : fetchLine s (.bundle p b.pc) (bundleVf s b) (s.ctx (bundleVf s b)).dom (p / 4) (s.wg (wgOf (b.tids.headD 0))).launch (spaceOf r) r (iaOf r b.pc) 0 false =
      .ok t v) : fetchFor s p b = .word t (v.word (iaOf r b.pc)) := by
  simp only [fetchFor, hr, hx, hv, hf, Bool.not_true, Bool.false_eq_true, if_false]

theorem fetchFor_pinned (hx : permX r = true) (hia : iaOf r b.pc % 4 = 0) {h : Holder} {q : Pin}
    (hq : ownPin s (p / 4) (lineOf (spaceOf r) (iaOf r b.pc)) = some (h, q)) (hlen : q.bytes.length = 64) :
    fetchFor s p b = .word s (wordOfBytes (codeByte (iaOf r b.pc) q.bytes)) := by
  rw [fetchFor_cached (v := { bytes := q.bytes, bad := q.bad, label := q.label ||| storedLabel s (spaceOf r) r (iaOf r b.pc) }) hr hx
    (by simp only [cachedLine, hq]), LineView.word_eq _ hlen hia]

theorem fetchFor_copied (hx : permX r = true) (hia : iaOf r b.pc % 4 = 0)
    (hq : ownPin s (p / 4) (lineOf (spaceOf r) (iaOf r b.pc)) = none) (hreplay : (s.launchOf (wgOf (b.tids.headD 0))).replay = false) {c : CopyLine}
    (hc : liveCopy s (p / 4) (s.ctx (bundleVf s b)).dom (lineOf (spaceOf r) (iaOf r b.pc)) = some c) (hlen : c.bytes.length = 64) :
    fetchFor s p b = .word s (wordOfBytes (codeByte (iaOf r b.pc) c.bytes)) := by
  rw [State.launchOf] at hreplay
  rw [fetchFor_cached (v := c.view) hr hx (by simp only [cachedLine, hq, hreplay, hc]; rfl), LineView.word_eq _ hlen hia]
  rfl

/-- Without pin or live copy the word is the four bytes of memory, and the CU has a copy of them. -/
theorem fetchFor_memory (hx : permX r = true) (hia : iaOf r b.pc % 4 = 0) (hpin : pinHolders s (lineOf (spaceOf r) (iaOf r b.pc)) = [])
    (hreplay : (s.launchOf (wgOf (b.tids.headD 0))).replay = false) (hrequeue : (s.launchOf (wgOf (b.tids.headD 0))).requeued = false)
    (hcopy : liveCopy s (p / 4) (s.ctx (bundleVf s b)).dom (lineOf (spaceOf r) (iaOf r b.pc)) = none)
    (hpeer : peerLine s (lineOf (spaceOf r) (iaOf r b.pc)) = false) (hsound : soundMemory s)
    (hside : memSide s (bundleVf s b) (s.ctx (bundleVf s b)).dom (spaceOf r) r (iaOf r b.pc) false 0 = .ok s) :
    ∃ t, fetchFor s p b = .word t (wordOfBytes fun j => sget 0#8 (s.store (spaceOf r)) (iaOf r b.pc + j)) ∧
      t = { s with pages := t.pages, cus := t.cus, cores := t.cores } ∧
      ∃ c, tfind (t.cu (p / 4)).l1 (lineOf (spaceOf r) (iaOf r b.pc)) = some c ∧
        codeByte (iaOf r b.pc) c.bytes 0 = sget 0#8 (s.store (spaceOf r)) (iaOf r b.pc) := by
  obtain ⟨hg, hs, -⟩ := hsound
  obtain ⟨t, v, hfetch, hbytes, ht, c, hc, hcv⟩ :=
    fetchLine_of_sound (ia := iaOf r b.pc) (.bundle p b.pc) (p / 4) (Nat.mod_lt _ (by decide)) hpin hreplay hrequeue hpeer hg hs hside
  have hmiss : cachedLine s (p / 4) (s.wg (wgOf (b.tids.headD 0))).launch (s.ctx (bundleVf s b)).dom (spaceOf r) r (iaOf r b.pc) = none := by
    rw [State.launchOf] at hreplay
    simp only [cachedLine, ownPin_of_no_holder hpin, hreplay, hcopy]
    rfl
  have hbyte : ∀ j < 4, codeByte (iaOf r b.pc) v.bytes j = sget 0#8 (s.store (spaceOf r)) (iaOf r b.pc + j) := fun j hj => by
    rw [hbytes, codeByte_readBytes _ (by omega)]
  refine ⟨t, ?_, ht, c, hc, ?_⟩
  · rw [fetchFor_fetched hr hx hmiss hfetch, LineView.word_eq _ (by rw [hbytes, readBytes_length]) hia]
    simp only [wordOfBytes, hbyte 0 (by decide), hbyte 1 (by decide), hbyte 2 (by decide), hbyte 3 (by decide)]
  · rw [hcv]; exact hbyte 0 (by decide)

end fetch

/-! The acts (log entry 2). -/

theorem nextAct_of_head {s : State} {a : Act} (h : s.agenda.head? = some a) : nextAct s = a := by
  unfold nextAct
  cases hl : s.agenda with
  | nil => simp [hl] at h
  | cons x r => simpa [hl] using h

theorem step_of_booted {s : State} (h : s.pkg.booted = true) : step s = actStep { s with agenda := s.agenda.tail } (nextAct s) := by
  simp [step, h]

theorem step_of_head {s : State} {a : Act} (h : s.pkg.booted = true) (ha : s.agenda.head? = some a) :
    step s = actStep { s with agenda := s.agenda.tail } a := by
  rw [step_of_booted h, nextAct_of_head ha]

/-- With nothing on the agenda the policy's act is taken. -/
theorem step_of_policy {s : State} (h : s.pkg.booted = true) (ha : s.agenda = []) : step s = step { s with agenda := [policy s] } := by
  rw [step_of_booted h, step_of_head (s := { s with agenda := [policy s] }) (a := policy s) h rfl]
  simp [nextAct, ha]

theorem step_held_in_reset {s : State} (h : s.pkg.booted = false) (ha : ∀ a b c d, nextAct s ≠ .event (.powerOnBoot a b c d)) :
    step s = .fault .heldInReset := by
  have hboot : isBoot (nextAct s) = false := by
    unfold isBoot
    split
    · rename_i he
      exact absurd he (ha _ _ _ _)
    · rfl
  simp [step, h, hboot]

section issue

variable {s : State} {p : Nat} {b : Bundle} (hb : tfind s.pipes p = some b) (hf : bundleFrozen s b = false)

include hb hf

theorem issuePipe_trap {c : Nat} (h : fetchFor s p b = .trap c) : issuePipe s p = .next (takeTrap s b.tids (faultReq b c b.tids)) := by
  simp [issuePipe, hb, hf, h]

theorem issuePipe_wait {t : State} (h : fetchFor s p b = .wait t) : issuePipe s p = .next t := by
  simp [issuePipe, hb, hf, h]

theorem issuePipe_decoded {t : State} {w : Word} {i : Instr} (h : fetchFor s p b = .word t w) (hw : decode w = .ok i) :
    issuePipe s p = exec i { t with turn := p } := by
  simp [issuePipe, hb, hf, h, hw]

theorem issuePipe_illegal {t : State} {w : Word} {e} (h : fetchFor s p b = .word t w) (hw : decode w = .error e) :
    issuePipe s p = exec (.illegalEncoding w) { t with turn := p } := by
  simp only [issuePipe, hb, hf, h, hw]
  rfl

end issue

theorem issuePipe_idle {s : State} {p : Nat} (h : tfind s.pipes p = none ∨ ∃ b, tfind s.pipes p = some b ∧ bundleFrozen s b = true) :
    issuePipe s p = .next s := by
  rcases h with h | ⟨b, hb, hf⟩
  · simp [issuePipe, h]
  · simp [issuePipe, hb, hf]

theorem eventStep_taken {s : State} {e : Instr} (hw : (shape e).word = false) (hf : frozen s e = false) : eventStep s e = exec e (unstall s) := by
  simp [eventStep, isStep, hw, hf]

/-- A power-on is taken in reset too (R453). -/
theorem step_of_boot {s : State} {a b c d : Bool} (ha : s.agenda.head? = some (.event (.powerOnBoot a b c d))) : ∃ t, step s = .next t := by
  have hstep : step s = exec (.powerOnBoot a b c d) (unstall { s with agenda := s.agenda.tail }) := by
    rw [step, nextAct_of_head ha, if_pos (by simp [isBoot])]
    exact eventStep_taken rfl rfl
  rw [hstep]
  exact exec_next _ _

theorem eventStep_skipped {s : State} {e : Instr} (h : (shape e).word = true ∨ frozen s e = true) : eventStep s e = .next s := by
  rcases h with h | h <;> simp [eventStep, isStep, h]

/-- Settles O1: from the inversion of the fetch, the issue of a pipe and the acts. -/
theorem stepRunsDecodedInstruction : Obligations.StepRunsDecodedInstruction := by
  intro s s'
  refine ⟨fun i => exec_next i s, step_of_policy, fun p b hboot ha hb hf => ?_, fun p hboot ha h => ?_, fun e hboot ha hw hf => ?_,
    fun e hboot ha h => ?_, fun n hboot ha => ?_, fun u hboot ha => step_of_head hboot ha, fun a b c d => step_of_boot, step_held_in_reset⟩
  · have hstep : step s = issuePipe s' p := step_of_head hboot ha
    have hb' : tfind s'.pipes p = some b := hb
    have hf' : bundleFrozen s' b = false := hf
    refine ⟨fun c h => ?_, fun t h => ?_, fun t w i h hw => ?_, fun t w e h hw => ?_, fun h => fetchFor_no_range h, fun k r hr hx => fetchFor_no_execute hr hx,
      fun k r hr hx hia => ⟨fun h q hq hlen => fetchFor_pinned (s := s') hr hx hia hq hlen, fun c hq hrep hc hlen => fetchFor_copied (s := s') hr hx hia hq hrep hc hlen,
        fun hpin hrep hreq hcopy hpeer hsound hside => fetchFor_memory (s := s') hr hx hia hpin hrep hreq hcopy hpeer hsound hside⟩⟩
    · rw [hstep, issuePipe_trap hb' hf' h]
    · rw [hstep, issuePipe_wait hb' hf' h]
    · rw [hstep, issuePipe_decoded hb' hf' h hw]
    · rw [hstep, issuePipe_illegal hb' hf' h hw]
  · rw [step_of_head hboot ha]
    exact issuePipe_idle h
  · rw [step_of_head hboot ha]
    exact eventStep_taken hw hf
  · rw [step_of_head hboot ha]
    exact eventStep_skipped h
  · exact ⟨timeStep s' n, step_of_head hboot ha, rfl, rfl, rfl, rfl, rfl⟩

end Sys2Proof.Machine
end
